-- ==== Sys2Proof/Word.lean ====
section
/-! DEFINITION. The word types of the Drupaud block: bytes, 16-, 32- and 64-bit words (R63, R69, R126). -/

namespace Sys2Proof

/-- One byte of memory, of a packet or of a buffer. -/
abbrev Byte := BitVec 8

/-- A 16-bit word: an element of the matrix array, a tag, an LFSR state. -/
abbrev W16 := BitVec 16

/-- A 32-bit word: one vector register, one register word (R28, R205). -/
abbrev W32 := BitVec 32

/-- A 64-bit word: an address, a uniform register, fabric time (R69). -/
abbrev W64 := BitVec 64

end Sys2Proof
end

