-- ==== Sys2Proof/Syntax.lean ====
section
/-! DEFINITION. The commands of the block: one constructor per row of the opcode table, in the table's order, with the
row's operands. The table gives the rows no bits. Numbers that name things (a core, a queue, a port, a page) are
natural numbers; words the manual treats as bits are bit vectors. -/

namespace Sys2Proof

/-- The operand fields of a Vreltia instruction (R64, R65), and the immediate of the long form (R66). -/
structure Fields where
  dst   : BitVec 8
  srca  : BitVec 8
  srcb  : BitVec 8
  srcc  : BitVec 8
  guard : BitVec 3
  neg   : Bool
  ge    : Bool
  ua    : Bool
  ub    : Bool
  ic    : Bool
  opmod : BitVec 8
  long  : Option W64
  deriving DecidableEq, Repr

/-- One issue: the core, the group slot, the address of the set that issues (R35), and the instruction's fields. -/
structure Issue where
  core  : Nat
  gslot : Nat
  pc    : W64
  f     : Fields
  deriving DecidableEq, Repr

/-- Why the Box Office preempts a team (R54, R383 to R410): the save is kept or discarded. -/
inductive PreemptWhy | quantum | priority | cancel | loss | test
  deriving DecidableEq, Repr

/-- A packet of the fabric (R241), with its header fields (R236): address, operation word, data, and the damaged 32 B sectors of the data,
bit i for the i-th (R175). -/
structure Pkt where
  kind   : Nat
  dst    : Nat
  src    : Nat
  spart  : Nat
  pseq   : Nat
  txid   : Nat
  status : Nat
  addr   : Nat
  op     : Nat
  data   : List Byte
  marks  : Nat
  deriving DecidableEq, Repr

/-- A flit of a die-to-die link that fails its check (R22): the die, and whether it is a retransmission that failed. -/
structure D2dFlit where
  die   : Nat
  again : Bool
  deriving DecidableEq, Repr

/-- A COLL packet as it arrives: how many ns it comes from the instant its slot gives it (R289). -/
structure CollIn where
  pkt : Pkt
  off : Nat
  deriving DecidableEq, Repr

/-- What a port's training has found (R234, R235): the loop in ns, and the skew of its lanes in ns. -/
structure Trained where
  loop : Nat
  skew : Nat
  deriving DecidableEq, Repr

/-- A BAR0 access of a function: offset and bytes. -/
structure BarAcc where
  fn   : Nat
  addr : Nat
  size : Nat
  deriving DecidableEq, Repr

/-- A configuration access: a read of a word, or a write of it. -/
structure CfgAcc where
  what  : Nat
  write : Option Nat
  deriving DecidableEq, Repr

/-- An error that the protection of a structure finds (R176, R177, R181, R406, R408). The table has no row for it: it comes with LOAD_RETURN (DESIGN
CHOICE, assumption 125). -/
inductive StoreErr
  | corr (type inst loc : Nat)             -- corrected in a block, at a location
  | vreg (core gslot t r : Nat)            -- uncorrectable in a vector register
  | ureg (core gslot r : Nat)              -- in a uniform register
  | preds (core gslot : Nat)               -- in a group's predicates
  | tile (core sector : Nat)               -- in a 32 B sector of tile memory
  | weights (core : Nat) (shadow : Bool)   -- in a weight set
  | mxEntry (core i : Nat)                 -- in an entry of the matrix queue
  | tmEntry (core i : Nat)                 -- in an entry of the tile-mover queue
  | icLine (core line : Nat)               -- parity in a line of the instruction cache
  | xlat (core ctx page : Nat)             -- parity in an entry of a core's translation cache
  | sharedXlat (ctx page : Nat)            -- parity in an entry of the shared translation cache
  | l1 (core line i : Nat)                 -- uncorrectable in a sector of an L1
  | l2 (line i : Nat)                      -- in a sector of the L2
  | hbm (sector : Nat)                     -- in a sector of device memory, or of a pool entry written to it
  | loft (slot t i : Nat)                  -- in a sector of a tile in the Loft
  | counter (page off : Nat)               -- uncorrectable in a counter
  | fec (port corr unc : Nat)              -- codewords of a port that its FEC corrected, and could not
  deriving DecidableEq, Repr

/-- What a packet of VC3 carries (R240). The plan exchange tells whether the link between two other chips is in service (R251). -/
inductive Mgmt
  | announce (chip port major minor members : Nat)
  | time (t1 t2 t3 t4 : Nat) (locked : Bool) (hops errest : Nat)
  | abort (reason : Nat)
  | cancel (cid : Nat)
  | plan (a b : Nat) (up : Bool)
  | remote (data : List Byte)
  deriving DecidableEq, Repr

/-- A device read of host memory that has no completion (R296): a thread's access, a queue's fetch, a running command
or a tile mover's command. -/
inductive HostRead
  | acc (core gslot id : Nat)
  | fetch (q : Nat)
  | cmd (q idx : Nat)
  | tm (core : Nat)
  deriving DecidableEq, Repr

/-- A cabling plan as the Ringmaster reads it from an image (R244, R261, R263, R269). The manual gives the image no
layout: the parsed plan is the operand. `ends` are the (chip, port) pairs that the plan lists anywhere; `ports` are this chip's own
entries: number, local flag, expected peer chip and port; `globals` are the pairs of chips that a global link joins. -/
structure Plan where
  chip    : Nat
  members : Nat
  ends    : List (Nat × Nat)
  ports   : List (Nat × Bool × Nat × Nat)
  globals : List (Nat × Nat)
  masters : List Nat
  digest  : W64
  tp      : Nat
  deriving DecidableEq, Repr

/-- A SHA-256 digest. -/
abbrev Digest := BitVec 256

/-- A firmware image (R366) as the checks read it: header well formed, sequence number, SVN, the lengths of the
Ringmaster part and of the whole, whether the signature verifies and whether the secondary part matches its digest; and the digests of
the two parts. -/
structure Image where
  valid  : Bool
  seqNo  : Nat
  svn    : Nat
  rmLen  : Nat
  len    : Nat
  sigOk  : Bool
  secOk  : Bool
  rmDigest  : Digest
  secDigest : Digest
  deriving DecidableEq, Repr

/-- The commands. -/
inductive Instr
  /-- IADD (R77). -/
  | iadd (i : Issue)
  /-- ISUB (R77). -/
  | isub (i : Issue)
  /-- IMUL (R77). -/
  | imul (i : Issue)
  /-- IMAD (R77). -/
  | imad (i : Issue)
  /-- IMIN (R77). -/
  | imin (i : Issue)
  /-- IMAX (R77). -/
  | imax (i : Issue)
  /-- IABS (R141). -/
  | iabs (i : Issue)
  /-- AND (R77). -/
  | and_ (i : Issue)
  /-- OR (R77). -/
  | or_ (i : Issue)
  /-- XOR (R77). -/
  | xor (i : Issue)
  /-- NOT (R77). -/
  | not_ (i : Issue)
  /-- SHL (R77). -/
  | shl (i : Issue)
  /-- SHR (R77). -/
  | shr (i : Issue)
  /-- POPC (R77). -/
  | popc (i : Issue)
  /-- CLZ (R77). -/
  | clz (i : Issue)
  /-- UMOV (R73). -/
  | umov (i : Issue)
  /-- UIADD (R73). -/
  | uiadd (i : Issue)
  /-- UISUB (R73). -/
  | uisub (i : Issue)
  /-- UIMUL (R73). -/
  | uimul (i : Issue)
  /-- UAND (R73). -/
  | uand (i : Issue)
  /-- UOR (R73). -/
  | uor (i : Issue)
  /-- USHL (R73). -/
  | ushl (i : Issue)
  /-- USHR (R73). -/
  | ushr (i : Issue)
  /-- UMOV_S (R71). -/
  | umovS (i : Issue)
  /-- URDLANE (R78). -/
  | urdlane (i : Issue)
  /-- ULD_G (R439). -/
  | uldG (i : Issue)
  /-- FADD (R139). -/
  | fadd (i : Issue)
  /-- FMUL (R139). -/
  | fmul (i : Issue)
  /-- FFMA (R139). -/
  | ffma (i : Issue)
  /-- FMIN (R140). -/
  | fmin (i : Issue)
  /-- FMAX (R140). -/
  | fmax (i : Issue)
  /-- FDIV (R139). -/
  | fdiv (i : Issue)
  /-- FSQRT (R139). -/
  | fsqrt (i : Issue)
  /-- FRCP (R139). -/
  | frcp (i : Issue)
  /-- FRSQ (R139). -/
  | frsq (i : Issue)
  /-- FEXP2 (R139). -/
  | fexp2 (i : Issue)
  /-- FLOG2 (R139). -/
  | flog2 (i : Issue)
  /-- FSIN (R139). -/
  | fsin (i : Issue)
  /-- FCOS (R139). -/
  | fcos (i : Issue)
  /-- DADD (R139). -/
  | dadd (i : Issue)
  /-- DMUL (R139). -/
  | dmul (i : Issue)
  /-- DFMA (R139). -/
  | dfma (i : Issue)
  /-- DMIN (R140). -/
  | dmin (i : Issue)
  /-- DMAX (R140). -/
  | dmax (i : Issue)
  /-- DDIV (R139). -/
  | ddiv (i : Issue)
  /-- DSQRT (R139). -/
  | dsqrt (i : Issue)
  /-- F2F (R143). -/
  | f2f (i : Issue)
  /-- F2I (R143). -/
  | f2i (i : Issue)
  /-- I2F (R143). -/
  | i2f (i : Issue)
  /-- I2I (R143). -/
  | i2i (i : Issue)
  /-- ISETP (R77). -/
  | isetp (i : Issue)
  /-- FSETP (R140). -/
  | fsetp (i : Issue)
  /-- DSETP (R140). -/
  | dsetp (i : Issue)
  /-- PLOP (R77). -/
  | plop (i : Issue)
  /-- MOV (R77). -/
  | mov (i : Issue)
  /-- MOV_S (R71). -/
  | movS (i : Issue)
  /-- SEL (R77). -/
  | sel (i : Issue)
  /-- SHFL (R78). -/
  | shfl (i : Issue)
  /-- VOTE_ANY (R78). -/
  | voteAny (i : Issue)
  /-- VOTE_ALL (R78). -/
  | voteAll (i : Issue)
  /-- VOTE_BALLOT (R78). -/
  | voteBallot (i : Issue)
  /-- LD_G (R79). -/
  | ldG (i : Issue)
  /-- ST_G (R79). -/
  | stG (i : Issue)
  /-- LD_T (R80). -/
  | ldT (i : Issue)
  /-- ST_T (R80). -/
  | stT (i : Issue)
  /-- LD_IO (R81). -/
  | ldIo (i : Issue)
  /-- ST_IO (R81). -/
  | stIo (i : Issue)
  /-- CLEAN_L1 (R82). -/
  | cleanL1 (i : Issue)
  /-- INV_L1 (R82). -/
  | invL1 (i : Issue)
  /-- ATOM_ADD (R85). -/
  | atomAdd (i : Issue)
  /-- ATOM_MIN (R85). -/
  | atomMin (i : Issue)
  /-- ATOM_MAX (R85). -/
  | atomMax (i : Issue)
  /-- ATOM_EXCH (R85). -/
  | atomExch (i : Issue)
  /-- ATOM_CAS (R85). -/
  | atomCas (i : Issue)
  /-- BAR_G (R43). -/
  | barG (i : Issue)
  /-- BAR_T (R44). -/
  | barT (i : Issue)
  /-- FENCE_CORE (R87). -/
  | fenceCore (i : Issue)
  /-- FENCE_CHIP (R87). -/
  | fenceChip (i : Issue)
  /-- FENCE_SYS (R87). -/
  | fenceSys (i : Issue)
  /-- FENCE_IO (R87). -/
  | fenceIo (i : Issue)
  /-- WAITF (R89). -/
  | waitf (i : Issue)
  /-- WAITF_TIMEOUT (R89). -/
  | waitfTimeout (core gslot th : Nat)
  /-- SIGF (R90). -/
  | sigf (i : Issue)
  /-- BRA (R91). -/
  | bra (i : Issue)
  /-- BRA_R (R91). -/
  | braR (i : Issue)
  /-- CALL (R92). -/
  | call (i : Issue)
  /-- CALL_R (R92). -/
  | callR (i : Issue)
  /-- RET (R92). -/
  | ret (i : Issue)
  /-- EXIT (R93). -/
  | exit_ (i : Issue)
  /-- YIELD (R37). -/
  | yield (i : Issue)
  /-- TRAP (R93). -/
  | trap (i : Issue)
  /-- BRK (R61). -/
  | brk (i : Issue)
  /-- NOP (R93). -/
  | nop (i : Issue)
  /-- MX_LOADW (R109). -/
  | mxLoadw (i : Issue)
  /-- MX_SWAP (R110). -/
  | mxSwap (i : Issue)
  /-- MX_RUN (R112). -/
  | mxRun (i : Issue)
  /-- MX_DRAIN (R95). -/
  | mxDrain (i : Issue)
  /-- TM_GET (R96). -/
  | tmGet (i : Issue)
  /-- TM_PUT (R96). -/
  | tmPut (i : Issue)
  /-- TM_WAIT (R97). -/
  | tmWait (i : Issue)
  /-- ALLOC (R99). -/
  | alloc (i : Issue)
  /-- ALLOC_RESULT (R343). -/
  | allocResult (core gslot id region : Nat)
  /-- FREE (R100). -/
  | free (i : Issue)
  /-- CLAIM_TAKE (R103). -/
  | claimTake (core : Nat)
  /-- MATRIX_COMMAND_START (R116). -/
  | matrixCommandStart (core : Nat)
  /-- MATRIX_COMMAND_COMPLETE (R116). -/
  | matrixCommandComplete (core : Nat)
  /-- TILE_MOVER_COMMAND_START (R121). -/
  | tileMoverCommandStart (core : Nat)
  /-- TILE_MOVER_COMMAND_COMPLETE (R187). -/
  | tileMoverCommandComplete (core : Nat) (host : List Byte)
  /-- LOAD_GRANT (R193). -/
  | loadGrant
  /-- LOAD_RETURN (R165). -/
  | loadReturn (core gslot id : Nat) (host : List Byte) (errs : List StoreErr)
  /-- ICACHE_FILL (R83). -/
  | icacheFill (core gslot : Nat) (pc : W64)
  /-- BREAKPOINT_HALT (R61). -/
  | breakpointHalt (core gslot : Nat) (pc : W64)
  /-- BARRIER_WATCHDOG_EXPIRY (R48). -/
  | barrierWatchdogExpiry (core : Nat) (team : Bool) (slot : Nat)
  /-- FAULT_RECORD_WRITE (R52). -/
  | faultRecordWrite (core : Nat)
  /-- FAULT_RECORD_COPY (R52). -/
  | faultRecordCopy (core : Nat)
  /-- HALT (R58). -/
  | halt (fn core gslot : Nat)
  /-- GROUP_HALTED (R58). -/
  | groupHalted (core gslot : Nat)
  /-- RESUME (R58). -/
  | resume (fn core gslot : Nat)
  /-- STEP (R59). -/
  | step (fn core gslot : Nat) (stepsel : Bool)
  /-- STEP_RETIRE (R59). -/
  | stepRetire (core gslot : Nat)
  /-- TEAM_ADMIT (R42). -/
  | teamAdmit (part : Nat)
  /-- PREEMPT_TEAM (R54). -/
  | preemptTeam (core tslot : Nat) (why : PreemptWhy)
  /-- TEAM_SAVED (R54). -/
  | teamSaved (core tslot : Nat)
  /-- TEAM_RESTORE (R56). -/
  | teamRestore (core idx : Nat)
  /-- QUANTUM_EXPIRY (R332). -/
  | quantumExpiry (part : Nat)
  /-- GETS (R167). -/
  | gets (core line : Nat)
  /-- GETX (R167). -/
  | getx (core line : Nat)
  /-- PUTM (R167). -/
  | putm (core line : Nat)
  /-- L1_BYPASS_READ (R167). -/
  | l1BypassRead (core gslot id : Nat)
  /-- L1_BYPASS_WRITE (R167). -/
  | l1BypassWrite (core gslot id : Nat)
  /-- ATOMIC_AT_HOME (R85). -/
  | atomicAtHome (core gslot id : Nat)
  /-- RECALL (R169). -/
  | recall (core line : Nat)
  /-- FORWARD (R168). -/
  | forward (core line : Nat)
  /-- DIRECTORY_ANSWER (R167). -/
  | directoryAnswer (core line : Nat)
  /-- RECALL_TIMEOUT (R171). -/
  | recallTimeout (core line : Nat)
  /-- AGENT_PROBE (R173). -/
  | agentProbe (die line : Nat)
  /-- AGENT_WRITE (R174). -/
  | agentWrite (addr : Nat) (data : List Byte) (poisoned : Bool)
  /-- POOL_ENTRY_GRANT (R151). -/
  | poolEntryGrant (die : Nat) (waiting : List Nat) (freed : List Nat)
  /-- PATROL_SCRUB (R178). -/
  | patrolScrub (granule : Nat) (corrected uncorrectable : List Nat)
  /-- CHIP_FATAL_ERROR (R390). -/
  | chipFatalError (code type inst addr : Nat)
  /-- PARTITION_ERROR (R388). -/
  | partitionError (kind number : Nat)
  /-- D2D_FLIT_CRC_FAIL (R22). -/
  | d2dFlitCrcFail (port : D2dFlit)
  /-- D2D_RETRAIN (R22). -/
  | d2dRetrain (port : Nat) (lostLock : Bool)
  /-- D2D_RETRAIN_COMPLETE (R22). -/
  | d2dRetrainComplete (port : Nat) (ok : Bool)
  /-- PACKET_FETCH (R334). -/
  | packetFetch (q : Nat) (host : Option (List Byte))
  /-- LAUNCH (R337). -/
  | launch (q idx : Nat) (host : List Byte)
  /-- STREAM (R184). -/
  | stream (q idx : Nat) (host : List Byte)
  /-- COPY (R440). -/
  | copy (q idx : Nat) (host : List Byte)
  /-- FILL (R337). -/
  | fill (q idx : Nat) (host : List Byte)
  /-- PACK (R203). -/
  | pack (q idx : Nat) (host : List Byte)
  /-- PACK_GRANULE_RETURN (R203). -/
  | packGranuleReturn (ctx pa : Nat)
  /-- SIGNAL (R337). -/
  | signal (q idx : Nat)
  /-- WAIT (R348). -/
  | wait (q idx : Nat)
  /-- WAIT_TIMEOUT (R348). -/
  | waitTimeout (q idx : Nat)
  /-- MAP (R339). -/
  | map_ (q idx : Nat)
  /-- UNMAP (R342). -/
  | unmap (q idx : Nat)
  /-- RELEASE (R341). -/
  | release (q idx : Nat)
  /-- PIN_DROP (R341). -/
  | pinDrop (ctx handle : Nat)
  /-- COLLECTIVE (R279). -/
  | collective (q idx : Nat)
  /-- TAG_CANCEL (R345). -/
  | tagCancel (q idx : Nat)
  /-- NOP_COMMAND (R336). -/
  | nopCommand (q idx : Nat)
  /-- COMMAND_COMPLETION (R331). -/
  | commandCompletion (q idx : Nat)
  /-- DOORBELL_WRITE (R328). -/
  | doorbellWrite (fn q : Nat) (value : W64)
  /-- CTX_CREATE (R325). -/
  | ctxCreate (fn page : Nat)
  /-- CTX_KILL (R350). -/
  | ctxKill (fn page : Nat)
  /-- Q_CREATE (R327). -/
  | qCreate (fn page : Nat)
  /-- Q_DESTROY (R325). -/
  | qDestroy (fn page : Nat)
  /-- FEN_ASSIGN (R325). -/
  | fenAssign (fn page : Nat)
  /-- FEN_SHARE (R347). -/
  | fenShare (fn page : Nat)
  /-- FEN_UNSHARE (R325). -/
  | fenUnshare (fn page : Nat)
  /-- CTX_QUERY (R325). -/
  | ctxQuery (fn page : Nat)
  /-- BARKER_TILE_READ (R187). -/
  | barkerTileRead (die slot : Nat)
  /-- READ_TAG_GRANT (R191). -/
  | readTagGrant (die : Nat) (waiting : List Nat) (freed : List Nat)
  /-- TILE_READY (R187). -/
  | tileReady (slot : Nat)
  /-- BOUNDARY_EVENT (R195). -/
  | boundaryEvent (slot : Nat)
  /-- WRITE (R255). -/
  | write (p : Pkt)
  /-- READ (R256). -/
  | read_ (p : Pkt)
  /-- ATOMIC (R257). -/
  | atomic (p : Pkt)
  /-- SIGF_PACKET (R255). -/
  | sigfPacket (p : Pkt)
  /-- RESP (R242). -/
  | resp (p : Pkt)
  /-- COLL (R282). -/
  | coll (port : Nat) (p : CollIn)
  /-- MCAST (R293). -/
  | mcast (port : Nat) (p : Pkt)
  /-- MGMT (R240). -/
  | mgmt (port : Nat) (msg : Mgmt)
  /-- FLIT_RECEIVE (R237). -/
  | flitReceive (port : Nat) (flit : List Byte)
  /-- ACK_TIMEOUT (R237). -/
  | ackTimeout (port : Nat)
  /-- FAST_RETRAIN_COMPLETE (R239). -/
  | fastRetrainComplete (port : Nat) (ok : Bool)
  /-- RETRY_RESEND (R255). -/
  | retryResend (id : Nat)
  /-- REMOTE_REQUEST_TIMEOUT (R258). -/
  | remoteRequestTimeout (id : Nat)
  /-- WINDOW_CLOSE_EXPIRY (R250). -/
  | windowCloseExpiry (entry : Nat)
  /-- PORT_TRAINING_COMPLETE (R261). -/
  | portTrainingComplete (port : Nat) (loopNs : Trained)
  /-- RIGGING_ANNOUNCEMENT (R261). -/
  | riggingAnnouncement (port chip aport major minor members : Nat)
  /-- RIGGING_DARK_TIMEOUT (R261). -/
  | riggingDarkTimeout (port : Nat)
  /-- LINK_SIGNAL_LOSS (R263). -/
  | linkSignalLoss (port : Nat)
  /-- PLAN_CHANGE (R263). -/
  | planChange
  /-- PLAN_PORT_DOWN (R263). -/
  | planPortDown (port : Nat)
  /-- RETRAIN (R266). -/
  | retrain (fn port : Nat)
  /-- DISABLE (R266). -/
  | disable (fn port : Nat) (b : Bool)
  /-- ACCEPT (R262). -/
  | accept (fn port : Nat)
  /-- PRBS_MODE_WRITE (R413). -/
  | prbsModeWrite (fn port mode : Nat)
  /-- LINK_MEASUREMENT (R270). -/
  | linkMeasurement (port t1 t2 t3 t4 : Nat) (locked : Bool) (hops errest : Nat)
  /-- SERVO_UPDATE (R271). -/
  | servoUpdate
  /-- GRANDMASTER_TIMEOUT (R269). -/
  | grandmasterTimeout
  /-- PTM_DIALOGUE (R274). -/
  | ptmDialogue (ht ft : Nat)
  /-- SCHEDULED_COMMIT (R306). -/
  | scheduledCommit (page : Nat)
  /-- COUNTER_SAMPLE (R406). -/
  | counterSample (part : Nat)
  /-- SLOT_OPEN (R288). -/
  | slotOpen (slot : Nat)
  /-- ABORT_NOTICE (R289). -/
  | abortNotice (reason : Nat)
  /-- CANCEL_NOTICE (R291). -/
  | cancelNotice (cid : Nat)
  /-- COLLECTIVE_TIMEOUT (R291). -/
  | collectiveTimeout (cid : Nat)
  /-- PIECE_RESEND_TIMEOUT (R290). -/
  | pieceResendTimeout (cid piece port : Nat)
  /-- LOAD (R284). -/
  | load (fn : Nat)
  /-- PLAN_LOAD_COMPLETE (R284). -/
  | planLoadComplete
  /-- BLK_COMMIT (R304). -/
  | blkCommit (fn page : Nat)
  /-- BLK_COMMIT_AT_WRITE (R306). -/
  | blkCommitAtWrite (fn page : Nat) (value : W64)
  /-- BLK_OWNER_WRITE (R303). -/
  | blkOwnerWrite (fn page value : Nat)
  /-- QUIESCE (R302). -/
  | quiesce (fn page : Nat) (b : Bool)
  /-- BLOCK_QUIESCED (R302). -/
  | blockQuiesced (page : Nat)
  /-- EN (R302). -/
  | en (fn page : Nat) (b : Bool)
  /-- FLT_INFO_CLEAR (R52). -/
  | fltInfoClear (fn core : Nat)
  /-- REGISTER_WRITE (R10). -/
  | registerWrite (fn addr size value : Nat)
  /-- BAR0_READ_TIMEOUT (R300). -/
  | bar0ReadTimeout (write : Bool) (size : BarAcc)
  /-- BAR4_ACCESS (R313). -/
  | bar4Access (fn off : Nat) (write : Bool) (len : Nat) (data : List Byte)
  /-- CONFIG_REQUEST (R378). -/
  | configRequest (fn : Nat) (what : CfgAcc)
  /-- MIRROR_REPORT (R310). -/
  | mirrorReport (page : Nat)
  /-- MIRROR_STALE_TIMEOUT (R310). -/
  | mirrorStaleTimeout (page : Nat)
  /-- HOST_LINK_DOWN (R314). -/
  | hostLinkDown (port : Nat)
  /-- PERST_ASSERT (R419). -/
  | perstAssert
  /-- PERST_DEASSERT (R419). -/
  | perstDeassert
  /-- PF_FLR (R379). -/
  | pfFlr
  /-- VF_FLR (R351). -/
  | vfFlr (n : Nat)
  /-- WARM_RESET (R379). -/
  | warmReset (fn : Nat) (key : Nat)
  /-- MAILBOX_GO (R316). -/
  | mailboxGo (fn : Nat)
  /-- MCTP_REQUEST (R315). -/
  | mctpRequest (opcode seq : Nat) (args : List Byte)
  /-- MCTP_CONTROL (R370). -/
  | mctpControl (code eid : Nat)
  /-- GET_INFO (R317). -/
  | getInfo (chan : Nat)
  /-- GET_HEALTH (R317). -/
  | getHealth (chan : Nat)
  /-- GET_LOG (R317). -/
  | getLog (chan : Nat)
  /-- SET_POWER_LIMIT (R363). -/
  | setPowerLimit (chan : Nat)
  /-- LOAD_PLAN (R264). -/
  | loadPlan (plan : Option Plan)
  /-- FW_UPDATE (R368). -/
  | fwUpdate (image : Image)
  /-- SECURE_ERASE (R369). -/
  | secureErase (chan : Nat)
  /-- SELF_TEST (R410). -/
  | selfTest (chan : Nat)
  /-- SCRUB_PARTITION (R412). -/
  | scrubPartition (chan : Nat)
  /-- LONG_OPERATION_COMPLETE (R318). -/
  | longOperationComplete (fail : Option Nat) (found : List Nat)
  /-- PLDM_GET_SENSOR (R371). -/
  | pldmGetSensor (sensor : Nat)
  /-- PLDM_FIRMWARE_UPDATE (R371). -/
  | pldmFirmwareUpdate (image : Image)
  /-- GET_VERSION (R372). -/
  | getVersion (args : List Byte)
  /-- GET_CAPABILITIES (R372). -/
  | getCapabilities (args : List Byte)
  /-- NEGOTIATE_ALGORITHMS (R372). -/
  | negotiateAlgorithms (args : List Byte)
  /-- GET_DIGESTS (R372). -/
  | getDigests (args : List Byte)
  /-- GET_CERTIFICATE (R372). -/
  | getCertificate (args : List Byte)
  /-- CHALLENGE (R372). -/
  | challenge (args : List Byte)
  /-- GET_MEASUREMENTS (R372). -/
  | getMeasurements (index : Nat)
  /-- SMBUS_ALERT_RESPONSE (R421). -/
  | smbusAlertResponse (won : Bool)
  /-- SUBMIT (R373). -/
  | submit (fn : Nat) (sigOk revoked : Bool)
  /-- RELOCK (R373). -/
  | relock (fn : Nat)
  /-- RINGMASTER_WATCHDOG (R356). -/
  | ringmasterWatchdog
  /-- RINGMASTER_RESTART_COMPLETE (R356). -/
  | ringmasterRestartComplete
  /-- TELEMETRY_SAMPLE (R355). -/
  | telemetrySample (tier : Nat) (sensors : List Nat)
  /-- JUNCTION_COMPARATOR (R357). -/
  | junctionComparator (temp : Nat)
  /-- THERMTRIP (R377). -/
  | thermtrip
  /-- OVERCURRENT (R357). -/
  | overcurrent
  /-- INLET_OVERTEMP (R376). -/
  | inletOvertemp (temp : Nat)
  /-- UNDERVOLTAGE (R357). -/
  | undervoltage
  /-- LOSS_OF_52V (R376). -/
  | lossOf52v
  /-- INPUT_OVERVOLTAGE (R424). -/
  | inputOvervoltage
  /-- P_SHORT_BREAK (R423). -/
  | pShortBreak
  /-- LIMITER_EVALUATION (R362). -/
  | limiterEvaluation (mean : Nat)
  /-- PWR_EN_ASSERT (R375). -/
  | pwrEnAssert
  /-- PWR_EN_DEASSERT (R374). -/
  | pwrEnDeassert
  /-- AUX_POWER_ON (R374). -/
  | auxPowerOn (straps : Nat) (perst : Bool)
  /-- AUX_POWER_LOSS (R425). -/
  | auxPowerLoss
  /-- RAILS_GOOD (R378). -/
  | railsGood
  /-- BOOT_VERIFIED (R366). -/
  | bootVerified
  /-- SECONDARY_FIRMWARE_LOADED (R366). -/
  | secondaryFirmwareLoaded
  /-- HBM_TRAINING_COMPLETE (R378). -/
  | hbmTrainingComplete (failed : List Nat)
  /-- FABRIC_TRAINING_TIMEOUT (R378). -/
  | fabricTrainingTimeout
  /-- SERVICE_ENTRY (R378). -/
  | serviceEntry
  /-- IDLE_REQUEST (R383). -/
  | idleRequest (fn req : Nat)
  /-- IDLE_ENTRY_COMPLETE (R383). -/
  | idleEntryComplete
  /-- FT_ALARM (R376). -/
  | ftAlarm
  /-- RAISE (R393). -/
  | raise (fn : Nat)
  /-- CURTAIN_INSTANT (R393). -/
  | curtainInstant
  /-- JTAG_CURTAIN (R393). -/
  | jtagCurtain
  /-- JTAG_INSTRUCTION (R428). -/
  | jtagInstruction (code : Nat)
  /-- CURTAIN_QUIET (R394). -/
  | curtainQuiet
  /-- LOWER (R397). -/
  | lower (fn : Nat)
  /-- GO (R398). -/
  | go (fn : Nat)
  /-- DUMP_COMPLETE (R398). -/
  | dumpComplete (ok : Bool)
  /-- TAKE (R402). -/
  | take (fn : Nat)
  /-- SNAPSHOT_COMPLETE (R402). -/
  | snapshotComplete (ok : Bool)
  /-- CAROUSEL_SELECT (R401). -/
  | carouselSelect (fn : Nat) (value : W64)
  /-- TIMED_COMMAND_START (R335). -/
  | timedCommandStart (q idx : Nat)
  /-- OVERCURRENT_RELEASE (R357). -/
  | overcurrentRelease
  /-- UNDERVOLTAGE_RELEASE (R357). -/
  | undervoltageRelease
  /-- INPUT_52V_PRESENT (R376). -/
  | input52vPresent
  /-- THERMTRIP_RELEASE (R377). -/
  | thermtripRelease (temp : Nat)
  /-- HOST_LINK_TRAINED (R294). -/
  | hostLinkTrained (port rate width : Nat) (flit : Bool)
  /-- HOST_COMPLETION_TIMEOUT (R296). -/
  | hostCompletionTimeout (owner : HostRead)
  /-- REGISTER_ACCESS_TIMEOUT (R81). -/
  | registerAccessTimeout (core gslot id : Nat)
  /-- SCRUB_COMPLETE (R381). -/
  | scrubComplete (what n : Nat)
  deriving DecidableEq, Repr

end Sys2Proof
end

