-- ==== Sys2Proof/Decode.lean ====
section
/-! DEFINITION. The table gives no row any bits, so no word spells a command. Beside that, the layout and the opcodes of Vreltia
instruction words (R64 to R66, R76). -/

namespace Sys2Proof

/-- The command that a word spells by the table's bits: the table gives none. -/
def decodeTableWord (_nbits _w : Nat) : Option Instr := none

/-- Bits `n` wide from bit `lo` of an instruction word. -/
def wordField (w : W64) (lo n : Nat) : BitVec n := w.extractLsb' lo n

/-- MAJOR and MINOR of an instruction word (R64). -/
def majorOf (w : W64) : BitVec 8 := wordField w 56 8
def minorOf (w : W64) : BitVec 8 := wordField w 48 8

/-- The operand fields of an instruction word; `imm` is the word that follows it, taken when bit 63 is 1 (R64 to R66). -/
def decodeFields (w imm : W64) : Fields :=
  { dst := wordField w 40 8, srca := wordField w 32 8, srcb := wordField w 24 8, srcc := wordField w 16 8
    guard := wordField w 13 3, neg := w.getLsbD 12, ge := w.getLsbD 11, ua := w.getLsbD 10, ub := w.getLsbD 9
    ic := w.getLsbD 8, opmod := wordField w 0 8, long := if w.getLsbD 63 then some imm else none }

/-- The instruction word of a base-form or long-form instruction: MAJOR's seven low bits, MINOR and the operand fields
(R64 to R66). -/
def encodeFields (major : BitVec 7) (minor : BitVec 8) (f : Fields) : W64 :=
  BitVec.ofBool f.long.isSome ++ major ++ minor ++ f.dst ++ f.srca ++ f.srcb ++ f.srcc ++ f.guard ++ BitVec.ofBool f.neg
    ++ BitVec.ofBool f.ge ++ BitVec.ofBool f.ua ++ BitVec.ofBool f.ub ++ BitVec.ofBool f.ic ++ f.opmod

/-- The instruction of a class and a minor opcode; every other pair is reserved (R76). -/
def insOf (major minor : Nat) (x : Issue) : Option Instr :=
  match major, minor with
  | 0x01, 0x01 => some (.iadd x)
  | 0x01, 0x02 => some (.isub x)
  | 0x01, 0x03 => some (.imul x)
  | 0x01, 0x04 => some (.imad x)
  | 0x01, 0x05 => some (.imin x)
  | 0x01, 0x06 => some (.imax x)
  | 0x01, 0x07 => some (.iabs x)
  | 0x01, 0x08 => some (.and_ x)
  | 0x01, 0x09 => some (.or_ x)
  | 0x01, 0x0A => some (.xor x)
  | 0x01, 0x0B => some (.not_ x)
  | 0x01, 0x0C => some (.shl x)
  | 0x01, 0x0D => some (.shr x)
  | 0x01, 0x0E => some (.popc x)
  | 0x01, 0x0F => some (.clz x)
  | 0x02, 0x01 => some (.umov x)
  | 0x02, 0x02 => some (.uiadd x)
  | 0x02, 0x03 => some (.uisub x)
  | 0x02, 0x04 => some (.uimul x)
  | 0x02, 0x05 => some (.uand x)
  | 0x02, 0x06 => some (.uor x)
  | 0x02, 0x07 => some (.ushl x)
  | 0x02, 0x08 => some (.ushr x)
  | 0x02, 0x09 => some (.umovS x)
  | 0x02, 0x0A => some (.urdlane x)
  | 0x02, 0x0B => some (.uldG x)
  | 0x03, 0x01 => some (.fadd x)
  | 0x03, 0x02 => some (.fmul x)
  | 0x03, 0x03 => some (.ffma x)
  | 0x03, 0x04 => some (.fmin x)
  | 0x03, 0x05 => some (.fmax x)
  | 0x03, 0x06 => some (.fdiv x)
  | 0x03, 0x07 => some (.fsqrt x)
  | 0x03, 0x08 => some (.frcp x)
  | 0x03, 0x09 => some (.frsq x)
  | 0x03, 0x0A => some (.fexp2 x)
  | 0x03, 0x0B => some (.flog2 x)
  | 0x03, 0x0C => some (.fsin x)
  | 0x03, 0x0D => some (.fcos x)
  | 0x04, 0x01 => some (.dadd x)
  | 0x04, 0x02 => some (.dmul x)
  | 0x04, 0x03 => some (.dfma x)
  | 0x04, 0x04 => some (.dmin x)
  | 0x04, 0x05 => some (.dmax x)
  | 0x04, 0x06 => some (.ddiv x)
  | 0x04, 0x07 => some (.dsqrt x)
  | 0x05, 0x01 => some (.f2f x)
  | 0x05, 0x02 => some (.f2i x)
  | 0x05, 0x03 => some (.i2f x)
  | 0x05, 0x04 => some (.i2i x)
  | 0x06, 0x01 => some (.isetp x)
  | 0x06, 0x02 => some (.fsetp x)
  | 0x06, 0x03 => some (.dsetp x)
  | 0x06, 0x04 => some (.plop x)
  | 0x07, 0x01 => some (.mov x)
  | 0x07, 0x02 => some (.movS x)
  | 0x07, 0x03 => some (.sel x)
  | 0x07, 0x04 => some (.shfl x)
  | 0x07, 0x05 => some (.voteAny x)
  | 0x07, 0x06 => some (.voteAll x)
  | 0x07, 0x07 => some (.voteBallot x)
  | 0x08, 0x01 => some (.ldG x)
  | 0x08, 0x02 => some (.stG x)
  | 0x08, 0x03 => some (.ldT x)
  | 0x08, 0x04 => some (.stT x)
  | 0x08, 0x05 => some (.ldIo x)
  | 0x08, 0x06 => some (.stIo x)
  | 0x09, 0x01 => some (.cleanL1 x)
  | 0x09, 0x02 => some (.invL1 x)
  | 0x0A, 0x01 => some (.atomAdd x)
  | 0x0A, 0x02 => some (.atomMin x)
  | 0x0A, 0x03 => some (.atomMax x)
  | 0x0A, 0x04 => some (.atomExch x)
  | 0x0A, 0x05 => some (.atomCas x)
  | 0x0B, 0x01 => some (.barG x)
  | 0x0B, 0x02 => some (.barT x)
  | 0x0B, 0x03 => some (.fenceCore x)
  | 0x0B, 0x04 => some (.fenceChip x)
  | 0x0B, 0x05 => some (.fenceSys x)
  | 0x0B, 0x06 => some (.fenceIo x)
  | 0x0B, 0x07 => some (.waitf x)
  | 0x0B, 0x08 => some (.sigf x)
  | 0x0C, 0x01 => some (.bra x)
  | 0x0C, 0x02 => some (.braR x)
  | 0x0C, 0x03 => some (.call x)
  | 0x0C, 0x04 => some (.callR x)
  | 0x0C, 0x05 => some (.ret x)
  | 0x0C, 0x06 => some (.exit_ x)
  | 0x0C, 0x07 => some (.yield x)
  | 0x0C, 0x08 => some (.trap x)
  | 0x0C, 0x09 => some (.brk x)
  | 0x0C, 0x0A => some (.nop x)
  | 0x0D, 0x01 => some (.mxLoadw x)
  | 0x0D, 0x02 => some (.mxSwap x)
  | 0x0D, 0x03 => some (.mxRun x)
  | 0x0D, 0x04 => some (.mxDrain x)
  | 0x0E, 0x01 => some (.tmGet x)
  | 0x0E, 0x02 => some (.tmPut x)
  | 0x0E, 0x03 => some (.tmWait x)
  | 0x0F, 0x01 => some (.alloc x)
  | 0x0F, 0x02 => some (.free x)
  | _, _ => none

/-- Class, minor opcode and operands of an instruction of the thread engines; none for the other commands (R76). -/
def opOf (i : Instr) : Option (Nat × Nat × Issue) :=
  match i with
  | .iadd x => some (0x01, 0x01, x)
  | .isub x => some (0x01, 0x02, x)
  | .imul x => some (0x01, 0x03, x)
  | .imad x => some (0x01, 0x04, x)
  | .imin x => some (0x01, 0x05, x)
  | .imax x => some (0x01, 0x06, x)
  | .iabs x => some (0x01, 0x07, x)
  | .and_ x => some (0x01, 0x08, x)
  | .or_ x => some (0x01, 0x09, x)
  | .xor x => some (0x01, 0x0A, x)
  | .not_ x => some (0x01, 0x0B, x)
  | .shl x => some (0x01, 0x0C, x)
  | .shr x => some (0x01, 0x0D, x)
  | .popc x => some (0x01, 0x0E, x)
  | .clz x => some (0x01, 0x0F, x)
  | .umov x => some (0x02, 0x01, x)
  | .uiadd x => some (0x02, 0x02, x)
  | .uisub x => some (0x02, 0x03, x)
  | .uimul x => some (0x02, 0x04, x)
  | .uand x => some (0x02, 0x05, x)
  | .uor x => some (0x02, 0x06, x)
  | .ushl x => some (0x02, 0x07, x)
  | .ushr x => some (0x02, 0x08, x)
  | .umovS x => some (0x02, 0x09, x)
  | .urdlane x => some (0x02, 0x0A, x)
  | .uldG x => some (0x02, 0x0B, x)
  | .fadd x => some (0x03, 0x01, x)
  | .fmul x => some (0x03, 0x02, x)
  | .ffma x => some (0x03, 0x03, x)
  | .fmin x => some (0x03, 0x04, x)
  | .fmax x => some (0x03, 0x05, x)
  | .fdiv x => some (0x03, 0x06, x)
  | .fsqrt x => some (0x03, 0x07, x)
  | .frcp x => some (0x03, 0x08, x)
  | .frsq x => some (0x03, 0x09, x)
  | .fexp2 x => some (0x03, 0x0A, x)
  | .flog2 x => some (0x03, 0x0B, x)
  | .fsin x => some (0x03, 0x0C, x)
  | .fcos x => some (0x03, 0x0D, x)
  | .dadd x => some (0x04, 0x01, x)
  | .dmul x => some (0x04, 0x02, x)
  | .dfma x => some (0x04, 0x03, x)
  | .dmin x => some (0x04, 0x04, x)
  | .dmax x => some (0x04, 0x05, x)
  | .ddiv x => some (0x04, 0x06, x)
  | .dsqrt x => some (0x04, 0x07, x)
  | .f2f x => some (0x05, 0x01, x)
  | .f2i x => some (0x05, 0x02, x)
  | .i2f x => some (0x05, 0x03, x)
  | .i2i x => some (0x05, 0x04, x)
  | .isetp x => some (0x06, 0x01, x)
  | .fsetp x => some (0x06, 0x02, x)
  | .dsetp x => some (0x06, 0x03, x)
  | .plop x => some (0x06, 0x04, x)
  | .mov x => some (0x07, 0x01, x)
  | .movS x => some (0x07, 0x02, x)
  | .sel x => some (0x07, 0x03, x)
  | .shfl x => some (0x07, 0x04, x)
  | .voteAny x => some (0x07, 0x05, x)
  | .voteAll x => some (0x07, 0x06, x)
  | .voteBallot x => some (0x07, 0x07, x)
  | .ldG x => some (0x08, 0x01, x)
  | .stG x => some (0x08, 0x02, x)
  | .ldT x => some (0x08, 0x03, x)
  | .stT x => some (0x08, 0x04, x)
  | .ldIo x => some (0x08, 0x05, x)
  | .stIo x => some (0x08, 0x06, x)
  | .cleanL1 x => some (0x09, 0x01, x)
  | .invL1 x => some (0x09, 0x02, x)
  | .atomAdd x => some (0x0A, 0x01, x)
  | .atomMin x => some (0x0A, 0x02, x)
  | .atomMax x => some (0x0A, 0x03, x)
  | .atomExch x => some (0x0A, 0x04, x)
  | .atomCas x => some (0x0A, 0x05, x)
  | .barG x => some (0x0B, 0x01, x)
  | .barT x => some (0x0B, 0x02, x)
  | .fenceCore x => some (0x0B, 0x03, x)
  | .fenceChip x => some (0x0B, 0x04, x)
  | .fenceSys x => some (0x0B, 0x05, x)
  | .fenceIo x => some (0x0B, 0x06, x)
  | .waitf x => some (0x0B, 0x07, x)
  | .sigf x => some (0x0B, 0x08, x)
  | .bra x => some (0x0C, 0x01, x)
  | .braR x => some (0x0C, 0x02, x)
  | .call x => some (0x0C, 0x03, x)
  | .callR x => some (0x0C, 0x04, x)
  | .ret x => some (0x0C, 0x05, x)
  | .exit_ x => some (0x0C, 0x06, x)
  | .yield x => some (0x0C, 0x07, x)
  | .trap x => some (0x0C, 0x08, x)
  | .brk x => some (0x0C, 0x09, x)
  | .nop x => some (0x0C, 0x0A, x)
  | .mxLoadw x => some (0x0D, 0x01, x)
  | .mxSwap x => some (0x0D, 0x02, x)
  | .mxRun x => some (0x0D, 0x03, x)
  | .mxDrain x => some (0x0D, 0x04, x)
  | .tmGet x => some (0x0E, 0x01, x)
  | .tmPut x => some (0x0E, 0x02, x)
  | .tmWait x => some (0x0E, 0x03, x)
  | .alloc x => some (0x0F, 0x01, x)
  | .free x => some (0x0F, 0x02, x)
  | _ => none

/-- The instruction that a word spells for the set at `pc` of a group; `imm` is the word after it. -/
def decodeIns (core gslot : Nat) (pc w imm : W64) : Option Instr :=
  insOf ((majorOf w).toNat % 128) (minorOf w).toNat { core := core, gslot := gslot, pc := pc, f := decodeFields w imm }

/-- The word of an instruction, and the immediate word that follows a long-form one. -/
def encodeIns (i : Instr) : Option (W64 × Option W64) :=
  match opOf i with
  | some (major, minor, x) => some (encodeFields (BitVec.ofNat 7 major) (BitVec.ofNat 8 minor) x.f, x.f.long)
  | none => none

end Sys2Proof
end

