-- ==== Sys2Proof/Config.lean ====
section
/-! DEFINITION. What the manual leaves open: each constant below has no body, so nothing can be proved of
its value. A meaning that uses one keeps the limits the manual sets, by checking the value and falling back
on an allowed one. Each is named in a row of notes/assumptions. -/

namespace Sys2Proof.Config

/-- A fresh open bit: argument 1 is the state's free-value counter, argument 2 tells apart the uses of one
step (R119, R217, R231, R440: a word read while it is written is old or new). -/
opaque freeBit : Nat → Nat → Bool

/-- A fresh open number (placements, identifiers and times the manual leaves open). -/
opaque freeNat : Nat → Nat → Nat

/-- The function FRCP computes within its bound (R139: not published). -/
opaque frcp : W32 → W32

/-- The function FRSQ computes within its bound (R139: not published). -/
opaque frsq : W32 → W32

/-- The function FEXP2 computes within its bound (R139: not published). -/
opaque fexp2 : W32 → W32

/-- The function FLOG2 computes within its bound (R139: not published). -/
opaque flog2 : W32 → W32

/-- The function FSIN computes within its bound (R139: not published). -/
opaque fsin : W32 → W32

/-- The function FCOS computes within its bound (R139: not published). -/
opaque fcos : W32 → W32

/-- The value an LFSR is seeded with by the security block's random source (R162); zero is mapped away. -/
opaque lfsrSeed : Nat → Nat → W16

/-- The random nonce of SECU_DBGNONCE (R373). -/
opaque nonce : Nat → W64

/-- Bytes of a management response whose encoding the manual leaves to another standard or to the
firmware (GET_INFO, GET_HEALTH, GET_LOG, PLDM, SPDM): the byte at a position of a response. -/
opaque responseByte : Nat → Nat → Byte

/-- Bytes of a team's saved state, whose layout in the save area the manual does not give (R54, R326). -/
opaque saveByte : Nat → Nat → Byte

/-- Bytes of a dump section whose inner layout the manual does not give (R399). -/
opaque dumpByte : Nat → Nat → Byte

end Sys2Proof.Config
end

