-- ==== Sys2Proof/Machine/RegTable.lean ====
section
/-! DEFINITION. The registers of each page (R438 and the rules it names): offset, count, stride, width and fields. A
field whose reset value differs per instance or SKU holds 0 here; `Regs.resetOf` gives it. -/

namespace Sys2Proof.Machine

/-- Access codes (R10); `cs` is RW with a shadow. -/
inductive Access | ro | rw | wo | w1c | w1s | cs
  deriving DecidableEq, Repr

/-- A field: bits [hi:lo], access code, reset value. -/
structure FieldSpec where
  hi  : Nat
  lo  : Nat
  acc : Access
  rst : Nat
  deriving DecidableEq, Repr

/-- A register, or `n` of them `stride` bytes apart. -/
structure RegSpec where
  off    : Nat
  n      : Nat
  stride : Nat
  bytes  : Nat
  fields : List FieldSpec
  deriving DecidableEq, Repr

/-- COMMON registers. -/
def regsCommon : List RegSpec := [
  ⟨0, 1, 0, 4, [⟨15, 0, .ro, 0⟩, ⟨31, 16, .ro, 0⟩]⟩,
  ⟨4, 1, 0, 4, [⟨15, 0, .ro, 176⟩, ⟨23, 16, .ro, 0⟩, ⟨31, 24, .ro, 1⟩]⟩,
  ⟨8, 1, 0, 4, [⟨0, 0, .rw, 0⟩, ⟨1, 1, .rw, 0⟩, ⟨7, 4, .ro, 0⟩]⟩,
  ⟨12, 1, 0, 4, [⟨3, 0, .ro, 1⟩, ⟨4, 4, .ro, 0⟩, ⟨5, 5, .ro, 0⟩, ⟨6, 6, .ro, 0⟩, ⟨7, 7, .ro, 0⟩]⟩,
  ⟨16, 1, 0, 4, [⟨31, 0, .w1c, 0⟩]⟩,
  ⟨20, 1, 0, 4, [⟨31, 0, .rw, 0⟩]⟩,
  ⟨24, 1, 0, 4, [⟨0, 0, .wo, 0⟩]⟩,
  ⟨32, 1, 0, 8, [⟨63, 0, .rw, 0⟩]⟩,
  ⟨40, 1, 0, 8, [⟨0, 0, .ro, 0⟩, ⟨1, 1, .ro, 0⟩, ⟨2, 2, .ro, 0⟩, ⟨7, 3, .ro, 0⟩, ⟨63, 16, .ro, 0⟩]⟩,
  ⟨48, 1, 0, 4, [⟨2, 0, .rw, 0⟩, ⟨7, 7, .ro, 0⟩]⟩]

/-- CORE registers. -/
def regsCore : List RegSpec := [
  ⟨136, 1, 0, 4, [⟨4, 0, .rw, 24⟩]⟩,
  ⟨192, 1, 0, 4, [⟨3, 0, .ro, 0⟩, ⟨9, 4, .ro, 0⟩, ⟨13, 10, .ro, 0⟩, ⟨14, 14, .ro, 0⟩, ⟨27, 16, .ro, 0⟩, ⟨31, 31, .w1c, 0⟩]⟩,
  ⟨196, 1, 0, 4, [⟨31, 0, .ro, 0⟩]⟩,
  ⟨200, 1, 0, 8, [⟨63, 0, .ro, 0⟩]⟩,
  ⟨208, 1, 0, 8, [⟨63, 0, .ro, 0⟩]⟩,
  ⟨216, 1, 0, 4, [⟨15, 0, .ro, 0⟩, ⟨31, 16, .ro, 0⟩]⟩,
  ⟨256, 1, 0, 4, [⟨5, 0, .rw, 0⟩, ⟨8, 8, .w1s, 0⟩, ⟨9, 9, .wo, 0⟩, ⟨10, 10, .wo, 0⟩, ⟨11, 11, .rw, 0⟩]⟩,
  ⟨260, 1, 0, 4, [⟨0, 0, .ro, 0⟩, ⟨1, 1, .w1c, 0⟩, ⟨4, 2, .ro, 0⟩, ⟨5, 5, .ro, 1⟩]⟩,
  ⟨264, 1, 0, 4, [⟨7, 0, .rw, 0⟩, ⟨12, 8, .rw, 0⟩, ⟨18, 16, .rw, 0⟩]⟩,
  ⟨272, 1, 0, 8, [⟨63, 0, .rw, 0⟩]⟩,
  ⟨288, 4, 8, 8, [⟨0, 0, .rw, 0⟩, ⟨63, 3, .rw, 0⟩]⟩,
  ⟨320, 1, 0, 4, [⟨11, 0, .rw, 0⟩, ⟨31, 31, .rw, 0⟩]⟩,
  ⟨384, 1, 0, 4, [⟨5, 0, .ro, 0⟩, ⟨6, 6, .ro, 0⟩, ⟨12, 8, .ro, 0⟩, ⟨16, 16, .ro, 0⟩, ⟨17, 17, .ro, 0⟩, ⟨18, 18, .ro, 0⟩, ⟨19, 19, .ro, 0⟩]⟩,
  ⟨512, 16, 8, 8, [⟨7, 0, .rw, 0⟩, ⟨8, 8, .rw, 0⟩, ⟨9, 9, .rw, 0⟩, ⟨21, 10, .rw, 0⟩, ⟨47, 32, .rw, 0⟩, ⟨63, 48, .rw, 0⟩]⟩,
  ⟨640, 16, 8, 8, [⟨63, 0, .rw, 0⟩]⟩,
  ⟨768, 16, 8, 8, [⟨63, 0, .ro, 0⟩]⟩,
  ⟨896, 4, 8, 8, [⟨63, 0, .ro, 0⟩]⟩,
  ⟨928, 4, 8, 8, [⟨63, 0, .ro, 0⟩]⟩]

/-- MESH registers. -/
def regsMesh : List RegSpec := [
  ⟨128, 1, 0, 4, [⟨0, 0, .cs, 0⟩]⟩]

/-- XLAT0 registers. -/
def regsXlat0 : List RegSpec := [
  ⟨128, 1, 0, 4, [⟨7, 0, .cs, 0⟩]⟩,
  ⟨1024, 256, 4, 4, [⟨2, 0, .cs, 0⟩, ⟨3, 3, .cs, 0⟩, ⟨10, 8, .cs, 0⟩, ⟨11, 11, .cs, 0⟩, ⟨18, 16, .cs, 0⟩, ⟨19, 19, .cs, 0⟩, ⟨26, 24, .cs, 0⟩, ⟨27, 27, .cs, 0⟩]⟩]

/-- XLATX registers. -/
def regsXlat : List RegSpec := [
  ⟨2048, 128, 16, 8, [⟨0, 0, .cs, 0⟩, ⟨2, 1, .cs, 0⟩, ⟨3, 3, .cs, 0⟩, ⟨4, 4, .cs, 0⟩, ⟨5, 5, .cs, 0⟩, ⟨6, 6, .ro, 0⟩, ⟨10, 8, .cs, 0⟩, ⟨39, 16, .cs, 0⟩, ⟨51, 40, .cs, 0⟩, ⟨52, 52, .cs, 0⟩]⟩,
  ⟨2056, 128, 16, 8, [⟨23, 0, .cs, 0⟩, ⟨31, 24, .cs, 0⟩, ⟨47, 32, .cs, 0⟩, ⟨63, 48, .cs, 0⟩]⟩]

/-- LOFT registers. -/
def regsLoft : List RegSpec := [
  ⟨128, 1, 0, 4, [⟨5, 0, .cs, 8⟩]⟩,
  ⟨160, 8, 4, 4, [⟨14, 0, .cs, 0⟩, ⟨30, 16, .cs, 0⟩]⟩]

/-- BARK registers. -/
def regsBark : List RegSpec := [
  ⟨128, 1, 0, 4, [⟨15, 0, .rw, 4096⟩]⟩]

/-- COLL registers. -/
def regsColl : List RegSpec := [
  ⟨128, 1, 0, 8, [⟨63, 0, .rw, 0⟩]⟩,
  ⟨136, 1, 0, 4, [⟨0, 0, .wo, 0⟩, ⟨1, 1, .cs, 0⟩, ⟨4, 2, .cs, 0⟩]⟩,
  ⟨140, 1, 0, 4, [⟨4, 0, .rw, 20⟩]⟩,
  ⟨144, 1, 0, 4, [⟨1, 0, .ro, 0⟩, ⟨2, 2, .ro, 0⟩, ⟨6, 4, .ro, 0⟩, ⟨14, 8, .ro, 0⟩]⟩,
  ⟨152, 1, 0, 8, [⟨63, 0, .ro, 0⟩]⟩,
  ⟨2048, 64, 8, 8, [⟨4, 0, .cs, 0⟩, ⟨5, 5, .cs, 0⟩, ⟨6, 6, .cs, 0⟩, ⟨9, 7, .cs, 0⟩, ⟨63, 32, .cs, 0⟩]⟩]

/-- THAT registers. -/
def regsThat : List RegSpec := [
  ⟨256, 16, 8, 8, [⟨0, 0, .cs, 0⟩, ⟨51, 16, .cs, 0⟩]⟩]

/-- XPRT registers. -/
def regsXprt : List RegSpec := [
  ⟨128, 1, 0, 4, [⟨0, 0, .wo, 0⟩, ⟨1, 1, .rw, 0⟩, ⟨2, 2, .wo, 0⟩]⟩,
  ⟨132, 1, 0, 4, [⟨3, 0, .ro, 0⟩, ⟨6, 4, .ro, 0⟩, ⟨7, 7, .ro, 0⟩, ⟨11, 8, .ro, 0⟩]⟩,
  ⟨136, 1, 0, 4, [⟨15, 0, .ro, 65535⟩, ⟨20, 16, .ro, 0⟩, ⟨21, 21, .ro, 0⟩]⟩,
  ⟨140, 1, 0, 4, [⟨15, 0, .ro, 65535⟩, ⟨20, 16, .ro, 0⟩, ⟨27, 24, .ro, 0⟩, ⟨31, 28, .ro, 0⟩]⟩,
  ⟨144, 1, 0, 4, [⟨15, 0, .ro, 0⟩]⟩,
  ⟨160, 1, 0, 4, [⟨1, 0, .rw, 0⟩, ⟨7, 4, .ro, 0⟩]⟩,
  ⟨164, 4, 4, 4, [⟨31, 0, .ro, 0⟩]⟩,
  ⟨192, 9, 8, 8, [⟨63, 0, .ro, 0⟩]⟩]

/-- FTIM registers. -/
def regsFtim : List RegSpec := [
  ⟨128, 1, 0, 8, [⟨63, 0, .ro, 0⟩]⟩,
  ⟨136, 1, 0, 4, [⟨2, 0, .ro, 0⟩, ⟨7, 3, .ro, 0⟩, ⟨8, 8, .ro, 0⟩, ⟨12, 9, .ro, 0⟩, ⟨31, 16, .ro, 0⟩]⟩,
  ⟨140, 1, 0, 4, [⟨15, 0, .ro, 65535⟩, ⟨31, 16, .ro, 0⟩]⟩,
  ⟨144, 1, 0, 8, [⟨63, 0, .ro, 0⟩]⟩,
  ⟨152, 1, 0, 8, [⟨63, 0, .ro, 0⟩]⟩,
  ⟨160, 1, 0, 4, [⟨31, 0, .ro, 0⟩]⟩]

/-- HOST registers. -/
def regsHost : List RegSpec := [
  ⟨128, 1, 0, 4, [⟨0, 0, .rw, 0⟩]⟩,
  ⟨132, 1, 0, 4, [⟨2, 0, .ro, 0⟩, ⟨7, 3, .ro, 0⟩, ⟨8, 8, .ro, 0⟩, ⟨11, 9, .ro, 0⟩, ⟨16, 12, .ro, 0⟩, ⟨17, 17, .ro, 0⟩]⟩,
  ⟨136, 1, 0, 8, [⟨9, 0, .cs, 0⟩]⟩,
  ⟨256, 16, 4, 4, [⟨31, 0, .cs, 0⟩]⟩]

/-- BOXO registers. -/
def regsBoxoCmd : List RegSpec := [
  ⟨128, 1, 0, 4, [⟨7, 0, .wo, 0⟩]⟩,
  ⟨132, 1, 0, 4, [⟨0, 0, .ro, 0⟩, ⟨1, 1, .w1c, 0⟩, ⟨2, 2, .w1c, 0⟩, ⟨15, 8, .ro, 0⟩, ⟨23, 16, .ro, 0⟩]⟩,
  ⟨136, 4, 8, 8, [⟨63, 0, .rw, 0⟩]⟩,
  ⟨168, 1, 0, 8, [⟨63, 0, .ro, 0⟩]⟩]

/-- BOXO0 registers. -/
def regsBoxo0 : List RegSpec := [
  ⟨256, 1, 0, 4, [⟨7, 0, .cs, 0⟩, ⟨8, 8, .cs, 1⟩]⟩,
  ⟨260, 1, 0, 4, [⟨15, 0, .cs, 2000⟩]⟩,
  ⟨264, 8, 8, 8, [⟨63, 0, .cs, 0⟩]⟩,
  ⟨512, 8, 64, 8, [⟨63, 0, .cs, 0⟩]⟩,
  ⟨520, 8, 64, 8, [⟨63, 0, .cs, 0⟩]⟩,
  ⟨528, 8, 64, 8, [⟨15, 0, .cs, 0⟩]⟩,
  ⟨536, 8, 64, 8, [⟨31, 0, .cs, 0⟩, ⟨63, 32, .cs, 0⟩]⟩,
  ⟨544, 8, 64, 8, [⟨31, 0, .cs, 0⟩, ⟨63, 32, .cs, 0⟩]⟩,
  ⟨552, 8, 64, 8, [⟨31, 0, .cs, 0⟩, ⟨63, 32, .cs, 0⟩]⟩,
  ⟨560, 8, 64, 4, [⟨0, 0, .cs, 0⟩, ⟨1, 1, .cs, 0⟩]⟩]

/-- RMST0 registers. -/
def regsRmst0 : List RegSpec := [
  ⟨128, 1, 0, 4, [⟨0, 0, .ro, 0⟩, ⟨3, 1, .ro, 0⟩, ⟨15, 8, .ro, 0⟩]⟩,
  ⟨132, 1, 0, 4, [⟨31, 0, .ro, 0⟩]⟩,
  ⟨136, 1, 0, 8, [⟨63, 0, .ro, 0⟩]⟩,
  ⟨144, 1, 0, 8, [⟨63, 0, .ro, 0⟩]⟩]

/-- RMST1 registers. -/
def regsRmst1 : List RegSpec := [
  ⟨128, 1, 0, 4, [⟨15, 0, .rw, 0⟩, ⟨31, 16, .rw, 0⟩]⟩,
  ⟨132, 1, 0, 4, [⟨0, 0, .wo, 0⟩]⟩,
  ⟨136, 1, 0, 4, [⟨7, 0, .ro, 0⟩, ⟨15, 8, .ro, 0⟩, ⟨16, 16, .ro, 0⟩, ⟨17, 17, .w1c, 0⟩, ⟨18, 18, .w1c, 0⟩, ⟨19, 19, .ro, 0⟩]⟩,
  ⟨140, 1, 0, 4, [⟨31, 0, .ro, 0⟩]⟩,
  ⟨144, 1, 0, 4, [⟨7, 0, .ro, 0⟩, ⟨23, 8, .ro, 0⟩]⟩,
  ⟨148, 1, 0, 4, [⟨15, 0, .ro, 0⟩]⟩,
  ⟨1024, 256, 4, 4, [⟨31, 0, .rw, 0⟩]⟩,
  ⟨2048, 512, 4, 4, [⟨31, 0, .ro, 0⟩]⟩]

/-- SECU registers. -/
def regsSecu : List RegSpec := [
  ⟨128, 1, 0, 4, [⟨0, 0, .ro, 0⟩, ⟨1, 1, .ro, 0⟩, ⟨2, 2, .ro, 0⟩, ⟨15, 8, .ro, 0⟩, ⟨22, 16, .ro, 0⟩, ⟨26, 24, .ro, 0⟩]⟩,
  ⟨136, 1, 0, 8, [⟨63, 0, .ro, 0⟩]⟩,
  ⟨144, 1, 0, 4, [⟨0, 0, .wo, 0⟩, ⟨1, 1, .wo, 0⟩, ⟨7, 4, .ro, 0⟩]⟩,
  ⟨1024, 256, 4, 4, [⟨31, 0, .rw, 0⟩]⟩]

/-- PWRC registers. -/
def regsPwrc : List RegSpec := [
  ⟨128, 1, 0, 4, [⟨15, 0, .ro, 0⟩]⟩,
  ⟨132, 1, 0, 4, [⟨11, 0, .ro, 2100⟩, ⟨23, 12, .ro, 2100⟩]⟩,
  ⟨136, 1, 0, 4, [⟨0, 0, .ro, 0⟩, ⟨1, 1, .ro, 0⟩, ⟨2, 2, .ro, 0⟩, ⟨3, 3, .ro, 0⟩, ⟨4, 4, .ro, 0⟩, ⟨5, 5, .ro, 0⟩, ⟨6, 6, .ro, 0⟩]⟩,
  ⟨140, 1, 0, 4, [⟨11, 0, .cs, 2100⟩]⟩,
  ⟨144, 1, 0, 8, [⟨63, 0, .ro, 0⟩]⟩,
  ⟨152, 1, 0, 4, [⟨15, 0, .wo, 0⟩, ⟨16, 16, .wo, 0⟩]⟩,
  ⟨156, 1, 0, 4, [⟨1, 0, .rw, 0⟩]⟩,
  ⟨160, 1, 0, 4, [⟨2, 0, .ro, 0⟩, ⟨7, 4, .ro, 0⟩, ⟨11, 8, .ro, 0⟩]⟩,
  ⟨168, 1, 0, 8, [⟨63, 0, .rw, 0⟩]⟩,
  ⟨176, 1, 0, 4, [⟨3, 0, .ro, 0⟩, ⟨4, 4, .ro, 0⟩, ⟨5, 5, .ro, 0⟩, ⟨6, 6, .ro, 0⟩]⟩]

/-- DBUG0 registers. -/
def regsDbug0 : List RegSpec := [
  ⟨128, 1, 0, 4, [⟨0, 0, .wo, 0⟩, ⟨1, 1, .wo, 0⟩, ⟨2, 2, .rw, 0⟩]⟩,
  ⟨136, 1, 0, 8, [⟨63, 0, .rw, 0⟩]⟩,
  ⟨144, 1, 0, 4, [⟨0, 0, .ro, 0⟩, ⟨3, 1, .ro, 0⟩, ⟨4, 4, .ro, 0⟩, ⟨5, 5, .ro, 0⟩, ⟨7, 6, .ro, 0⟩]⟩,
  ⟨152, 1, 0, 8, [⟨63, 0, .ro, 0⟩]⟩,
  ⟨160, 1, 0, 8, [⟨63, 0, .rw, 0⟩]⟩,
  ⟨168, 1, 0, 8, [⟨63, 0, .rw, 0⟩]⟩,
  ⟨176, 1, 0, 4, [⟨0, 0, .wo, 0⟩, ⟨1, 1, .rw, 0⟩, ⟨2, 2, .rw, 0⟩, ⟨3, 3, .rw, 0⟩]⟩,
  ⟨184, 1, 0, 8, [⟨63, 0, .ro, 0⟩]⟩,
  ⟨192, 1, 0, 4, [⟨0, 0, .wo, 0⟩]⟩,
  ⟨200, 1, 0, 8, [⟨63, 0, .rw, 0⟩]⟩,
  ⟨208, 1, 0, 8, [⟨63, 0, .ro, 0⟩]⟩,
  ⟨224, 1, 0, 8, [⟨7, 0, .ro, 0⟩, ⟨15, 8, .ro, 0⟩, ⟨31, 16, .ro, 0⟩, ⟨47, 32, .ro, 0⟩, ⟨63, 63, .ro, 0⟩]⟩,
  ⟨232, 1, 0, 8, [⟨63, 0, .ro, 0⟩]⟩,
  ⟨240, 1, 0, 8, [⟨63, 0, .ro, 0⟩]⟩,
  ⟨248, 1, 0, 4, [⟨23, 0, .rw, 10000⟩]⟩,
  ⟨256, 1, 0, 8, [⟨15, 0, .rw, 0⟩, ⟨31, 16, .rw, 0⟩, ⟨33, 32, .rw, 0⟩]⟩,
  ⟨264, 1, 0, 8, [⟨63, 0, .ro, 0⟩]⟩,
  ⟨520, 21, 8, 8, [⟨63, 0, .ro, 0⟩]⟩,
  ⟨1024, 256, 4, 4, [⟨31, 0, .ro, 0⟩]⟩]

/-- DBUGN registers. -/
def regsDbug : List RegSpec := [
  ⟨128, 15, 8, 8, [⟨63, 0, .ro, 0⟩]⟩,
  ⟨384, 15, 8, 8, [⟨63, 0, .ro, 0⟩]⟩,
  ⟨768, 1, 0, 8, [⟨63, 0, .rw, 0⟩]⟩,
  ⟨776, 1, 0, 8, [⟨63, 0, .ro, 0⟩]⟩,
  ⟨784, 1, 0, 4, [⟨31, 0, .ro, 0⟩]⟩]

/-- MIRR registers. -/
def regsMirr : List RegSpec := [
  ⟨128, 1, 0, 4, [⟨3, 0, .ro, 0⟩, ⟨31, 16, .ro, 65535⟩]⟩,
  ⟨132, 1, 0, 4, [⟨7, 0, .ro, 0⟩, ⟨15, 8, .ro, 0⟩, ⟨23, 16, .ro, 0⟩, ⟨27, 24, .ro, 0⟩]⟩,
  ⟨136, 1, 0, 4, [⟨15, 0, .ro, 0⟩, ⟨31, 16, .ro, 0⟩]⟩,
  ⟨140, 1, 0, 4, [⟨7, 0, .ro, 0⟩, ⟨15, 8, .ro, 0⟩, ⟨16, 16, .ro, 0⟩]⟩,
  ⟨144, 1, 0, 8, [⟨63, 0, .ro, 0⟩]⟩,
  ⟨152, 1, 0, 4, [⟨0, 0, .ro, 0⟩, ⟨8, 1, .ro, 0⟩]⟩,
  ⟨256, 480, 8, 8, [⟨13, 0, .ro, 0⟩, ⟨19, 16, .ro, 1⟩, ⟨20, 20, .ro, 0⟩, ⟨21, 21, .ro, 0⟩, ⟨22, 22, .ro, 0⟩, ⟨23, 23, .ro, 0⟩, ⟨26, 24, .ro, 0⟩, ⟨63, 32, .ro, 0⟩]⟩]

end Sys2Proof.Machine
end

