-- ==== Sys2Proof/Machine/Bits.lean ====
section
/-! DEFINITION. Bit fields, byte order and small list helpers. Words are stored little-endian (R63, R127). -/

namespace Sys2Proof.Machine

/-- Bits `hi` to `lo` of a number, as the manual writes [hi:lo]. -/
def bits (x hi lo : Nat) : Nat := (x >>> lo) % 2 ^ (hi + 1 - lo)

/-- Bit `i` of a number. -/
def bit (x i : Nat) : Bool := x.testBit i

/-- `x` with bits [hi:lo] replaced by `v`. -/
def setBits (x hi lo v : Nat) : Nat :=
  x - (bits x hi lo) * 2 ^ lo + (v % 2 ^ (hi + 1 - lo)) * 2 ^ lo

/-- The low `n` bytes of a number, least significant first. -/
def toLE : Nat → Nat → List Byte
  | 0, _ => []
  | n + 1, v => BitVec.ofNat 8 v :: toLE n (v / 256)

/-- The number that bytes spell, least significant first. -/
def ofLE : List Byte → Nat
  | [] => 0
  | b :: bs => b.toNat + 256 * ofLE bs

/-- Bytes `off` to `off + n - 1` of a list, read as a little-endian number; missing bytes read 0. -/
def leAt (l : List Byte) (off n : Nat) : Nat := ofLE ((l.drop off).take n)

/-- The number from `x` sign-extended from `n` bits to `m` bits. -/
def sext (n m x : Nat) : Nat := ((BitVec.ofNat n x).signExtend m).toNat

/-- The numbers `a` to `a + n - 1`. -/
def upTo : Nat → Nat → List Nat
  | _, 0 => []
  | a, n + 1 => a :: upTo (a + 1) n

/-- The smallest multiple of `m` at or above `x`. -/
def roundUp (x m : Nat) : Nat := ((x + m - 1) / m) * m

/-- The quotient of `x` by `m`, rounded up. -/
def ceilDiv (x m : Nat) : Nat := (x + m - 1) / m

/-- The element at position `i`, or `d`. -/
def nthD {α : Type} (d : α) : List α → Nat → α
  | [], _ => d
  | a :: _, 0 => a
  | _ :: t, i + 1 => nthD d t i

/-- The list with position `i` replaced, when there is one. -/
def setNth {α : Type} : List α → Nat → α → List α
  | [], _, _ => []
  | _ :: t, 0, v => v :: t
  | a :: t, i + 1, v => a :: setNth t i v

/-- Replace the first element that satisfies `p` by its image under `f`. -/
def mapFirst {α : Type} (p : α → Bool) (f : α → α) : List α → List α
  | [] => []
  | a :: t => if p a then f a :: t else a :: mapFirst p f t

/-- Drop the first element that satisfies `p`. -/
def dropFirst {α : Type} (p : α → Bool) : List α → List α
  | [] => []
  | a :: t => if p a then t else a :: dropFirst p t

/-- The least of a list of numbers, `d` for the empty list. -/
def minD (d : Nat) : List Nat → Nat
  | [] => d
  | a :: t => t.foldl min a

/-- Insert a number into a rising list without repeats. -/
def insertNat : List Nat → Nat → List Nat
  | [], k => [k]
  | j :: t, k => if k < j then k :: j :: t else if k = j then j :: t else j :: insertNat t k

/-- Floor of the base-2 logarithm, 0 at 0: the position of the highest set bit. -/
def log2 (n : Nat) : Nat := Nat.log2 n

/-- The bit indices set in a mask of `n` bits, rising. -/
def maskBits (n : Nat) (m : Nat) : List Nat := (upTo 0 n).filter (fun i => m.testBit i)

/-- The mask whose set bits are the listed indices. -/
def maskOf : List Nat → Nat
  | [] => 0
  | i :: t => 2 ^ i ||| maskOf t

end Sys2Proof.Machine
end

