-- ==== Sys2Proof/Machine/SMap.lean ====
section
/-! DEFINITION. Sparse maps as plain data: a list of (key, value) pairs, keys strictly rising and no value
equal to what an unlisted key reads as. Memory, registers and every numbered table of the block are such
maps, so that equal contents are equal data. -/

namespace Sys2Proof.Machine

/-- A sparse map from numbers to values; an unlisted key reads as a default that each reader names. -/
abbrev SMap (α : Type) := List (Nat × α)

/-- The value at key `k`; `d` where the key is not listed. -/
def SMap.get {α : Type} (d : α) : SMap α → Nat → α
  | [], _ => d
  | (j, a) :: t, k => if j = k then a else SMap.get d t k

/-- Drop the entries of key `k`. -/
def SMap.erase {α : Type} : SMap α → Nat → SMap α
  | [], _ => []
  | (j, a) :: t, k => if j = k then SMap.erase t k else (j, a) :: SMap.erase t k

/-- Put an entry before the first greater key. -/
def SMap.insert {α : Type} : SMap α → Nat → α → SMap α
  | [], k, v => [(k, v)]
  | (j, a) :: t, k, v => if k < j then (k, v) :: (j, a) :: t else (j, a) :: SMap.insert t k v

/-- Write `v` at key `k`, keeping the canonical form: writing the default removes the entry. -/
def SMap.put {α : Type} [DecidableEq α] (d : α) (m : SMap α) (k : Nat) (v : α) : SMap α :=
  if v = d then SMap.erase m k else SMap.insert (SMap.erase m k) k v

/-- Every key of the map is above `b`, keys rise strictly, and no entry holds the default. -/
def SMap.above {α : Type} [DecidableEq α] (d : α) : Nat → SMap α → Bool
  | _, [] => true
  | b, (j, a) :: t => decide (b ≤ j) && decide (a ≠ d) && SMap.above d (j + 1) t

/-- The canonical form. -/
def SMap.wf {α : Type} [DecidableEq α] (d : α) (m : SMap α) : Bool := SMap.above d 0 m

/-- Keep only the entries whose key satisfies `p`. -/
def SMap.keep {α : Type} (p : Nat → Bool) : SMap α → SMap α
  | [] => []
  | (j, a) :: t => if p j then (j, a) :: SMap.keep p t else SMap.keep p t

/-- Write a list of consecutive values from key `k` on. -/
def SMap.putList {α : Type} [DecidableEq α] (d : α) : SMap α → Nat → List α → SMap α
  | m, _, [] => m
  | m, k, v :: vs => SMap.putList d (SMap.put d m k v) (k + 1) vs

/-- Read `n` consecutive values from key `k` on. -/
def SMap.getList {α : Type} (d : α) (m : SMap α) : Nat → Nat → List α
  | _, 0 => []
  | k, n + 1 => SMap.get d m k :: SMap.getList d m (k + 1) n

/-- Apply `f` to the value at key `k`. -/
def SMap.upd {α : Type} [DecidableEq α] (d : α) (m : SMap α) (k : Nat) (f : α → α) : SMap α :=
  SMap.put d m k (f (SMap.get d m k))

end Sys2Proof.Machine
end

