-- ==== Sys2Proof/Machine/State.lean ====
section
/-! DEFINITION. The state of the module as plain data: everything the manual gives it, and the queue of
commands that wait. INVENTORY.md lists each piece with its rule and its value at reset. -/

namespace Sys2Proof.Machine

/-- The three SKUs (R5). -/
inductive Sku | s16 | s12 | s08
  deriving DecidableEq, Repr

/-! ## Threads, groups, teams, engines (chapters 02 to 05) -/

/-- A thread's state, in the order of REGSEL class 4 (R57). -/
inductive ThStat | running | barG | barT | waitF | exited
  deriving DecidableEq, Repr

/-- One thread: program counter, predicates (R29), and the mark and age of its set (R36). -/
structure Thread where
  pc    : W64
  stat  : ThStat
  preds : BitVec 8
  mark  : Bool
  age   : Nat
  deriving DecidableEq, Repr

/-- What an outstanding access of a thread is. -/
inductive AccKind
  | load                       -- LD.G
  | uload                      -- ULD.G
  | atom (op : Nat) (sg : Bool) (b c : Nat)   -- ATOM.op: operands b and c (R84)
  | ldio | stio                -- LD.IO, ST.IO
  | alloc                      -- ALLOC (R99)
  deriving DecidableEq, Repr

/-- Where an access goes, decided when it issues (R152, R156). -/
inductive Dest
  | mem (pa : Nat)             -- this chip's memory
  | thatch (pa off : Nat)      -- a thatched page: its index block and the offset in the page (R199)
  | host (ba : Nat)            -- host memory through a HOST page
  | io (off : Nat)             -- a BAR0 offset
  | remote (txid : Nat)        -- another chip, or this chip through its export table
  | none                       -- no address (ALLOC)
  deriving DecidableEq, Repr

/-- An outstanding access (R75, R165): its result, once it is known, the issue of its group that made it, and what its threads and
their registers were before it, so that a late fault is precise (R49, R52). -/
structure Acc where
  id     : Nat
  kind   : AccKind
  th     : Nat
  mask   : Nat
  addr   : W64
  dest   : Dest
  size   : Nat
  sx     : Bool
  policy : Nat
  dst    : Nat
  data   : Option Nat
  poison : Bool
  ins    : Nat
  before : List (Nat × Thread)
  regs   : SMap W32
  deriving DecidableEq, Repr

/-- Where a buffered store goes. -/
inductive StTo | l1 (pa : Nat) | bypass (pa : Nat) | tile
  deriving DecidableEq, Repr

/-- A store in the group's store buffer (R209, R210). -/
structure StEnt where
  id    : Nat
  th    : Nat
  dest  : StTo
  addr  : W64
  size  : Nat
  data  : Nat
  policy : Nat
  after : List Nat
  deriving DecidableEq, Repr

/-- A thread waiting in WAITF (R89): slot, destination and, with a timeout, the core cycle that ends it. -/
structure WaitRec where
  th   : Nat
  slot : Nat
  dst  : Nat
  till : Option Nat
  deriving DecidableEq, Repr

/-- A barrier watchdog count and the limit in force when it started (R48). -/
structure Watch where
  count : Nat
  limit : Nat
  deriving DecidableEq, Repr

/-- Matrix commands (R95). -/
inductive MxKind | loadw | swap | run | drain
  deriving DecidableEq, Repr

/-- A queued matrix command: operands as read at issue, and the issuing set for a fault (R50, R52). -/
structure MxCmd where
  kind  : MxKind
  gslot : Nat
  pc    : W64
  mask  : Nat
  a     : W64
  b     : W64
  c     : W64
  order : Nat
  deriving DecidableEq, Repr

/-- What a preempted group that held the claim, or held it last, gets back when it receives the claim again (R105, R122): its queue, and
the block (address, shape word) that filled the active and the shadow set; `held` tells whether it held the claim then. -/
structure MxBack where
  cmds   : List MxCmd
  active : Option (W64 × W64)
  shadow : Option (W64 × W64)
  held   : Bool
  deriving DecidableEq, Repr

/-- One group slot (R29). `passBp` is the address of the breakpoint that halted it (R61), `issues` how often it has issued. -/
structure Group where
  occ      : Bool
  ctx      : Nat
  tag      : Nat
  tslot    : Nat
  gid      : Nat
  team     : Nat
  nreg     : Nat
  threads  : List Thread
  vreg     : SMap W32
  ureg     : SMap W64
  vpoison  : SMap Bool
  upoison  : SMap Bool
  ppoison  : Bool
  sb       : List StEnt
  accs     : List Acc
  waits    : List WaitRec
  watch    : Option Watch
  mxWait   : Bool
  mxBack   : Option MxBack
  halted   : Bool
  cause    : Nat
  haltReq  : Bool
  stepReq  : Option (Option W64)
  stepping : Bool
  passBp   : Option W64
  stopped  : Bool
  issues   : Nat
  deriving DecidableEq, Repr

def Group.empty : Group :=
  { occ := false, ctx := 0, tag := 0, tslot := 0, gid := 0, team := 0, nreg := 0, threads := [], vreg := []
    ureg := [], vpoison := [], upoison := [], ppoison := false, sb := [], accs := [], waits := [], watch := none
    mxWait := false, mxBack := none, halted := false, cause := 0, haltReq := false, stepReq := none, stepping := false
    passBp := none, stopped := false, issues := 0 }

/-- One team slot (R30): the command that launched it, its groups and its tile-memory granules. -/
structure Team where
  occ     : Bool
  ctx     : Nat
  part    : Nat
  tag     : Nat
  q       : Nat
  idx     : Nat
  team    : Nat
  prio    : Nat
  gslots  : List Nat
  tgran   : List Nat
  watch   : Option Watch
  preempt : Bool
  discard : Bool
  ranSince : Nat
  deriving DecidableEq, Repr

def Team.empty : Team :=
  { occ := false, ctx := 0, part := 0, tag := 0, q := 0, idx := 0, team := 0, prio := 0, gslots := []
    tgran := [], watch := none, preempt := false, discard := false, ranSince := 0 }

/-- One weight set (R101): format, block shape, weights by 128 * row + column, and the block it came from. -/
structure WSet where
  fmt : Nat
  m   : Nat
  n   : Nat
  w   : SMap W16
  src : Option (W64 × W64)
  poison : Bool
  deriving DecidableEq, Repr

/-- The set after a clear and at reset: a full block of +0 in bfloat16 (R105). -/
def WSet.zero : WSet := { fmt := 0, m := 128, n := 128, w := [], src := none, poison := false }

/-- A matrix command in progress: the tile-memory bytes it read when it started (R119 decides, word by word,
between these and the bytes at completion), and the active set that its vectors meet (R110). -/
structure MxRun where
  cmd   : MxCmd
  input : List Byte
  old   : List Byte
  w     : WSet
  deriving DecidableEq, Repr

/-- A queued tile-mover command (R96). -/
structure TmCmd where
  put   : Bool
  gslot : Nat
  pc    : W64
  mask  : Nat
  a     : W64
  b     : W64
  c     : W64
  mod   : Nat
  order : Nat
  moved : Nat
  deriving DecidableEq, Repr

/-- A tile-mover command in progress: the stream tile it takes, the packed bytes its source held at the start, the damaged
ranges of them (position, length), the places a TM.PUT writes (address, position, length, to host memory or not), and the parts that are
still to come from another chip (request, position, length) or from the host (position, length). -/
structure TmRun where
  cmd  : TmCmd
  tile : Option Nat
  src  : List Byte
  bad  : List (Nat × Nat)
  puts : List (Nat × Nat × Nat × Bool)
  wait : List (Nat × Nat × Nat)
  host : List (Nat × Nat)
  deriving DecidableEq, Repr

/-- L1 line states (R166). -/
inductive L1St | i | s | e | m
  deriving DecidableEq, Repr

/-- One L1 line: its line address, state, per-sector valid, dirty and poison bits, mark and 128 bytes (R160). -/
structure L1Line where
  line   : Nat
  st     : L1St
  valid  : Nat
  dirty  : Nat
  poison : Nat
  mark   : Bool
  data   : List Byte
  deriving DecidableEq, Repr

def L1Line.empty : L1Line := { line := 0, st := .i, valid := 0, dirty := 0, poison := 0, mark := false, data := [] }

/-- A thread's fault: thread, kind and, where it has one, the faulting address. -/
abbrev LaneFault := Nat × Nat × Option W64

/-- A fault waiting to be recorded (R52): the threads that faulted, and the issue of the group they faulted in. -/
structure FaultRec where
  kind   : Nat
  gslot  : Nat
  tslot  : Nat
  engine : Bool
  ctx    : Nat
  mask   : Nat
  pc     : W64
  addr   : W64
  tag    : Nat
  code   : Nat
  lanes  : List LaneFault
  ins    : Option Nat
  deriving DecidableEq, Repr

/-- One core (R14, R28). `lastIss` gives, for each of the four issue slots, one more than the place among its sixteen group slots of
the one it last issued for (R34); 0 before its first issue. `mxRuns` are the matrix commands in progress, oldest first; `parked`: it
released its load grant because the tile at the head was not ready (R193). -/
structure Core where
  groups  : SMap Group
  teams   : SMap Team
  tmem    : SMap Byte
  tpoison : SMap Bool
  claim   : Option Nat
  last    : Option Nat
  mxq     : List MxCmd
  mxRuns  : List MxRun
  active  : WSet
  shadow  : WSet
  reload  : Option (Option (W64 × W64) × Option (W64 × W64))
  tmq     : List TmCmd
  tmRun   : Option TmRun
  grant   : Bool
  parked  : Bool
  l1      : SMap L1Line
  icache  : SMap Nat
  tlb     : List (Nat × Nat)
  order   : Nat
  faults  : List FaultRec
  hold    : SMap Bool
  lastIss : SMap Nat
  deriving DecidableEq, Repr

def Core.empty : Core :=
  { groups := [], teams := [], tmem := [], tpoison := [], claim := none, last := none, mxq := [], mxRuns := []
    active := WSet.zero, shadow := WSet.zero, reload := none, tmq := [], tmRun := none, grant := false, parked := false, l1 := []
    icache := [], tlb := [], order := 0, faults := [], hold := [], lastIss := [] }

/-! ## Memory, caches, coherence (chapter 06) -/

/-- One L2 line (R158). -/
structure L2Line where
  used   : Bool
  line   : Nat
  valid  : Nat
  dirty  : Nat
  poison : Nat
  data   : List Byte
  deriving DecidableEq, Repr

def L2Line.empty : L2Line := { used := false, line := 0, valid := 0, dirty := 0, poison := 0, data := [] }

/-- A request to a home slice (R167). -/
inductive Req
  | getS (c : Nat) | getX (c : Nat)
  | bypR (c g id : Nat) | bypW (c g : Nat) (e : StEnt) | atom (c g id : Nat)
  | ratom (src op : Nat) (wide sg : Bool) (addr b c txid : Nat)
  | evict (line next : Nat)
  deriving DecidableEq, Repr

/-- Directory states (R166): N is the absence of an entry. -/
inductive DirSt | s (sharers : Nat) | x (owner : Nat)
  deriving DecidableEq, Repr

/-- State B: the request being served, the cores whose answers are outstanding, and whether they were sent a forward (R168). -/
structure Busy where
  req   : Req
  await : List Nat
  fwd   : Bool
  deriving DecidableEq, Repr

/-- A directory entry. -/
structure DirEnt where
  used : Bool
  line : Nat
  st   : DirSt
  busy : Option Busy
  deriving DecidableEq, Repr

def DirEnt.empty : DirEnt := { used := false, line := 0, st := .s 0, busy := none }

/-- Messages from a slice to a core (R167, R168). -/
inductive MsgKind | toS | toI | inval | fwdS (req : Nat) | fwdX (req : Nat)
  deriving DecidableEq, Repr

/-- A message, and the core cycle it was sent at (R171). -/
structure Msg where
  core : Nat
  line : Nat
  kind : MsgKind
  sent : Nat
  deriving DecidableEq, Repr

/-- What a core sends to a slice, a write-back or an answer: the sectors it held valid and dirty, or "no copy" (R169). `seq` is its place
among all such messages, which arrive from one core at one slice in the order sent (R166). -/
structure Ans where
  core   : Nat
  line   : Nat
  copy   : Bool
  valid  : Nat
  dirty  : Nat
  poison : Nat
  data   : List Byte
  seq    : Nat
  deriving DecidableEq, Repr

/-- Device memory and the coherent domain. `msgs`, `answers` and `putms` are in flight between slices and cores. -/
structure Mem where
  hbm     : SMap Byte
  poison  : SMap Bool
  l2      : SMap L2Line
  dir     : SMap DirEnt
  waiting : SMap (List (Nat × Req))
  msgs    : List Msg
  answers : List Ans
  putms   : List Ans
  lfsr    : SMap W16
  plru    : SMap Nat
  probe   : Option (Nat × Nat × Bool × List Byte)
  pool    : SMap Nat
  poolLast : SMap Nat
  overflow : SMap Nat
  stlb    : List (Nat × Nat)
  scrubs  : List (Nat × Nat × Nat)
  owners  : SMap Nat
  d2dFail : SMap Nat
  d2dUp   : SMap Bool
  patrol  : List Nat
  msgSeq  : Nat
  deriving DecidableEq, Repr

def Mem.empty : Mem :=
  { hbm := [], poison := [], l2 := [], dir := [], waiting := [], msgs := [], answers := [], putms := [], lfsr := [], plru := []
    probe := none, pool := [], poolLast := [], overflow := [], stlb := [], scrubs := []
    owners := [], d2dFail := [], d2dUp := [], patrol := [], msgSeq := 0 }

/-! ## Contexts, queues, fences (chapter 12), streams (chapter 07) -/

/-- One mapping that MAP made (R339, R342). -/
structure Mapping where
  va    : Nat
  size  : Nat
  psz   : Nat
  deriving DecidableEq, Repr

/-- A memory object (R339): handle index and generation, backing extents, its mappings, and for a heap object its
region number, live blocks (address, class) and used blocks. -/
structure Obj where
  index  : Nat
  gen    : Nat
  kind   : Nat
  size   : Nat
  target : Nat
  perm   : Nat
  backing : List (Nat × Nat)
  maps   : List Mapping
  region : Nat
  blocks : List (Nat × Nat)
  grans  : List (Nat × Nat)
  dead   : Bool
  deriving DecidableEq, Repr

/-- A full context (R323), with its fault state (R325) and its translation table's root (R153). -/
structure Ctx where
  st      : Nat
  part    : Nat
  debug   : Bool
  lastLoss : Nat
  saveLen : Nat
  savePa  : Nat
  root    : Option Nat
  tables  : List Nat
  objs    : List Obj
  gens    : SMap Nat
  fltAddr : W64
  fltData : W64
  fltInfo : W64
  oldGrans : List (Nat × Nat)
  due     : Bool
  deriving DecidableEq, Repr

def Ctx.free : Ctx :=
  { st := 0, part := 0, debug := false, lastLoss := 0, saveLen := 0, savePa := 0, root := none, tables := [], objs := []
    gens := [], fltAddr := 0, fltData := 0, fltInfo := 0, oldGrans := [], due := false }

/-- A fetched command's progress (R330, R331). -/
inductive CmdSt | waiting | running | ended (status result : Nat)
  deriving DecidableEq, Repr

/-- A fetched command: its packet, the handles it pins (R341), whether its start instant has come (R335) and whether a RELEASE of
its own queue made a handle of it dead (R341); whether its wait has ended, and with which error flag (R346); the instant from which the timeout of a WAIT
counts, the instant it started, its unanswered remote requests with the places of their
data, and the data of a copy with its damaged ranges. -/
structure Cmd where
  idx   : Nat
  bytes : List Byte
  st    : CmdSt
  pins  : List Nat
  fired : Bool
  stale : Bool
  gate  : Option Bool
  armed : Option Nat
  since : Nat
  wait  : List (Nat × Nat × Nat)
  buf   : List Byte
  bad   : List (Nat × Nat)
  deriving DecidableEq, Repr

/-- A queue (R327, R328). -/
structure Queue where
  bound  : Bool
  ctx    : Nat
  ring   : W64
  cring  : W64
  size   : Nat
  prio   : Nat
  vec    : Nat
  ien    : Bool
  c      : Nat
  h      : Nat
  t      : Nat
  stopped : Option Nat
  cmds   : List Cmd
  lastMsg : Option Nat
  halted  : Bool
  deriving DecidableEq, Repr

def Queue.empty : Queue :=
  { bound := false, ctx := 0, ring := 0, cring := 0, size := 0, prio := 0, vec := 0, ien := false, c := 0, h := 0
    t := 0, stopped := none, cmds := [], lastMsg := none, halted := false }

/-- A started LAUNCH (R337): what each team gets, the next team to place and the teams that have not ended. -/
structure Launch where
  q       : Nat
  idx     : Nat
  ctx     : Nat
  tag     : Nat
  prio    : Nat
  entry   : W64
  teams   : Nat
  threads : Nat
  nreg    : Nat
  tmem    : Nat
  u       : List W64
  next    : Nat
  ended   : Nat
  since   : Nat
  status  : Nat
  deriving DecidableEq, Repr

/-- A team saved at preemption (R54). -/
structure Saved where
  core    : Nat
  team    : Team
  groups  : List Group
  tmem    : SMap Byte
  tpoison : SMap Bool
  tmq     : List TmCmd
  deriving DecidableEq, Repr

/-- A fence slot (R346, R347). -/
structure Fence where
  owner : Option Nat
  sig   : Bool
  err   : Bool
  deriving DecidableEq, Repr

def Fence.free : Fence := { owner := none, sig := false, err := false }

/-- The Box Office. -/
structure Box where
  ctxs    : SMap Ctx
  queues  : SMap Queue
  launches : List Launch
  saved   : List Saved
  fences  : SMap Fence
  shares  : SMap (Option (Nat × Nat))
  alloc   : List (Nat × Nat)
  mg      : SMap (Nat × Nat)
  grantReq : List Nat
  lastPart : Nat
  served  : SMap (Nat × Nat)
  deriving DecidableEq, Repr

def Box.empty : Box :=
  { ctxs := [], queues := [], launches := [], saved := [], fences := [], shares := [], alloc := [], mg := []
    grantReq := [], lastPart := 7, served := [] }

/-- A tile of a live stream (R187): the dies that have read their parts, the bytes read so far, and the fault that a read met (kind,
address), which stops the stream (R189). -/
structure Tile where
  t      : Nat
  dies   : List Nat
  ready  : Bool
  fault  : Option (Nat × Nat)
  bytes  : SMap Byte
  poison : SMap Bool
  deriving DecidableEq, Repr

/-- A Barker stream slot (R182, R183). By die, `next` is the tile it reads next and `asked` how many reads of that tile have received a tag
(R191). -/
structure Stream where
  live     : Bool
  ctx      : Nat
  part     : Nat
  tag      : Nat
  q        : Nat
  idx      : Nat
  src      : Nat
  stride1  : Nat
  stride2  : Nat
  n1       : Nat
  n2       : Nat
  rowBytes : Nat
  rows     : Nat
  rowStride : Nat
  lead     : Nat
  th       : Bool
  drain    : Bool
  first    : Nat
  ncores   : Nat
  cstride  : Nat
  deal     : Nat
  bfence   : Nat
  base     : Nat
  len      : Nat
  tiles    : List Tile
  consumed : List Nat
  taken    : SMap Nat
  takers   : SMap Nat
  reported : List Nat
  next     : SMap Nat
  asked    : SMap Nat
  deriving DecidableEq, Repr

def Stream.empty : Stream :=
  { live := false, ctx := 0, part := 0, tag := 0, q := 0, idx := 0, src := 0, stride1 := 0, stride2 := 0, n1 := 0
    n2 := 0, rowBytes := 0, rows := 0, rowStride := 0, lead := 0, th := false, drain := false, first := 0, ncores := 0
    cstride := 0, deal := 0, bfence := 0, base := 0, len := 0, tiles := [], consumed := [], taken := [], takers := []
    reported := [], next := [], asked := [] }

/-! ## The fabric (chapter 09) and collectives (chapter 10) -/

/-- Who issued a remote request. -/
inductive Owner
  | thread (core gslot acc : Nat)
  | store (core gslot th : Nat)
  | tm (core : Nat)
  | cmd (q idx : Nat)
  | boundary (slot : Nat)
  | ended (slot : Nat)         -- the error signal of a stream that stopped (R195)
  deriving DecidableEq, Repr

/-- Where a remote request stands: waiting at the counter of its die, sent, refused by a RETRY that it will follow with a resend, or
without a route when its turn came (R253 to R256). -/
inductive ReqSt | waits | sent | refused | noRoute
  deriving DecidableEq, Repr

/-- A remote request that is unanswered (R254, R256, R258). -/
structure RReq where
  id    : Nat
  pkt   : Pkt
  ctx   : Nat
  owner : Owner
  sent  : Nat
  st    : ReqSt
  deriving DecidableEq, Repr

/-- A fabric port (R234 to R239, R261, R266). -/
structure Port where
  lstate : Nat
  rig    : Nat
  loc    : Bool
  minor  : Nat
  pchip  : Nat
  pport  : Nat
  pv     : Bool
  achip  : Nat
  aport  : Nat
  amaj   : Nat
  amin   : Nat
  amem   : Nat
  loopNs : Nat
  txSeq  : Nat
  rxExp  : Nat
  naking : Bool
  naks   : Nat
  retry  : List (Nat × List Byte)
  sent   : List (List Byte)
  queue  : List (Nat × List Byte)
  lastVc : Nat
  held   : List (List Byte)
  credits : SMap Nat
  disable : Bool
  prbs   : Nat
  newEnt : Option (Bool × Nat × Nat × Bool)
  parentOk : Bool
  perrest : Nat
  phops  : Nat
  delay  : Nat
  offset : Int
  deriving DecidableEq, Repr

def Port.empty : Port :=
  { lstate := 0, rig := 0, loc := false, minor := 0, pchip := 0xFFFF, pport := 0, pv := false, achip := 0xFFFF
    aport := 0, amaj := 0, amin := 0, amem := 0, loopNs := 0, txSeq := 0, rxExp := 0, naking := false, naks := 0
    retry := [], sent := [], queue := [], lastVc := 0, held := [], credits := [], disable := false, prbs := 0, newEnt := none
    parentOk := false, perrest := 0, phops := 0, delay := 0, offset := 0 }

/-- No plan loaded: the chip has no number (R244). -/
def Plan.none : Plan :=
  { chip := 0xFFFF, members := 16, ends := [], ports := [], globals := [], masters := [], digest := 0, tp := 0 }

/-- The fabric router and link layer. `down` are links between other chips that the plan exchange reports out of service, `late` the
answers that came after their request was abandoned (R251, R258). -/
structure Fab where
  ports   : SMap Port
  plan    : Plan
  pending : Option (Nat × Plan)
  stored  : Plan
  pseq    : SMap Nat
  expect  : SMap Nat
  reorder : List Pkt
  hist    : SMap (Option Pkt)
  reqs    : List RReq
  nextId  : Nat
  down    : List (Nat × Nat)
  late    : Nat
  deriving DecidableEq, Repr

def Fab.empty : Fab :=
  { ports := [], plan := Plan.none, pending := none, stored := Plan.none, pseq := [], expect := [], reorder := []
    hist := [], reqs := [], nextId := 0, down := [], late := 0 }

/-- A live collective (R279 to R292): `last` is when a piece last came to the engine of a die (R291), `slots` the frame in which a slot
last opened for it, plus 1 (R288). -/
structure Live where
  cid     : Nat
  q       : Nat
  idx     : Nat
  ctx     : Nat
  op      : Nat
  fmt     : Nat
  count   : Nat
  src     : Nat
  dst     : Nat
  root    : Nat
  scale   : W32
  timed   : Bool
  start   : Nat
  bank    : Nat
  group   : Option Nat
  attempt : Nat
  upGot   : SMap (List Nat)
  upSum   : SMap (List W32)
  upPoison : SMap Nat
  upSent  : SMap Bool
  downData : SMap (List W32)
  downGot : SMap Bool
  downSent : SMap Nat
  unacked : List (Nat × Nat × Nat)
  written : SMap Bool
  poisoned : Bool
  tag     : Nat
  since   : Nat
  last    : SMap Nat
  slots   : SMap Nat
  deriving DecidableEq, Repr

/-- The collective engines, chip-wide through COLL_0 (R284): `held` are pieces kept for a command that has not been issued, `stalled` pieces
for which there is no buffer, with their VC2 credits withheld (R280), `ended` the collectives that ended here (R290). -/
structure Coll where
  banks   : SMap (List Byte)
  loading : Option (Nat × Nat)
  free_   : Nat
  loaded  : Bool
  base    : Nat
  force   : Option (Nat × Nat)
  part    : Nat
  pstate  : Nat
  why     : Nat
  live    : List Live
  held    : List (Nat × Pkt)
  stalled : List (Nat × Pkt)
  ended   : List Nat
  deriving DecidableEq, Repr

def Coll.empty : Coll :=
  { banks := [], loading := none, free_ := 0, loaded := false, base := 0, force := none, part := 0, pstate := 0, why := 0, live := []
    held := [], stalled := [], ended := [] }

/-! ## Time, power, mailbox, debug (chapters 10, 13 to 15) -/

/-- Fabric time and the model's clock bookkeeping. `rate` is the slew of the last millisecond (R268), `lastMeas` when a measurement that
descends from the grandmaster last came (R269). -/
structure Time where
  ft      : Nat
  st      : Nat
  parent  : Nat
  gm      : Bool
  hops    : Nat
  epoch   : Nat
  errest  : Nat
  offset  : Int
  slew    : Int
  rate    : Int
  lastMeas : Nat
  phase   : Nat
  meas    : List Int
  good    : Nat
  bad     : Nat
  ptmFt   : Nat
  ptmHt   : Nat
  ptmSeq  : Nat
  cand    : Nat
  ccAcc   : Nat
  cc      : Nat
  nsRun   : Nat
  ccRun   : Nat
  xtal    : Nat
  woken   : Bool
  deriving DecidableEq, Repr

def Time.zero : Time :=
  { ft := 0, st := 0, parent := 0, gm := false, hops := 0, epoch := 0, errest := 0xFFFF, offset := 0, slew := 0, rate := 0, lastMeas := 0
    phase := 0, meas := []
    good := 0, bad := 0, ptmFt := 0, ptmHt := 0, ptmSeq := 0, cand := 0, ccAcc := 0, cc := 0, nsRun := 0, ccRun := 0
    xtal := 0, woken := false }

/-- The four power states (R374). -/
inductive Power | off | dormant | idle | active
  deriving DecidableEq, Repr

/-- Stages of the start-up sequence (R378): the step whose completion is awaited. -/
inductive Stage | none | rails | boot | hold | secondary | training | service
  deriving DecidableEq, Repr

/-- Power, clock, thermal and reset (R357 to R363, R374 to R385), and the pins of connectors H, P and D. `aer` counts the non-fatal errors
that each host port has reported through AER (R175, R296). -/
structure Pow where
  power   : Power
  svc     : Nat
  stage   : Stage
  pwrEn   : Bool
  in52    : Bool
  pShort  : Bool
  overV   : Bool
  perst   : Bool
  inletHot : Bool
  trip    : Bool
  wakeN   : Bool
  alertN  : Bool
  alertAck : Nat
  uvlo    : Bool
  tripped : Bool
  coldNext : Bool
  straps  : Nat
  jctCeil : Nat
  curCeil : Bool
  inlCeil : Bool
  uvCeil  : Bool
  limCeil : Nat
  floor   : Bool
  underNs : Nat
  bmcLimit : Nat
  inPower : Nat
  hotJct  : Nat
  inletC  : Nat
  hbmDone : Bool
  fabDone : Bool
  psState : Nat
  psResult : Nat
  psWhy   : Nat
  exitReq : Nat
  cause   : Nat
  links   : SMap (Nat × Nat × Bool)
  aer     : SMap Nat
  cfg     : SMap (Option Nat)
  linkMode : Nat
  modeFlash : Nat
  flr     : List Nat
  failed  : List Nat
  deriving DecidableEq, Repr

def Pow.reset : Pow :=
  { power := .dormant, svc := 0, stage := .none, pwrEn := false, in52 := false, pShort := false, overV := false
    perst := true, inletHot := false, trip := false, wakeN := false, alertN := false, alertAck := 0, uvlo := false
    tripped := false, coldNext := true, straps := 3, jctCeil := 2100, curCeil := false, inlCeil := false, uvCeil := false
    limCeil := 2100, floor := false, underNs := 0, bmcLimit := 2500, inPower := 0, hotJct := 0, inletC := 0
    hbmDone := false, fabDone := false, psState := 0, psResult := 0, psWhy := 0, exitReq := 0, cause := 0
    links := [], aer := [], cfg := [], linkMode := 0, modeFlash := 0, flr := [], failed := [] }

/-- A long mailbox operation in progress (R318), with the image or the plan it works on. -/
structure LongOp where
  opcode : Nat
  chan   : Nat
  seq    : Nat
  args   : List Byte
  prog   : Nat
  image  : Image
  plan   : Option Plan
  deriving DecidableEq, Repr

/-- Key pairs, as far as the text tells them apart (R364, R365): Shoril's root and intermediate, a chip's identity pair, and the pair that
the security block derives from a compound device identifier, which is the HMAC keyed with the unique device secret over a measurement.
Two pairs are the same exactly when they come from the same parts. -/
inductive Key
  | root
  | intermediate
  | identity (seed : Digest)
  | derived (secret measurement : Digest)
  deriving DecidableEq, Repr

/-- A certificate: the pair it names, the pair that signs it and the measurement that it binds. -/
structure Cert where
  subject : Key
  signer  : Key
  binds   : Option Digest
  deriving DecidableEq, Repr

/-- The identity pair's private key as it leaves the security block: wrapped by the fuse key (R364). -/
structure Wrapped where
  key  : Key
  fuse : Digest
  deriving DecidableEq, Repr

/-- Ringmaster, mailbox and security (R315 to R320, R353 to R373). -/
structure Rm where
  up       : Bool
  restarts : Nat
  hb       : Nat
  tdrop    : Nat
  tskip    : Nat
  firstDog : Option Nat
  imgA     : Image
  imgB     : Image
  slot     : Nat
  fallback : Bool
  verified : Bool
  fused    : Nat
  scope    : Nat
  result   : Nat
  nonce    : W64
  genFuse  : Nat
  serial   : W64
  meas     : SMap Digest
  uds      : Digest
  udsLocked : Bool
  fuseKey  : Digest
  wrapped  : Wrapped
  certs    : List Cert
  devKey   : Option Key
  devCert  : Option Cert
  tier     : Nat
  tierSince : Nat
  eraseDue : Bool
  log      : List Byte
  long     : Option LongOp
  cmd0     : Option (Nat × Nat × List Byte)
  cmd1     : Option (Nat × Nat × List Byte)
  lastChan : Nat
  eid      : Nat
  sensors  : SMap Nat
  sampleAt : Nat
  activeNext : Nat
  lastFatal : List Byte
  deriving DecidableEq, Repr

def Image.none : Image := { valid := false, seqNo := 0, svn := 0, rmLen := 0, len := 0, sigOk := false, secOk := false, rmDigest := 0, secDigest := 0 }

/-- Factory flash: image A present and good, sequence 1, SVN 0 (DESIGN CHOICE, assumption 7). -/
def Rm.reset : Rm :=
  { up := false, restarts := 0, hb := 0, tdrop := 0, tskip := 0, firstDog := none
    imgA := { valid := true, seqNo := 1, svn := 0, rmLen := 4194304, len := 8388608, sigOk := true, secOk := true, rmDigest := 1, secDigest := 2 }
    imgB := Image.none, slot := 0, fallback := false, verified := false, fused := 0, scope := 0, result := 0
    nonce := 0, genFuse := 0, serial := 0, meas := [], uds := 1, udsLocked := false, fuseKey := 1
    wrapped := { key := .identity 0, fuse := 1 }
    certs := [{ subject := .root, signer := .root, binds := none }, { subject := .intermediate, signer := .root, binds := none },
              { subject := .identity 0, signer := .intermediate, binds := none }]
    devKey := none, devCert := none, tier := 0, tierSince := 0, eraseDue := false, log := [], long := none, cmd0 := none
    cmd1 := none, lastChan := 1, eid := 0, sensors := [], sampleAt := 0, activeNext := 0, lastFatal := [] }

/-- One Carousel entry (R400). -/
structure Event where
  ft    : Nat
  event : Nat
  part  : Option Nat
  ctx   : Option Nat
  tag   : Nat
  arg   : Nat
  deriving DecidableEq, Repr

/-- Curtain, dump, snapshot, fatal record, Carousel (R386 to R403). -/
structure Dbg where
  raised  : Bool
  cause   : Nat
  quiet   : Bool
  dumping : Bool
  dumpErr : Nat
  curtFt  : Nat
  snapping : Bool
  snapFt  : Nat
  fatal   : Bool
  fcode   : Nat
  fcount  : Nat
  finst   : Nat
  ftype   : Nat
  fft     : Nat
  faddr   : Nat
  nowin   : Nat
  rings   : SMap (List Event)
  window  : List Event
  ce      : SMap Nat
  ceWin   : SMap (List Nat)
  deriving DecidableEq, Repr

def Dbg.reset : Dbg :=
  { raised := false, cause := 0, quiet := false, dumping := false, dumpErr := 0, curtFt := 0, snapping := false
    snapFt := 0, fatal := false, fcode := 0, fcount := 0, finst := 0, ftype := 0, fft := 0, faddr := 0, nowin := 0
    rings := [], window := [], ce := [], ceWin := [] }

/-- What leaves the module: host writes and messages, packets, management responses. -/
inductive Out
  | hostWrite (addr : Nat) (data : List Byte) (poisoned : Bool)
  | hostRead (addr len : Nat)
  | msix (fn vec : Nat)
  | packet (port : Option Nat) (p : Pkt)
  | flit (port : Nat) (bytes : List Byte)
  | announce (port chip major minor members : Nat)
  | notice (dst code arg : Nat)
  | bmc (data : List Byte)
  | smbus (data : List Byte)
  | cfgDone | cfgRetry
  | cfgValue (v : Nat)
  | certChain (l : List Cert)
  | signed (key : Option Key) (data : List Byte)
  | barRead (v : Nat) (poisoned : Bool)
  | jtag (what : Nat)
  deriving DecidableEq, Repr

/-- The register file: values by page * 4096 + offset (an unlisted one holds its reset value), shadows of CS fields,
mirror reports, and the state of blocks (R302, R304, R309). -/
structure Regs where
  val     : SMap (Option W64)
  shadow  : SMap (Option W64)
  armLow  : SMap Nat
  mirror  : SMap (Option W64)
  stale   : SMap Bool
  blk     : SMap Nat
  raisedI : SMap Bool
  deriving DecidableEq, Repr

def Regs.reset : Regs :=
  { val := [], shadow := [], armLow := [], mirror := [], stale := [], blk := [], raisedI := [] }

/-- The module. `pending` is the queue of commands, first in, first out; `free` counts the free values used so far
(the model's own field). -/
structure State where
  pending : List Instr
  free    : Nat
  sku     : Sku
  time    : Time
  mem     : Mem
  regs    : Regs
  ctr     : SMap Nat
  cores   : SMap Core
  box     : Box
  streams : SMap Stream
  tags    : SMap Nat
  fab     : Fab
  coll    : Coll
  pow     : Pow
  rm      : Rm
  dbg     : Dbg
  out     : List Out
  deriving DecidableEq, Repr

/-- The module right after a cold reset: 3.3 V_AUX has just been applied (R374, R379), the always-on island runs,
no rail is up, fabric time is 0 in FREE (R267) and every register holds its reset value. -/
def State.reset : State :=
  { pending := [], free := 0, sku := .s16, time := Time.zero, mem := Mem.empty, regs := Regs.reset, ctr := []
    cores := [], box := Box.empty, streams := [], tags := [], fab := Fab.empty, coll := Coll.empty, pow := Pow.reset
    rm := Rm.reset, dbg := Dbg.reset, out := [] }

/-- Faults of a step. No command of this block ends in one: every error the manual describes is an effect on the
state. -/
inductive Fault
  /-- Raised by nobody; the type needs a constructor. Safe. -/
  | neverRaised
  deriving DecidableEq, Repr

/-- Refusals of a step. -/
inductive Refusal
  /-- Raised by Dispatch for a command that has no meaning yet. Safe. -/
  | notModelled (mnemonic : String)
  /-- Raised by JTAG_INSTRUCTION for an instruction other than boundary scan and CURTAIN while debug scope bit 2 is
  granted: the manual permits it and gives it no effect (R428). Safe. -/
  | jtagUnspecified
  deriving DecidableEq, Repr

/-- What a command answers. -/
abbrev Res := Host.Outcome State Fault Refusal

end Sys2Proof.Machine
end

