-- ==== Sys2Proof/Machine/Regs.lean ====
section
/-! DEFINITION. Which page holds which block (R434), which block is present, what a register's reset value is, and the
stored value of a register with its access codes (R10, R11, R302, R304). -/

namespace Sys2Proof.Machine

/-! ## SKUs (R5, R8, R19) -/

/-- HBM4 stacks (R5). -/
def Sku.stacks : Sku → Nat | .s16 => 16 | .s12 => 12 | .s08 => 8
/-- Fitted Eaves dies, ascending (R19). -/
def Sku.dies : Sku → List Nat | .s08 => [0, 2] | _ => [0, 1, 2, 3]
/-- SKU code (R296, R309). -/
def Sku.code : Sku → Nat | .s16 => 1 | .s12 => 2 | .s08 => 3
/-- Module input power, maximum, in W (R5). -/
def Sku.maxPower : Sku → Nat | .s16 => 2500 | .s12 => 2380 | .s08 => 1750
/-- Chips per troupe, maximum (R243). -/
def Sku.members : Sku → Nat | .s08 => 8 | _ => 16
/-- Device memory in bytes (R146). -/
def Sku.memBytes (k : Sku) : Nat := k.stacks * 2 ^ 36
/-- Device memory below the reserved range (R148). -/
def Sku.usable (k : Sku) : Nat := k.memBytes - 2 ^ 32
/-- Core numbers fused off on the DPD-08S2E-128 (R8). -/
def fusedCores : List Nat := [24, 35, 36, 47, 48, 59, 60, 71, 72, 83, 84, 95, 96, 107, 108, 119]
/-- Core `n` is enabled (R8). -/
def Sku.core (k : Sku) (n : Nat) : Bool := n < 144 && !(k == .s08 && fusedCores.contains n)
/-- Number of enabled cores. -/
def Sku.cores (k : Sku) : Nat := if k = .s08 then 128 else 144
/-- Controller `h` is fitted (R19). -/
def Sku.hbmc (k : Sku) (h : Nat) : Bool :=
  h < 16 && k.dies.contains (h / 4) && !(k == .s12 && h % 4 == 3)
/-- Die `e` is fitted. -/
def Sku.die (k : Sku) (e : Nat) : Bool := k.dies.contains e
/-- Port `p` is fitted (R19). -/
def Sku.port (k : Sku) (p : Nat) : Bool := p < 32 && k.dies.contains (p / 8)

/-! ## Pages (R434) -/

/-- The block types of the page map; BOXO, DBUG and XLAT pages with and without instance 0 are told apart. -/
inductive Blk
  | core | l2sl | mesh | d2d | eave | hbmc | that | loft | bark | coll | xprt | ftim | host | boxo0 | boxo | aloc
  | xlat0 | xlat | rmst0 | rmst1 | secu | pwrc | dbug0 | dbug | mirr
  deriving DecidableEq, Repr

/-- Block type code (R302). -/
def Blk.code : Blk → Nat
  | .core => 1 | .l2sl => 2 | .mesh => 3 | .d2d => 4 | .eave => 5 | .hbmc => 6 | .that => 7 | .loft => 8 | .bark => 9
  | .coll => 10 | .xprt => 11 | .ftim => 12 | .host => 13 | .boxo0 => 14 | .boxo => 14 | .aloc => 15 | .xlat0 => 16
  | .xlat => 16 | .rmst0 => 17 | .rmst1 => 17 | .secu => 18 | .pwrc => 19 | .dbug0 => 20 | .dbug => 20 | .mirr => 21

/-- The page belongs to the physical function alone (R434). -/
def Blk.pfOnly : Blk → Bool
  | .core => false | .boxo => false | .dbug => false | .mirr => false | _ => true

/-- The block and instance of a listed page (R434). -/
def blkOf (page : Nat) : Option (Blk × Nat) :=
  if page = 0 then some (.mirr, 0) else if page = 1 then some (.rmst1, 1) else if page = 2 then some (.rmst0, 0)
  else if page = 3 then some (.secu, 0) else if page = 4 then some (.pwrc, 0) else if page = 5 then some (.ftim, 0)
  else if page = 6 then some (.host, 0) else if page = 7 then some (.mesh, 0) else if page = 8 then some (.boxo0, 0)
  else if page = 9 then some (.xlat0, 0) else if page = 0xA then some (.dbug0, 0)
  else if 0x10 ≤ page ∧ page ≤ 0x17 then some (.xlat, page - 0x10 + 1)
  else if 0x40 ≤ page ∧ page < 0xC0 then
    (if page % 16 = 0 then some (.boxo, (page - 0x40) / 16 + 1)
     else if page % 16 = 1 then some (.dbug, (page - 0x40) / 16 + 1) else none)
  else if 0x100 ≤ page ∧ page < 0x190 then some (.core, page - 0x100)
  else if 0x200 ≤ page ∧ page < 0x230 then some (.l2sl, page - 0x200)
  else if 0x240 ≤ page ∧ page < 0x244 then some (.d2d, page - 0x240)
  else if 0x400 ≤ page ∧ page < 0x500 then
    let e := (page - 0x400) / 0x40
    let o := (page - 0x400) % 0x40
    if o = 0 then some (.eave, e) else if o = 1 then some (.that, e) else if o = 2 then some (.loft, e)
    else if o = 3 then some (.bark, e) else if o = 4 then some (.coll, e) else if o = 5 then some (.aloc, e)
    else if 8 ≤ o ∧ o < 12 then some (.hbmc, 4 * e + (o - 8))
    else if 16 ≤ o ∧ o < 24 then some (.xprt, 8 * e + (o - 16)) else none
  else none

/-- The block of a page that is present on the SKU; none for an absent page (R301, R434). -/
def blkAt (k : Sku) (page : Nat) : Option (Blk × Nat) :=
  match blkOf page with
  | some (b, n) =>
    if (match b with
        | .core => k.core n
        | .d2d => k.die n
        | .eave | .that | .loft | .bark | .coll | .aloc => k.die n
        | .hbmc => k.hbmc n
        | .xprt => k.port n
        | _ => true) then some (b, n) else none
  | none => none

/-- The pages that can be present, ascending. -/
def mapPages : List Nat :=
  upTo 0 11 ++ upTo 0x10 8 ++ (upTo 0 8).flatMap (fun n => [0x40 + 16 * n, 0x41 + 16 * n]) ++ upTo 0x100 144
    ++ upTo 0x200 48 ++ upTo 0x240 4
    ++ (upTo 0 4).flatMap (fun e => (upTo 0 6 ++ upTo 8 4 ++ upTo 16 8).map (fun o => 0x400 + 0x40 * e + o))

/-- The present pages, ascending (R437). -/
def presentPages (k : Sku) : List Nat := mapPages.filter (fun p => (blkAt k p).isSome)

/-- Pages of the blocks that rules name. -/
def pgCore (c : Nat) : Nat := 0x100 + c
def pgXprt (p : Nat) : Nat := 0x410 + 0x40 * (p / 8) + p % 8
def pgLoft (e : Nat) : Nat := 0x402 + 0x40 * e
def pgBark (e : Nat) : Nat := 0x403 + 0x40 * e
def pgColl (e : Nat) : Nat := 0x404 + 0x40 * e
def pgThat0 : Nat := 0x401
def pgBoxo (n : Nat) : Nat := 0x40 + 16 * n
def pgDbug (n : Nat) : Nat := 0x41 + 16 * n

/-! ## Registers -/

/-- The registers of a page above the common header; the instance decides for COLL, THAT (R438: instance 0). -/
def blkRegs : Blk → Nat → List RegSpec
  | .core, _ => regsCore | .mesh, _ => regsMesh | .xlat0, _ => regsXlat0 | .xlat, _ => regsXlat
  | .loft, _ => regsLoft | .bark, _ => regsBark
  | .coll, n => if n = 0 then regsColl else regsColl.filter (fun r => r.off == 0x8C || r.off == 0x90 || r.off == 0x98)
  | .that, n => if n = 0 then regsThat else []
  | .xprt, _ => regsXprt | .ftim, _ => regsFtim | .host, _ => regsHost | .boxo, _ => regsBoxoCmd
  | .boxo0, _ => regsBoxoCmd ++ regsBoxo0 | .rmst0, _ => regsRmst0 | .rmst1, _ => regsRmst1 | .secu, _ => regsSecu
  | .pwrc, _ => regsPwrc | .dbug0, _ => regsDbug0 | .dbug, _ => regsDbug | .mirr, _ => regsMirr
  | .l2sl, _ | .d2d, _ | .eave, _ | .hbmc, _ | .aloc, _ => []

/-- The register of a list that covers a byte offset: its spec and its own first offset. -/
def findReg : List RegSpec → Nat → Option (RegSpec × Nat)
  | [], _ => none
  | r :: t, off =>
    let i := if r.stride = 0 then 0 else (off - r.off) / r.stride
    let b := r.off + i * r.stride
    if r.off ≤ off ∧ i < r.n ∧ off < b + r.bytes then some (r, b) else findReg t off

/-- The register at an offset of a page, if there is one. -/
def regAt (k : Sku) (page off : Nat) : Option (RegSpec × Nat) :=
  match blkAt k page with
  | none => none
  | some (b, n) => if off < 0x80 then findReg regsCommon off else findReg (blkRegs b n) off

/-- The key of a register. -/
def rkey (page off : Nat) : Nat := page * 4096 + off

/-- Reset value of a register from its fields. -/
def RegSpec.reset (r : RegSpec) : Nat := r.fields.foldl (fun a f => a + f.rst * 2 ^ f.lo) 0

/-- Every enabled core whose number lies in word `w` of a core set. -/
def coreWord (k : Sku) (w : Nat) : Nat := maskOf ((upTo 0 64).filter (fun i => k.core (64 * w + i)))

/-- Reset value of the register at a key, per SKU and instance where the field tables say so. -/
def resetOf (k : Sku) (key : Nat) : Nat :=
  let page := key / 4096
  let off := key % 4096
  match blkAt k page with
  | none => 0
  | some (b, n) =>
    if off = 0 then b.code * 2 ^ 16 + n
    else if off = 0x30 then (if b.pfOnly then 0x80 else 0)
    else match b with
    | .xlat0 =>
      if 0x400 ≤ off ∧ off < 0x800 then
        maskOf ((upTo 0 4).filterMap (fun j => if (off - 0x400 + j) * 2 ^ 30 < k.usable then some (8 * j + 3) else none))
      else match regAt k page off with | some (r, _) => r.reset | none => 0
    | .loft => if off = 0xA0 then 13312 * 2 ^ 16 else match regAt k page off with | some (r, _) => r.reset | none => 0
    | .boxo0 =>
      if off = 0x100 then (if k = .s08 then 22 else 44) + 256
      else if off = 0x108 then 2 ^ 64 - 1
      else if off = 0x200 ∨ off = 0x208 ∨ off = 0x210 then coreWord k ((off - 0x200) / 8)
      else if off = 0x218 then 4096 * 2 ^ 32 else if off = 0x220 then 65536 * 2 ^ 32 else if off = 0x228 then 262144 * 2 ^ 32
      else if off = 0x230 then 1
      else match regAt k page off with | some (r, _) => r.reset | none => 0
    | _ => match regAt k page off with | some (r, _) => r.reset | none => 0

/-- The value in force of the register at a key. -/
def regv (s : State) (key : Nat) : Nat :=
  match SMap.get none s.regs.val key with
  | some v => v.toNat
  | none => resetOf s.sku key

/-- The value in force of a register of a page. -/
def reg (s : State) (page off : Nat) : Nat := regv s (rkey page off)

/-- The shadow of a register; at reset of the block it equals the value in force (R304). -/
def shadow (s : State) (page off : Nat) : Nat :=
  match SMap.get none s.regs.shadow (rkey page off) with
  | some v => v.toNat
  | none => reg s page off

/-- Store a register's value. -/
def setReg (s : State) (page off v : Nat) : State :=
  { s with regs := { s.regs with val := SMap.put none s.regs.val (rkey page off) (some (BitVec.ofNat 64 v)) } }

/-- Store a register's shadow. -/
def setShadow (s : State) (page off v : Nat) : State :=
  { s with regs := { s.regs with shadow := SMap.put none s.regs.shadow (rkey page off) (some (BitVec.ofNat 64 v)) } }

/-- Set bits [hi:lo] of a stored register. -/
def setField (s : State) (page off hi lo v : Nat) : State := setReg s page off (setBits (reg s page off) hi lo v)

/-- What a write of the bits `m` (a mask of written bits) with value `v` does to one field of a register's value
in force (R10, R11). -/
def Access.write : Access → Nat → Nat → Nat → Nat
  | .rw, old, v, m => (old &&& ((2 ^ 64 - 1) ^^^ m)) ||| (v &&& m)
  | .w1c, old, v, m => old &&& ((2 ^ 64 - 1) ^^^ (v &&& m))
  | .w1s, old, v, m => old ||| (v &&& m)
  | .ro, old, _, _ => old
  | .wo, old, _, _ => old
  | .cs, old, _, _ => old

/-- The mask of a field. -/
def FieldSpec.mask (f : FieldSpec) : Nat := (2 ^ (f.hi + 1 - f.lo) - 1) * 2 ^ f.lo

/-- The value in force after a write of the bits `m`. -/
def RegSpec.written (r : RegSpec) (old v m : Nat) : Nat :=
  r.fields.foldl (fun a f => f.acc.write a v (m &&& f.mask)) old

/-- The shadow after a write of the bits `m`. -/
def RegSpec.shadowed (r : RegSpec) (old v m : Nat) : Nat :=
  r.fields.foldl (fun a f => if f.acc = .cs then Access.rw.write a v (m &&& f.mask) else a) old

/-- The register has a CS field. -/
def RegSpec.hasCs (r : RegSpec) : Bool := r.fields.any (fun f => f.acc == .cs)

/-- Bits that read: WO fields read 0 (R10). -/
def RegSpec.readMask (r : RegSpec) : Nat :=
  r.fields.foldl (fun a f => if f.acc = .wo then a else a ||| f.mask) 0

/-! ## Partition registers (R321, R322) -/

/-- Range [base, base + count) of a BOXO_PCTX, PQ or PFEN register of partition `n`. -/
def inRange (s : State) (off n x : Nat) : Bool :=
  let v := reg s 8 (off + 0x40 * n)
  decide (v % 2 ^ 32 ≤ x) && decide (x < v % 2 ^ 32 + v / 2 ^ 32)

/-- Core `c` belongs to partition `n`. -/
def coreIn (s : State) (n c : Nat) : Bool :=
  s.sku.core c && bit (reg s 8 (0x200 + 0x40 * n + 8 * (c / 64))) (c % 64)

/-- The partition of a core, none when it belongs to none. -/
def corePart (s : State) (c : Nat) : Option Nat := (upTo 0 8).find? (fun n => coreIn s n c)

/-- The partition that owns a present page: for a core the one whose BOXO_PCORE set holds it, for BOXO, DBUG pages
BLK_OWNER.PART; none for the pages of the physical function and the mirror, whose PART has no effect (R303, R435). -/
def pageOwner (s : State) (page : Nat) : Option Nat :=
  match blkAt s.sku page with
  | some (.core, c) => corePart s c
  | some (.mirr, _) => none
  | some (b, _) => if b.pfOnly then none else some (reg s page 0x30 % 8)
  | none => none

/-- The partition whose range holds context, queue or slot `x`. -/
def rangePart (s : State) (off x : Nat) : Option Nat := (upTo 0 8).find? (fun n => inRange s off n x)
def ctxPart (s : State) (x : Nat) : Option Nat := rangePart s 0x218 x
def queuePart (s : State) (x : Nat) : Option Nat := rangePart s 0x220 x
def slotPart (s : State) (x : Nat) : Option Nat := rangePart s 0x228 x

/-- The partition of the 1 GiB range `r` of the carve-out table, none when it is carved out to none. -/
def carve (s : State) (r : Nat) : Option Nat :=
  if r < 1024 then
    let v := reg s 9 (0x400 + r / 4 * 4) >>> (8 * (r % 4))
    if bit v 3 then some (v % 8) else none
  else none

/-- The ranges of partition `n`'s carve-out, ascending. -/
def carveOf (s : State) (n : Nat) : List Nat := (upTo 0 1024).filter (fun r => carve s r == some n)

/-- Stream slot `k` belongs to partition `n` (R182). -/
def slotIn (s : State) (n k : Nat) : Bool := k < 64 && bit (reg s 8 (0x108 + 8 * n)) k

end Sys2Proof.Machine
end

