-- ==== Sys2Proof/Machine/Ops.lean ====
section
/-! DEFINITION. The named operations every meaning is built from: reading and writing cores, groups and threads; free
values; outputs; counters; Carousel events; corrected errors; interrupts; fence slots. -/

namespace Sys2Proof.Machine

/-! ## Outputs, free values, counters -/

/-- Something leaves the module. -/
def emit (s : State) (o : Out) : State := { s with out := s.out ++ [o] }

/-- The port of a partition's host, and whether its link is up (R295, R297, R314). -/
def hostPort (s : State) (p : Nat) : Nat := if s.pow.linkMode = 1 ∧ 4 ≤ p then 1 else 0
def linkUp (s : State) (n : Nat) : Bool := decide (0 < (SMap.get (0, 0, false) s.pow.links n).1)

/-- A function's messages go through its port. -/
def fnPort (s : State) (fn : Nat) : Nat := if fn = 9 then 1 else if fn = 0 then 0 else hostPort s (fn - 1)

/-- An MSI-X message of a function. -/
def emitMsg (s : State) (fn vec : Nat) : State := if linkUp s (fnPort s fn) then emit s (.msix fn vec) else s

/-! ## Configuration space (R296 to R298) -/

/-- Reset value and highest value of a setting: 3 maximum payload size and 4 maximum read request size, 128 B × 2^v; 5 PTM enable; 7 the
size of BAR4 and 8 that of the virtual functions' BAR4, 2^v GiB; 9 SR-IOV enable. The numbers of the settings and the reset values are
the model's (assumption 130). -/
def cfgReset (what : Nat) : Nat := if what = 4 then 2 else if what = 7 ∨ what = 8 then 10 else 0
def cfgMax (what : Nat) : Nat := if what = 3 then 2 else if what = 4 then 5 else if what = 7 ∨ what = 8 then 10 else 1

/-- The physical functions hold the settings; port 0 alone holds PTM, and PF0 alone BAR4. -/
def cfgHas (fn what : Nat) : Bool := (fn == 0 && [3, 4, 5, 7, 8, 9].contains what) || (fn == 9 && [3, 4, 8, 9].contains what)
def cfgVal (s : State) (fn what : Nat) : Nat := (SMap.get none s.pow.cfg (16 * fn + what)).getD (cfgReset what)

/-- The physical function of a virtual function (R297), and the size of a function's BAR4. -/
def pfOf (s : State) (fn : Nat) : Nat := if fn = 9 ∨ (s.pow.linkMode = 1 ∧ 5 ≤ fn) then 9 else 0
def bar4Bytes (s : State) (fn : Nat) : Nat := 2 ^ (30 + cfgVal s (pfOf s fn) (if fn = 0 then 7 else 8))

/-- A fresh open bit of this step; `k` tells apart the uses of one step. -/
def freshBit (s : State) (k : Nat) : Bool := Config.freeBit s.free k

/-- A fresh open number of this step. -/
def freshNat (s : State) (k : Nat) : Nat := Config.freeNat s.free k

/-- The step has used its free values. -/
def useFree (s : State) : State := { s with free := s.free + 1 }

/-- A counter, by the key of its register. -/
def ctr (s : State) (key : Nat) : Nat := SMap.get 0 s.ctr key

/-- Set a counter (64-bit). -/
def setCtr (s : State) (key v : Nat) : State := { s with ctr := SMap.put 0 s.ctr key (v % 2 ^ 64) }

/-- Count `n`; counters count nothing while the Curtain is up (R394, R406). -/
def count (s : State) (key n : Nat) : State := if s.dbg.raised then s else setCtr s key (ctr s key + n)

/-- Count in the bank of partition `p` (R405). -/
def countBank (s : State) (p off n : Nat) : State := count s (rkey (pgDbug p) off) n

/-- Count a port event (R408). -/
def countPort (s : State) (p off n : Nat) : State := count s (rkey (pgXprt p) off) n

/-! ## The Carousel (R400) -/

/-- Key of a unit's ring: block type, instance and, for a core, the engine. -/
def ringKey (type inst sub : Nat) : Nat := (type * 65536 + inst) * 4 + sub

/-- Record an event as the newest of its ring; the ring holds 64; nothing records under the Curtain (R394). -/
def note (s : State) (type inst sub event : Nat) (part ctx : Option Nat) (tag arg : Nat) : State :=
  if s.dbg.raised then s else
  let k := ringKey type inst sub
  let e : Event := { ft := s.time.ft, event := event, part := part, ctx := ctx, tag := tag % 65536, arg := arg % 65536 }
  { s with dbg := { s.dbg with rings := SMap.put [] s.dbg.rings k ((e :: SMap.get [] s.dbg.rings k).take 64) } }

/-! ## Block errors and interrupts (R302, R311) -/

/-- BLK_ERR of a page; the PWRC, XPRT, HOST, DBUG, BOXO and RMST_1 pages define bits. -/
def blkErr (s : State) (page : Nat) : Nat := reg s page 0x10

/-- The function that owns a page's vector 0, beside PF0 (R311): virtual function n is number n + 1. -/
def vecFn (s : State) (page : Nat) : Nat := match pageOwner s page with | some p => p + 1 | none => 0

/-- After BLK_ERR or BLK_INTEN of a page changed: one message when their AND turns non-zero (R311). -/
def interrupts (s : State) (page : Nat) : State :=
  let on := (blkErr s page &&& reg s page 0x14) ≠ 0
  let was := SMap.get false s.regs.raisedI page
  let s := { s with regs := { s.regs with raisedI := SMap.put false s.regs.raisedI page on } }
  if on ∧ was = false then
    let s := emitMsg s 0 0
    if vecFn s page = 0 then s else emitMsg s (vecFn s page) 0
  else s

/-- Set bits of a page's BLK_ERR. -/
def raiseErr (s : State) (page bits : Nat) : State := interrupts (setReg s page 0x10 (blkErr s page ||| bits)) page

/-- A discarded host access sets HOST BLK_ERR.DROPPED (R298, R312). -/
def dropped (s : State) : State := raiseErr s 6 4

/-- A host port reports a non-fatal error through AER; HOST BLK_ERR.UNCORR is set (R175, R296, R313). -/
def aerReport (s : State) (n : Nat) : State :=
  raiseErr { s with pow := { s.pow with aer := SMap.put 0 s.pow.aer n (SMap.get 0 s.pow.aer n + 1) } } 6 16

/-- A write, read or message to the host of partition `p`: discarded while its link is down (R314). A damaged write is reported (R175). -/
def emitHost (s : State) (p : Nat) (o : Out) : State :=
  if !linkUp s (hostPort s p) then s else
  match o with
  | .hostWrite _ _ true => aerReport (emit s o) (hostPort s p)
  | _ => emit s o

/-! ## Corrected errors (R386, R391) -/

/-- Append to the Ringmaster's log, which keeps its last 2 KiB (R317). -/
def logAdd (s : State) (b : List Byte) : State :=
  let l := s.rm.log ++ b
  { s with rm := { s.rm with log := l.drop (l.length - 2048) } }

/-- An entry of the Ringmaster's log, whose wording the manual does not give: 16 open bytes. -/
def logOpen (s : State) : State := useFree (logAdd s ((upTo 0 16).map (Config.responseByte s.free)))

/-- The corrected errors of a block type within the last second of fabric time, one more that comes now among them. -/
def ceWindow (s : State) (t : Nat) : List Nat := (s.time.ft :: SMap.get [] s.dbg.ceWin t).filter (fun x => s.time.ft < x + 10 ^ 9)

/-- One more corrected error of the block type is more than THRESH within 1 s. -/
def storms (s : State) (t : Nat) : Bool :=
  let thresh := reg s 0xA 0xF8 % 2 ^ 24
  decide (thresh ≠ 0) && decide (thresh < (ceWindow s t).length)

/-- CESTORM is set; the Ringmaster logs one that was not set before. -/
def stormErr (s : State) : State :=
  let s' := raiseErr s 0xA 1
  if s.rm.up && !bit (blkErr s 0xA) 0 then logOpen s' else s'

/-- Count a corrected error of block type `t`, instance `n`: DBUG_CE_t, Carousel event 0x0F, and CESTORM when the count
rose by more than THRESH within the last second of fabric time. -/
def corrected (s : State) (t n loc : Nat) : State :=
  let d := s.dbg
  let u := note { s with dbg := { d with ce := SMap.put 0 d.ce t ((SMap.get 0 d.ce t + 1) % 2 ^ 64)
                                         ceWin := SMap.put [] d.ceWin t (ceWindow s t) } } t n 0 0x0F none none 0 loc
  if storms s t then stormErr u else u

/-! ## Cores, groups, threads -/

def core (s : State) (c : Nat) : Core := SMap.get Core.empty s.cores c
def setCore (s : State) (c : Nat) (k : Core) : State := { s with cores := SMap.put Core.empty s.cores c k }
def grp (s : State) (c g : Nat) : Group := SMap.get Group.empty (core s c).groups g
def Core.setGrp (k : Core) (g : Nat) (x : Group) : Core := { k with groups := SMap.put Group.empty k.groups g x }
def setGrp (s : State) (c g : Nat) (x : Group) : State := setCore s c ((core s c).setGrp g x)
def tm (s : State) (c t : Nat) : Team := SMap.get Team.empty (core s c).teams t
def setTm (s : State) (c t : Nat) (x : Team) : State :=
  setCore s c { core s c with teams := SMap.put Team.empty (core s c).teams t x }

/-- A thread that is not there counts as exited. -/
def Thread.gone : Thread := { pc := 0, stat := .exited, preds := 0, mark := false, age := 0 }

def Group.thr (g : Group) (t : Nat) : Thread := nthD Thread.gone g.threads t
def Group.setThr (g : Group) (t : Nat) (x : Thread) : Group := { g with threads := setNth g.threads t x }

/-- Threads 0 to 31. -/
def lanes : List Nat := upTo 0 32

/-- The set at an address: the running threads whose program counter it is (R35). -/
def Group.setAt (g : Group) (pc : W64) : List Nat :=
  lanes.filter (fun t => (g.thr t).stat = .running ∧ (g.thr t).pc = pc)

/-- The running threads. -/
def Group.runners (g : Group) : List Nat := lanes.filter (fun t => (g.thr t).stat = .running)

/-- The age of a set: the greatest of its threads' (R36: a merged set keeps the greater age). -/
def Group.ageOf (g : Group) (set : List Nat) : Nat := (set.map (fun t => (g.thr t).age)).foldl max 0

/-- A set is marked when one of its threads carries the mark. For sets that merge, R36 gives the age alone; that the merged set is marked
when either was is the model's choice (DESIGN CHOICE, assumption 119). -/
def Group.marked (g : Group) (set : List Nat) : Bool := set.any (fun t => (g.thr t).mark)

/-- Vector register `r` of thread `t`; 0xFF reads 0 (R68). -/
def Group.v (g : Group) (t r : Nat) : W32 := if r = 255 then 0 else SMap.get 0 g.vreg (256 * t + r)

/-- Write vector register `r` of thread `t`; 0xFF discards (R68). A write clears the register's poison (R177). -/
def Group.setV (g : Group) (t r : Nat) (x : W32) : Group :=
  if r = 255 then g else
  { g with vreg := SMap.put 0 g.vreg (256 * t + r) x, vpoison := SMap.put false g.vpoison (256 * t + r) false }

/-- Uniform register `r`; 0xFF reads 0 (R68). -/
def Group.u (g : Group) (r : Nat) : W64 := if r = 255 then 0 else SMap.get 0 g.ureg r

/-- Write uniform register `r`. -/
def Group.setU (g : Group) (r : Nat) (x : W64) : Group :=
  { g with ureg := SMap.put 0 g.ureg r x, upoison := SMap.put false g.upoison r false }

/-- A 64-bit operand in vN and vN+1 (R69). -/
def Group.v64 (g : Group) (t r : Nat) : W64 := if r = 255 then 0 else (g.v t (r + 1)) ++ (g.v t r)

/-- Write a pair (R69). -/
def Group.setV64 (g : Group) (t r : Nat) (x : W64) : Group :=
  if r = 255 then g else (g.setV t r (x.setWidth 32)).setV t (r + 1) ((x >>> 32).setWidth 32)

/-- Predicate `p` of thread `t`. -/
def Group.p (g : Group) (t p : Nat) : Bool := (g.thr t).preds.getLsbD p

/-- Write predicate `p` of thread `t`. -/
def Group.setP (g : Group) (t p : Nat) (b : Bool) : Group :=
  let x := g.thr t
  let one : BitVec 8 := BitVec.ofNat 8 (2 ^ p)
  g.setThr t { x with preds := if b then x.preds ||| one else x.preds &&& ~~~ one }

/-! ## Counters of a core (R404) -/

/-- Count `n` events `ev` of work of a context and tag on core `c`: every programmable counter whose filter matches. -/
def pmc (s : State) (c ev n cx tag : Nat) : State :=
  (upTo 0 16).foldl (fun s i =>
    let k := reg s (pgCore c) (0x200 + 8 * i)
    if ev ≠ 0 ∧ k % 256 = ev ∧ (bit k 8 = false ∨ bits k 21 10 = cx)
        ∧ (bit k 9 = false ∨ tag &&& bits k 63 48 = bits k 47 32 &&& bits k 63 48)
    then count s (rkey (pgCore c) (0x280 + 8 * i)) n else s) s

/-- Count events of work that names no one context: only counters without a filter count them. -/
def pmcAny (s : State) (c ev n : Nat) : State :=
  (upTo 0 16).foldl (fun s i =>
    if reg s (pgCore c) (0x200 + 8 * i) % 1024 = ev then count s (rkey (pgCore c) (0x280 + 8 * i)) n else s) s

/-- Count a group's event. -/
def pmcG (s : State) (c g ev n : Nat) : State := pmc s c ev n (grp s c g).ctx (grp s c g).tag

/-! ## Core numbers, chip numbers -/

/-- sr.chip: this chip's number, 0xFFFF while it has none (R244). -/
def chipNo (s : State) : Nat := s.fab.plan.chip

/-- The chip runs work: in SERVICE, not fatal, no Curtain (R378, R382, R394). -/
def running (s : State) : Bool :=
  s.pow.power == .active && s.pow.svc == 3 && !s.dbg.raised && !s.dbg.fatal

/-- Debug scope bit of SECU_BOOTSTAT (R373). -/
def scopeBit (s : State) (i : Nat) : Bool := bit s.rm.scope i

/-! ## Fence slots (R346, R347) -/

def fence (s : State) (k : Nat) : Fence := SMap.get Fence.free s.box.fences k
def setFence (s : State) (k : Nat) (f : Fence) : State :=
  { s with box := { s.box with fences := SMap.put Fence.free s.box.fences k f } }

/-- The threads of a group that wait on a slot continue with the WAITF result (R89). -/
def Group.release (g : Group) (slot res : Nat) : Group :=
  (g.waits.filter (fun w => w.slot == slot)).foldl (fun g w =>
    (g.setThr w.th { g.thr w.th with stat := .running, mark := false, age := 0 }).setV w.th w.dst (BitVec.ofNat 32 res))
    { g with waits := g.waits.filter (fun w => w.slot != slot) }

/-- The slot a packet waits on, when its header says so (R333). -/
def pkWait (b : List Byte) : Option Nat := if bit (leAt b 1 1) 0 then some (leAt b 8 4) else none

/-- The wait of a queue's command whose turn it is ends. -/
def releaseCmds (slot : Nat) (err : Bool) : List Cmd → List Cmd
  | [] => []
  | c :: t =>
    if c.st = .waiting then
      (if pkWait c.bytes = some slot ∧ c.gate = none then { c with gate := some err } else c) :: t
    else c :: releaseCmds slot err t

/-- Every waiter on a slot, on every core, in every saved team and in every queue, is released (R346). -/
def releaseAll (s : State) (slot : Nat) (err : Bool) : State :=
  let res := if err then 1 else 0
  let saved := s.box.saved.map (fun (x : Saved) => { x with groups := x.groups.map (fun g => g.release slot res) })
  let queues := s.box.queues.map (fun (x : Nat × Queue) => (x.1, { x.2 with cmds := releaseCmds slot err x.2.cmds }))
  let s := { s with box := { s.box with saved := saved, queues := queues } }
  s.cores.foldl (fun (s : State) (ck : Nat × Core) => ck.2.groups.foldl (fun (s : State) (gk : Nat × Group) =>
    if gk.2.waits.any (fun w => w.slot == slot) then setGrp s ck.1 gk.1 ((grp s ck.1 gk.1).release slot res) else s) s) s

/-- Signal a slot, with or without the error flag: all waiters are released (R346). -/
def signal (s : State) (k : Nat) (err : Bool) : State :=
  let f := fence s k
  let e := f.err || err
  let s := setFence s k { f with sig := true, err := e }
  let s := note s 14 0 0 0x0E (slotPart s k) none 0 ((if e then 32768 else 0) + k % 32768)
  releaseAll s k e

/-- Reset a slot: waiters keep waiting (R346). -/
def resetFence (s : State) (k : Nat) : State := setFence s k { fence s k with sig := false, err := false }

/-- Context `c` owns slot `k` or holds it through a share entry (R347). -/
def slotMine (s : State) (c k : Nat) : Bool :=
  decide ((fence s k).owner = some c) || s.box.shares.any (fun e => e.2 == some (k, c))

/-- A fence reference (R88). -/
inductive FRef | bad | loc (slot : Nat) | sys (chip slot : Nat)
  deriving DecidableEq, Repr

/-- Read a 64-bit fence reference: chip, region 0x02, slot number times 8 below 262,144 slots (R88). -/
def fref (x : W64) : FRef :=
  let v := x.toNat
  let off := v % 2 ^ 40
  if v / 2 ^ 40 % 256 ≠ 2 ∨ off % 8 ≠ 0 ∨ 262144 ≤ off / 8 then .bad
  else if v / 2 ^ 48 = 0xFFFF then .loc (off / 8) else .sys (v / 2 ^ 48) (off / 8)

/-! ## Contexts -/

def ctx (s : State) (c : Nat) : Ctx := SMap.get Ctx.free s.box.ctxs c
def setCtx (s : State) (c : Nat) (x : Ctx) : State := { s with box := { s.box with ctxs := SMap.put Ctx.free s.box.ctxs c x } }
def queue (s : State) (q : Nat) : Queue := SMap.get Queue.empty s.box.queues q
def setQueue (s : State) (q : Nat) (x : Queue) : State :=
  { s with box := { s.box with queues := SMap.put Queue.empty s.box.queues q x } }
def stream (s : State) (k : Nat) : Stream := SMap.get Stream.empty s.streams k
def setStream (s : State) (k : Nat) (x : Stream) : State := { s with streams := SMap.put Stream.empty s.streams k x }
def port (s : State) (p : Nat) : Port := SMap.get Port.empty s.fab.ports p
def setPort (s : State) (p : Nat) (x : Port) : State := { s with fab := { s.fab with ports := SMap.put Port.empty s.fab.ports p x } }

/-- Block state of a page, BLK_STAT.STATE: 1 RESET at reset (R302, R441). The map holds the distance from 1, modulo 8. -/
def blkState (s : State) (page : Nat) : Nat := (SMap.get 0 s.regs.blk page + 1) % 8
def setBlkState (s : State) (page st : Nat) : State :=
  { s with regs := { s.regs with blk := SMap.put 0 s.regs.blk page ((st + 7) % 8) } }

end Sys2Proof.Machine
end

