-- ==== Sys2Proof/Machine/Cache.lean ====
section
/-! DEFINITION. Device memory behind the L2, the geometry of the caches, and replacement (R148, R149, R158 to R164, R173,
R175). A reader of the L2 or of memory sees the L2's sector where it is valid, otherwise the stack's. -/

namespace Sys2Proof.Machine

/-! ## Placement (R149, R159) -/

/-- The home slice of a line, its L2 set and its directory set. -/
def homeOf (line : Nat) : Nat := line % 48
def l2Set (line : Nat) : Nat := line / 48 % 1024
def dirSet (line : Nat) : Nat := line / 48 % 512
/-- L1 set (PA[13:7]) and instruction-cache set (PA[12:7]). -/
def l1Set (line : Nat) : Nat := line % 128
def icSet (line : Nat) : Nat := line % 64

/-- f of R149: the xor of q's bytes. -/
def fOf (q : Nat) : Nat := bits q 7 0 ^^^ bits q 15 8 ^^^ bits q 23 16
/-- The fitted controller's index, the pseudo-channel and the row of a 4 KiB granule. -/
def stackOf (k : Sku) (g : Nat) : Nat := (g % k.stacks + fOf (g / k.stacks)) % k.stacks
def pchanOf (k : Sku) (g : Nat) : Nat :=
  let q := g / k.stacks
  bits q 5 0 ^^^ bits q 11 6 ^^^ bits q 17 12 ^^^ bits q 23 18
def rowOf (k : Sku) (g : Nat) : Nat := bits (g / k.stacks) 23 6
/-- The controller of a granule: the i-th fitted one in ascending number. -/
def hbmcOf (k : Sku) (g : Nat) : Nat := nthD 0 ((upTo 0 16).filter k.hbmc) (stackOf k g)
/-- The Eaves die that holds a granule's stack (R19). -/
def dieOf (k : Sku) (g : Nat) : Nat := hbmcOf k g / 4

/-! ## Replacement (R161 to R164) -/

/-- MESH_CACHE_CTL.CACHE_MODE in force: random when set. -/
def cacheRandom (s : State) : Bool := bit (reg s 7 0x80) 0

/-- Structure instances: the L1 of a core, its instruction cache, an L2 slice, a directory slice. -/
def instL1 (c : Nat) : Nat := c
def instIc (c : Nat) : Nat := 256 + c
def instL2 (sl : Nat) : Nat := 512 + sl
def instDir (sl : Nat) : Nat := 768 + sl

/-- One step of an LFSR (R162). -/
def lfsrStep (x : W16) : W16 :=
  let n := x.getLsbD 15 ^^ x.getLsbD 13 ^^ x.getLsbD 12 ^^ x.getLsbD 10
  (x <<< 1) ||| (if n then 1 else 0)

/-- Node bits after a hit or fill of way `w`: every node on the path points away from `w` (R163). Nodes are numbered from
the root 1, children 2 i and 2 i + 1; `k` levels remain. -/
def plruTouch : Nat → Nat → Nat → Nat → Nat
  | 0, _, _, m => m
  | k + 1, node, w, m =>
    let up := bit w k
    let m := if up then m - (if bit m node then 2 ^ node else 0) else m ||| 2 ^ node
    plruTouch k (2 * node + up.toNat) w m

/-- The leaf the node bits lead to. -/
def plruVictim : Nat → Nat → Nat → Nat → Nat
  | 0, _, _, w => w
  | k + 1, node, m, w => let b := (bit m node).toNat; plruVictim k (2 * node + b) m (2 * w + b)

/-- A hit or fill of way `w` of a set with 2^k ways. -/
def touchWay (s : State) (inst set k w : Nat) : State :=
  if cacheRandom s then s else
  let key := inst * 1024 + set
  { s with mem := { s.mem with plru := SMap.put 0 s.mem.plru key (plruTouch k 1 w (SMap.get 0 s.mem.plru key)) } }

/-- The victim of a full set with 2^k ways. -/
def victim (s : State) (inst set k : Nat) : State × Nat :=
  if cacheRandom s then
    let x := lfsrStep (SMap.get 1 s.mem.lfsr inst)
    ({ s with mem := { s.mem with lfsr := SMap.put 1 s.mem.lfsr inst x } }, x.toNat % 2 ^ k)
  else (s, plruVictim k 1 (SMap.get 0 s.mem.plru (inst * 1024 + set)) 0)

/-! ## Die-to-die ports (R22) -/

/-- The port of an Eaves die retrains: traffic for it waits. -/
def d2dBusy (s : State) (e : Nat) : Bool := SMap.get false s.mem.d2dUp e
/-- The stack of a line cannot be reached now. -/
def stackBusy (s : State) (line : Nat) : Bool := d2dBusy s (dieOf s.sku (line / 32))

/-! ## HBM4 -/

/-- Bank counter of the partition whose carve-out holds an address. -/
def countMem (s : State) (pa off n : Nat) : State :=
  match carve s (pa / 2 ^ 30) with | some p => countBank s p off n | none => s

/-- A 32 B sector of device memory, and its poison mark. -/
def hbmSector (s : State) (sec : Nat) : List Byte := SMap.getList 0 s.mem.hbm (32 * sec) 32
def hbmPoison (s : State) (sec : Nat) : Bool := SMap.get false s.mem.poison sec

/-- Write a whole sector with its mark (R175). -/
def hbmWrite (s : State) (sec : Nat) (d : List Byte) (p : Bool) : State :=
  { s with mem := { s.mem with hbm := SMap.putList 0 s.mem.hbm (32 * sec) d, poison := SMap.put false s.mem.poison sec p } }

/-! ## L2 (R158, R159) -/

/-- Replace the bytes of a list from position `off` on. -/
def splice (l : List Byte) (off : Nat) (d : List Byte) : List Byte := l.take off ++ d ++ l.drop (off + d.length)

/-- Key of a way of the L2. -/
def l2Key (line w : Nat) : Nat := (homeOf line * 1024 + l2Set line) * 16 + w
def l2At (s : State) (line w : Nat) : L2Line := SMap.get L2Line.empty s.mem.l2 (l2Key line w)
def setL2 (s : State) (line w : Nat) (x : L2Line) : State :=
  { s with mem := { s.mem with l2 := SMap.put L2Line.empty s.mem.l2 (l2Key line w) x } }

/-- The way that holds a line. -/
def l2Find (s : State) (line : Nat) : Option Nat :=
  (upTo 0 16).find? (fun w => (l2At s line w).used && (l2At s line w).line == line)

/-- The home slice can answer for the whole line now: it holds it, or the port to its stack is up (R22). -/
def lineServes (s : State) (line : Nat) : Bool :=
  !stackBusy s line || (match l2Find s line with | some w => (l2At s line w).valid == 15 | none => false)

/-- A sector as every reader outside the L1s sees it, and its mark. -/
def sector (s : State) (sec : Nat) : List Byte :=
  match l2Find s (sec / 4) with
  | some w => let x := l2At s (sec / 4) w
              if bit x.valid (sec % 4) then (x.data.drop (32 * (sec % 4))).take 32 else hbmSector s sec
  | none => hbmSector s sec
def sectorPoison (s : State) (sec : Nat) : Bool :=
  match l2Find s (sec / 4) with
  | some w => let x := l2At s (sec / 4) w
              if bit x.valid (sec % 4) then bit x.poison (sec % 4) else hbmPoison s sec
  | none => hbmPoison s sec

/-- The sectors that the `n` bytes from `pa` lie in. -/
def sectorsOf (pa n : Nat) : List Nat := if n = 0 then [] else upTo (pa / 32) ((pa + n - 1) / 32 - pa / 32 + 1)

/-- The `n` bytes from `pa` as the L2 and memory hold them. -/
def peek (s : State) (pa n : Nat) : List Byte :=
  (((sectorsOf pa n).flatMap (sector s)).drop (pa % 32)).take n
def peekLE (s : State) (pa n : Nat) : Nat := ofLE (peek s pa n)
/-- A sector of the range is poisoned. -/
def poisonIn (s : State) (pa n : Nat) : Bool := (sectorsOf pa n).any (sectorPoison s)

/-- Write a line's dirty sectors back to the stack. DBUG_HBMWR counted them when they became dirty: a write-back that a miss of another
partition brings about changes no counter of the line's own (R4, R405; DESIGN CHOICE, assumption 123). -/
def l2Clean (s : State) (x : L2Line) : State :=
  (maskBits 4 x.dirty).foldl (fun s i => hbmWrite s (4 * x.line + i) ((x.data.drop (32 * i)).take 32) (bit x.poison i)) s

/-- The way that holds `line`, after allocating one without valid sectors where none does. -/
def l2Alloc (s : State) (line : Nat) : State × Nat :=
  match l2Find s line with
  | some w => (touchWay (countMem s (128 * line) 0x90 1) (instL2 (homeOf line)) (l2Set line) 4 w, w)
  | none =>
    let s := countMem s (128 * line) 0x98 1
    let (s, w) := match (upTo 0 16).find? (fun w => !(l2At s line w).used) with
      | some w => (s, w)
      | none => victim s (instL2 (homeOf line)) (l2Set line) 4
    let s := l2Clean s (l2At s line w)
    let s := setL2 s line w { used := true, line := line, valid := 0, dirty := 0, poison := 0, data := (upTo 0 128).map (fun _ => 0) }
    (touchWay s (instL2 (homeOf line)) (l2Set line) 4 w, w)

/-- Make the sectors of `mask` valid, reading the stack for those that are not. -/
def l2Fetch (s : State) (line w mask : Nat) : State :=
  (maskBits 4 mask).foldl (fun s i =>
    let x := l2At s line w
    if bit x.valid i then s else
    countMem (setL2 s line w { x with
      valid := x.valid ||| 2 ^ i
      poison := if hbmPoison s (4 * line + i) then x.poison ||| 2 ^ i else x.poison
      data := splice x.data (32 * i) (hbmSector s (4 * line + i)) }) (128 * line) 0x80 32) s

/-- The line is in the L2 with the sectors of `mask` valid: a read through the home slice. -/
def l2Read (s : State) (line mask : Nat) : State := let r := l2Alloc s line; l2Fetch r.1 line r.2 mask

/-- A read of a range through the home slices. -/
def touchRange (s : State) (pa n : Nat) : State :=
  (sectorsOf pa n).foldl (fun s sec => l2Read s (sec / 4) (2 ^ (sec % 4))) s

/-- Device memory as an agent on an Eaves die sees it: a line that its home slice holds dirty comes from there, every other one from the
stack (R173). -/
def eaves (s : State) : State :=
  { s with mem := { s.mem with l2 := s.mem.l2.filter (fun (p : Nat × L2Line) => p.2.dirty != 0) } }

/-- A read of a sector by an agent on an Eaves die: a hit in the L2 where the slice holds the line dirty, else a read of the stack that
leaves the L2 as it is (R173). -/
def dieTouch (s : State) (sec : Nat) : State :=
  match l2Find s (sec / 4) with
  | some w => if (l2At s (sec / 4) w).dirty = 0 then countMem s (32 * sec) 0x80 32 else l2Read s (sec / 4) (2 ^ (sec % 4))
  | none => countMem s (32 * sec) 0x80 32

/-- Reads of a range by an agent on an Eaves die. -/
def dieTouchRange (s : State) (pa n : Nat) : State := (sectorsOf pa n).foldl dieTouch s

/-- Write bytes at offset `off` of a sector into the L2: a whole sector takes the mark `p`; a partial write leaves a marked
sector marked and takes on the mark of the data (R175). -/
def l2WriteSector (s : State) (sec off : Nat) (d : List Byte) (p : Bool) : State :=
  let line := sec / 4
  let i := sec % 4
  let (s, w) := l2Alloc s line
  let whole := d.length == 32
  let s := if whole then s else l2Fetch s line w (2 ^ i)
  let x := l2At s line w
  let s := if bit x.dirty i then s else countMem s (128 * line) 0x88 32
  let old := bit x.poison i && bit x.valid i
  let p := if whole then p else p || old
  let base := x.poison - (if bit x.poison i then 2 ^ i else 0)
  setL2 s line w { x with
    valid := x.valid ||| 2 ^ i, dirty := x.dirty ||| 2 ^ i, poison := if p then base ||| 2 ^ i else base
    data := splice x.data (32 * i + off) d }

/-- Write a run of bytes into the L2, sector by sector, from the first of `secs` on. -/
def writeSecs : List Nat → State → Nat → List Byte → (Nat → Bool) → State
  | [], s, _, _, _ => s
  | sec :: t, s, off, d, p =>
    let n := 32 - off
    writeSecs t (l2WriteSector s sec off (d.take n) (p sec)) 0 (d.drop n) p

/-- Write bytes from `pa` on; `p` gives the mark of the data for each sector. -/
def writeMem (s : State) (pa : Nat) (d : List Byte) (p : Nat → Bool) : State :=
  writeSecs (sectorsOf pa d.length) s (pa % 32) d p

/-- Write unmarked bytes. -/
def writeOk (s : State) (pa : Nat) (d : List Byte) : State := writeMem s pa d (fun _ => false)

/-! ## L1 (R160, R161) -/

def l1Key (line w : Nat) : Nat := l1Set line * 8 + w
def l1At (k : Core) (line w : Nat) : L1Line := SMap.get L1Line.empty k.l1 (l1Key line w)
def setL1 (s : State) (c line w : Nat) (x : L1Line) : State :=
  let k := core s c
  setCore s c { k with l1 := SMap.put L1Line.empty k.l1 (l1Key line w) x }

/-- The way of a core's L1 that holds a line. -/
def l1Find (s : State) (c line : Nat) : Option Nat :=
  (upTo 0 8).find? (fun w => let x := l1At (core s c) line w; x.st != .i && x.line == line)

/-- The line a core holds, empty when it holds none. -/
def l1Line (s : State) (c line : Nat) : L1Line :=
  match l1Find s c line with | some w => l1At (core s c) line w | none => L1Line.empty

/-- Change the line a core holds. -/
def updL1 (s : State) (c line : Nat) (f : L1Line → L1Line) : State :=
  match l1Find s c line with | some w => setL1 s c line w (f (l1At (core s c) line w)) | none => s

/-- A hit by an access: replacement state and evict-first mark (R161). -/
def l1Touch (s : State) (c line policy : Nat) : State :=
  match l1Find s c line with
  | some w =>
    let x := l1At (core s c) line w
    touchWay (setL1 s c line w { x with mark := policy == 1 }) (instL1 c) (l1Set line) 3 w
  | none => s

/-- A dirty line leaves an L1: its write-back is on its way to the home slice (R167). A clean line leaves silently (R169). -/
def l1Evict (s : State) (c : Nat) (x : L1Line) : State :=
  if x.st = .i ∨ x.dirty = 0 then s else
  let a : Ans := { core := c, line := x.line, copy := true, valid := x.valid, dirty := x.dirty, poison := x.poison, data := x.data
                   seq := s.mem.msgSeq }
  let s := pmcAny s c 6 (maskBits 4 x.dirty).length
  { s with mem := { s.mem with putms := s.mem.putms ++ [a], msgSeq := s.mem.msgSeq + 1 } }

/-- The way that holds `line` in core `c`'s L1, after making room for it (R161). -/
def l1Alloc (s : State) (c line : Nat) : State × Nat :=
  match l1Find s c line with
  | some w => (s, w)
  | none =>
    let at' := fun w => l1At (core s c) line w
    let (s, w) := match (upTo 0 8).find? (fun w => (at' w).st == .i) with
      | some w => (s, w)
      | none => match (upTo 0 8).find? (fun w => (at' w).mark) with
        | some w => (s, w)
        | none => victim s (instL1 c) (l1Set line) 3
    let s := l1Evict s c (l1At (core s c) line w)
    (setL1 s c line w { L1Line.empty with line := line, data := (upTo 0 128).map (fun _ => 0) }, w)

/-- The policy of the access for which core `c` fills a line: the oldest load or store that waits for it (R161). -/
def fillPolicy (s : State) (c line : Nat) : Nat :=
  let l := (core s c).groups.flatMap (fun (p : Nat × Group) =>
    p.2.accs.filterMap (fun a => match a.kind, a.dest with
      | .load, .mem pa => if pa / 128 = line ∧ a.policy ≠ 2 then some (a.id, a.policy) else none
      | .uload, .mem pa => if pa / 128 = line ∧ a.policy ≠ 2 then some (a.id, a.policy) else none
      | _, _ => none)
    ++ p.2.sb.filterMap (fun e => match e.dest with
      | .l1 pa => if pa / 128 = line then some (e.id, e.policy) else none
      | _ => none))
  match l with
  | [] => 0
  | a :: t => (t.foldl (fun b x => if x.1 < b.1 then x else b) a).2

/-- Core `c` receives sectors `mask` of a line in state `st`; sectors it holds already stay as they are. A line that it held keeps its mark,
a filled one takes that of the access that waits for it (R161). -/
def l1Supply (s : State) (c line : Nat) (st : L1St) (mask poison : Nat) (d : List Byte) : State :=
  let held := (l1Find s c line).isSome
  let (s, w) := l1Alloc s c line
  let x := l1At (core s c) line w
  let new := maskBits 4 (mask - (mask &&& x.valid))
  let x' : L1Line := { x with
    st := if x.st = .m then .m else st
    mark := if held then x.mark else fillPolicy s c line == 1
    valid := x.valid ||| mask
    poison := x.poison ||| maskOf (new.filter (fun i => bit poison i))
    data := new.foldl (fun l i => splice l (32 * i) ((d.drop (32 * i)).take 32)) x.data }
  touchWay (setL1 s c line w x') (instL1 c) (l1Set line) 3 w

/-- Core `c` receives the sectors of `mask` from the line's home slice. -/
def l1Fill (s : State) (c line : Nat) (st : L1St) (mask : Nat) : State :=
  if mask = 0 then s else
  let s := l2Read s line mask
  l1Supply s c line st mask (maskOf ((upTo 0 4).filter (fun i => sectorPoison s (4 * line + i)))) (peek s (128 * line) 128)

end Sys2Proof.Machine
end

