-- ==== Sys2Proof/Machine/Clock.lean ====
section
/-! DEFINITION. The core clock and its ceilings, the power limit (R357, R358, R362, R363), and ALERT# (R421). -/

namespace Sys2Proof.Machine

/-- What a value of PWRC_CAP acts as: a multiple of 25 from 800 to 2,100. -/
def capOf (v : Nat) : Nat := min 2100 (max 800 (v % 4096 / 25 * 25))
def capMhz (s : State) : Nat := capOf (reg s 4 0x8C)

/-- The lowest ceiling in force, and the clock in force (R358). -/
def ceilMhz (s : State) : Nat :=
  min (min s.pow.jctCeil s.pow.limCeil) (min (capMhz s)
    (min (if s.pow.curCeil || s.pow.inlCeil then 1200 else 2100) (if s.pow.uvCeil then 800 else 2100)))
def clockMhz (s : State) : Nat := max 800 (min 2100 (ceilMhz s))

/-- PWRC_CAUSE (R363). -/
def causeBits (s : State) : Nat :=
  let p := s.pow
  (decide (p.limCeil < 2100)).toNat + 2 * (decide (p.jctCeil < 2100)).toNat + 4 * p.curCeil.toNat + 8 * p.inlCeil.toNat
    + 16 * p.uvCeil.toNat + 32 * (decide (capMhz s < 2100)).toNat + 64 * p.floor.toNat

/-- The power limit in force in W (R362). -/
def limitW (s : State) : Nat := min s.sku.maxPower s.pow.bmcLimit

/-- The conditions that drive ALERT#: the bits of PWRC_CAUSE, FATAL, and a hot inlet in Dormant. -/
def alertCond (s : State) : Nat :=
  causeBits s + 128 * (decide (s.pow.svc = 5)).toNat + 256 * (s.pow.power == .dormant && s.pow.inletHot).toNat

/-- ALERT# after a condition changed: after an answer that released it, only a condition that was not set then drives it low. -/
def alertUpdate (s : State) : State :=
  let c := alertCond s
  if s.pow.alertAck = 0 then { s with pow := { s.pow with alertN := decide (c ≠ 0) } }
  else if c &&& s.pow.alertAck = c then { s with pow := { s.pow with alertN := false } }
  else { s with pow := { s.pow with alertN := true, alertAck := 0 } }

/-- A change of ceilings: causes that appear set their sticky copies in BLK_ERR (R363), and ALERT# follows. -/
def repower (s : State) (f : State → State) : State :=
  let was := causeBits s
  let s := f s
  let new := causeBits s - (causeBits s &&& was)
  alertUpdate (if new = 0 then s else raiseErr s 4 new)

end Sys2Proof.Machine
end

