-- ==== Sys2Proof/Machine/Fatal.lean ====
section
/-! DEFINITION. Chip-fatal errors (R27, R390) and raising the Curtain (R393). -/

namespace Sys2Proof.Machine

/-- The debug block is unlocked: SECU_BOOTSTAT.SCOPE bit 1 (R392). -/
def dbgOpen (s : State) : Bool := scopeBit s 1

/-- Raise the Curtain; a raise while it is up is ignored (R393). -/
def raiseCurtain (s : State) (cause : Nat) : State :=
  if s.dbg.raised then s else
  let s := note s 14 0 0 0x17 none none 0 cause
  { s with dbg := { s.dbg with raised := true, cause := cause, quiet := false, curtFt := s.time.ft } }

/-- The fatal record as the Ringmaster's log keeps it: DBUG_FATAL, DBUG_FATAL_FT, DBUG_FATAL_ADDR. -/
def fatalWord (d : Dbg) : Nat :=
  if d.fatal then d.fcode % 256 + d.fcount % 256 * 2 ^ 8 + d.finst % 65536 * 2 ^ 16 + d.ftype % 65536 * 2 ^ 32 + 2 ^ 63 else 0
def fatalBytes (d : Dbg) : List Byte := toLE 8 (fatalWord d) ++ toLE 8 d.fft ++ toLE 8 d.faddr

/-- Cancel notices for every live collective to every other member of its plan; chip 0xFFFF stands for them all (R291). -/
def cancelAll (s : State) : State := s.coll.live.foldl (fun s l => emit s (.notice 0xFFFF 1 l.cid)) s

/-- Every live context is lost with the chip (R382); no record is written. -/
def loseAll (s : State) : State :=
  let s := s.box.ctxs.foldl (fun s (x : Nat × Ctx) => if x.2.st = 1 then countBank s x.2.part 0xE0 1 else s) s
  let lost := fun (x : Ctx) => if x.st = 1 then { x with st := 2, lastLoss := 0xB } else x
  { s with box := { s.box with ctxs := s.box.ctxs.map (fun (x : Nat × Ctx) => (x.1, lost x.2)) } }

/-- A chip-fatal error (R390): the first is latched, later ones are counted until the warm reset. -/
def chipFatal (s : State) (code type inst addr : Nat) : State :=
  if s.dbg.fatal then { s with dbg := { s.dbg with fcount := min 255 (s.dbg.fcount + 1) } } else
  let s := { s with dbg := { s.dbg with fatal := true, fcode := code, fcount := 0, finst := inst, ftype := type
                                        fft := s.time.ft, faddr := addr }
                    pow := { s.pow with svc := 5 } }
  let s := alertUpdate (loseAll s)
  let s := if dbgOpen s && bit (reg s 0xA 0x80) 2 then raiseCurtain s 3 else s
  if s.rm.up then logAdd (cancelAll { s with rm := { s.rm with lastFatal := fatalBytes s.dbg } }) (fatalBytes s.dbg) else s

end Sys2Proof.Machine
end

