-- ==== Sys2Proof/Machine/CollPlan.lean ====
section
/-! DEFINITION. Collective plan images and plan aborts (R283 to R285, R289). -/

namespace Sys2Proof.Machine

/-! ## Images (R283) -/

def plId (b : List Byte) : Nat := leAt b 0 4
def plF (b : List Byte) : Nat := leAt b 4 2
def plTrees (b : List Byte) : Nat := leAt b 6 2 % 128
def plSlots (b : List Byte) : Nat := leAt b 8 2
def plMembs (b : List Byte) : Nat := leAt b 10 2
def plMy (b : List Byte) : Nat := leAt b 12 2
/-- Member list, tree entries, slot entries. -/
def plMember (b : List Byte) (m : Nat) : Nat := leAt b (64 + 2 * m) 2
def plMembers (b : List Byte) : List Nat := (upTo 0 (plMembs b)).map (plMember b)
def plTreeOff (b : List Byte) : Nat := 64 + roundUp (2 * plMembs b) 8
def plSlotOff (b : List Byte) : Nat := plTreeOff b + 8 * plTrees b
def plTree (b : List Byte) (t : Nat) : Nat := leAt b (plTreeOff b + 8 * t) 8
def plSlot (b : List Byte) (k : Nat) : Nat := leAt b (plSlotOff b + 8 * k) 8
def plLen (b : List Byte) : Nat := plSlotOff b + 8 * plSlots b

/-- Fields of a tree entry. -/
def trParent (e : Nat) : Nat := bits e 4 0
def trRoot (e : Nat) : Bool := bit e 5
def trChild (e : Nat) : Nat := bits e 63 32
/-- Ports of a tree entry: its edges. -/
def trKids (e : Nat) : List Nat := maskBits 32 (trChild e)
def trEdge (e n : Nat) : Bool := (!trRoot e && trParent e == n) || bit (trChild e) n

/-- Fields of a slot entry. -/
def slPort (e : Nat) : Nat := bits e 4 0
def slDown (e : Nat) : Bool := bit e 5
def slTree (e : Nat) : Nat := bits e 11 6
def slStart (e : Nat) : Nat := bits e 27 12
def slLen (e : Nat) : Nat := bits e 43 28
def slStage (e : Nat) : Nat := bits e 59 44

/-- The image of a bank. -/
def bankOf (s : State) (k : Nat) : List Byte := SMap.get [] s.coll.banks k
/-- The image of the plan in force. -/
def planNow (s : State) : Option (List Byte) := s.coll.force.map (fun f => bankOf s f.1)

/-- A port carries a slot or a tree edge of an image. -/
def plUses (b : List Byte) (n : Nat) : Bool :=
  (upTo 0 (plTrees b)).any (fun t => trEdge (plTree b t) n) || (upTo 0 (plSlots b)).any (fun k => slPort (plSlot b k) == n)

/-! ## Aborts (R289, R290) -/

/-- A live collective begins again from piece 0, untimed. -/
def Live.restart (l : Live) : Live :=
  { l with timed := false, attempt := 1, upGot := [], upSum := [], upPoison := [], upSent := [], downData := [], downGot := []
           downSent := [], unacked := [], written := [] }

/-- The plan aborts; the first reason stays, and every timed collective begins again. A collective that runs on under an earlier plan also
begins again when no plan is active (R292). -/
def planAbort (s : State) (why : Nat) : State :=
  if s.coll.pstate ≠ 2 ∧ !s.coll.live.any (fun l => l.timed) then s else
  let s := note s 10 0 0 0x14 (some s.coll.part) none 0 why
  let s := { s with coll := { s.coll with
    pstate := if s.coll.pstate = 2 then 3 else s.coll.pstate, why := if s.coll.pstate = 2 then why else s.coll.why
    live := s.coll.live.map (fun l => if l.timed then l.restart else l) } }
  emit s (.notice 0xFFFF 2 why)

/-- A port left service: the plan aborts when it uses the port, or when the plan of a live timed collective does (R289, R292). -/
def planLink (s : State) (n : Nat) : State :=
  if (match planNow s with | some b => plUses b n | none => false)
      || s.coll.live.any (fun l => l.timed && l.group.isNone && plUses (bankOf s l.bank) n) then planAbort s 2 else s

/-- A slot of the plan in force is open on port `n` (R286). -/
def slotNow (s : State) (n : Nat) : Bool :=
  match s.coll.force with
  | some (k, ta) =>
    let b := bankOf s k
    let off := (s.time.ft - ta) % max 1 (plF b)
    s.coll.pstate == 2 && decide (ta ≤ s.time.ft) && (upTo 0 (plSlots b)).any (fun i => let e := plSlot b i
      slPort e == n && decide (slStart e ≤ off) && decide (off < slStart e + slLen e))
  | none => false

end Sys2Proof.Machine
end

