-- ==== Sys2Proof/Machine/Link.lean ====
section
/-! DEFINITION. Flits and the link layer of the ports, routing, and sending packets (R234 to R242, R251 to R253). -/

namespace Sys2Proof.Machine

/-! ## CRC-32C (R236). Reflected, all ones at the start and inverted at the end (PRESUMED, assumption 15). -/

def crcBit : Nat → Nat → Nat
  | 0, c => c
  | n + 1, c => crcBit n (if c % 2 = 1 then (c / 2) ^^^ 0x82F63B78 else c / 2)
def crc32c (l : List Byte) : Nat := (l.foldl (fun c b => crcBit 8 (c ^^^ b.toNat)) 0xFFFFFFFF) ^^^ 0xFFFFFFFF

/-! ## Packets and flits (R236, R241) -/

/-- Channel of a packet kind (R240). -/
def vcOf (kind : Nat) : Nat := if kind ≤ 4 then 0 else if kind = 5 then 1 else if kind ≤ 7 then 2 else 3
/-- WRITE, ATOMIC and SIGF are ordered (R254). -/
def ordered (kind : Nat) : Bool := kind == 1 || kind == 3 || kind == 4

/-- COLL and MCAST packets use the whole operation word (R292). -/
def fullOp (kind : Nat) : Bool := kind == 6 || kind == 7
/-- The packet carries damaged data. -/
def damaged (p : Pkt) : Bool := p.marks != 0
/-- The operation word on the wire; its top bit tells that marks follow the data (DESIGN CHOICE, assumption 16: the manual gives the word
of the other kinds and the marks no place). -/
def opWord (p : Pkt) : Nat := if fullOp p.kind then p.op % 2 ^ 32 else p.op % 2 ^ 31 + (if damaged p then 2 ^ 31 else 0)
/-- The four reserved bytes; the first carries the mark of a COLL or MCAST packet (assumption 16). -/
def spareWord (p : Pkt) : Nat := if fullOp p.kind && damaged p then 1 else 0

/-- Bytes of the marks of a packet's data: 129 sectors at most (assumption 16). -/
def markLen : Nat := 17
/-- Bytes after the header of all flits of a packet. -/
def pktBytes (p : Pkt) : List Byte :=
  toLE 8 p.addr ++ toLE 4 (opWord p) ++ toLE 4 (spareWord p) ++ p.data ++ (if damaged p then toLE markLen p.marks else [])

/-- Cut a list into pieces of `n`, at most `k` of them. -/
def chunks (n : Nat) : Nat → List Byte → List (List Byte)
  | 0, _ => []
  | k + 1, l => if l.isEmpty then [] else l.take n :: chunks n k (l.drop n)

/-- Header bits of one flit of a packet, without the fields the sender fills in when it sends. -/
def flitHdr (p : Pkt) (hclass : Nat) (first last : Bool) (len : Nat) : Nat :=
  vcOf p.kind * 2 ^ 22 + hclass % 8 * 2 ^ 24 + p.kind % 16 * 2 ^ 36 + first.toNat * 2 ^ 40 + last.toNat * 2 ^ 41 + len * 2 ^ 42
    + p.dst % 65536 * 2 ^ 50 + p.src % 65536 * 2 ^ 66 + p.spart % 8 * 2 ^ 82 + (ordered p.kind).toNat * 2 ^ 85
    + p.pseq % 65536 * 2 ^ 86 + p.txid % 4096 * 2 ^ 102 + p.status % 16 * 2 ^ 114

/-- Bytes 0 to 251 of a flit, from header and payload. -/
def flitBody (hdr : Nat) (pay : List Byte) : List Byte := toLE 16 hdr ++ (pay ++ (upTo 0 236).map (fun _ => 0)).take 236
def sealFlit (body : List Byte) : List Byte := body ++ toLE 4 (crc32c body)

/-- The flit bodies of a packet. -/
def flitsOf (p : Pkt) (hclass : Nat) : List (List Byte) :=
  let l := chunks 236 18 (pktBytes p)
  (upTo 0 l.length).map (fun i => let c := nthD [] l i
    flitBody (flitHdr p hclass (i == 0) (i + 1 == l.length) c.length) c)

/-- A NULL flit of port `p`: the last numbered flit sent, the last one received in order, whether it asks for the later ones again, and
credits returned (R236). -/
def nullFlit (p : Port) (nak : Bool) (vc freed : Nat) : List Byte :=
  sealFlit (flitBody ((p.txSeq + 1023) % 1024 + (p.rxExp + 1023) % 1024 * 2 ^ 10 + 2 ^ 20 + nak.toNat * 2 ^ 21
    + vc % 4 * 2 ^ 27 + min 64 freed * 2 ^ 29) [])

/-- Header of a flit. -/
def hdrOf (f : List Byte) : Nat := leAt f 0 16
/-- A header value the manual reserves (R236, R241). -/
def hdrBad (h : Nat) : Bool :=
  decide (4 < bits h 26 24) || decide (64 < bits h 35 29) || decide (8 < bits h 39 36) || decide (236 < bits h 49 42)
    || bits h 127 118 != 0

/-- The packet that a complete run of flits carries. -/
def pktOf (l : List (List Byte)) : Pkt :=
  let h := hdrOf (nthD [] l 0)
  let b := l.flatMap (fun f => (f.drop 16).take (bits (hdrOf f) 49 42))
  let bad := if fullOp (bits h 39 36) then bit (leAt b 12 4) 0 else bit (leAt b 8 4) 31
  let n := b.length - (if bad then markLen else 0)
  { kind := bits h 39 36, dst := bits h 65 50, src := bits h 81 66, spart := bits h 84 82, pseq := bits h 101 86
    txid := bits h 113 102, status := bits h 117 114, addr := leAt b 0 8
    op := if fullOp (bits h 39 36) then leAt b 8 4 else leAt b 8 4 % 2 ^ 31, data := (b.take n).drop 16
    marks := if bad then ofLE (b.drop n) else 0 }

/-! ## Sending on a port -/

/-- Credits in use of a channel: pools 0 to 4 are the hop classes' reserves of 2, pool 5 the 54 shared (R238). -/
def creditsUsed (p : Port) (vc pool : Nat) : Nat := SMap.get 0 p.credits (vc * 6 + pool)

/-- Take a credit: shared when one is free, otherwise the hop class's own. -/
def takeCredit (p : Port) (vc hclass : Nat) : Option Port :=
  let pool := if creditsUsed p vc 5 < 54 then 5 else hclass
  if creditsUsed p vc pool < (if pool = 5 then 54 else 2)
  then some { p with credits := SMap.put 0 p.credits (vc * 6 + pool) (creditsUsed p vc pool + 1) } else none

/-- Give back `n` credits of a channel, reserves first (DEDUCED, assumption 17). -/
def giveCredits (p : Port) (vc n : Nat) : Port :=
  ((upTo 0 6).foldl (fun (x : Port × Nat) pool =>
    let k := min x.2 (creditsUsed x.1 vc pool)
    ({ x.1 with credits := SMap.put 0 x.1.credits (vc * 6 + pool) (creditsUsed x.1 vc pool - k) }, x.2 - k)) (p, n)).1

/-- The channels that a port's state lets through: all in service or draining, VC3 alone in quarantine (R261, R263). -/
def carries (lstate vc : Nat) : Bool := lstate == 2 || lstate == 6 || (lstate == 3 && vc == 3)

/-- A link in service; a fast retrain loses and repeats nothing and does not end its service (R239; DEDUCED, assumption 21). -/
def Port.inService (p : Port) : Bool := p.lstate == 2 || p.lstate == 4

/-- The first flit that waits on a channel. -/
def headOf (p : Port) (vc : Nat) : Option (Nat × List Byte) := p.queue.find? (fun f => f.1 == vc)

/-- The first flit of a channel may be sent: the port carries the channel, there is room in the retry buffer, and a credit. -/
def mayPump (p : Port) (vc : Nat) : Bool :=
  match headOf p vc with
  | some f => carries p.lstate vc && decide (p.retry.length < 512) && (takeCredit p vc (bits (hdrOf f.2) 26 24)).isSome
  | none => false

/-- The channels in the order the port serves them: round robin, and VC2 ahead of the others while a slot is open (R286). -/
def vcOrder (s : State) (n : Nat) : List Nat :=
  let l := (upTo 1 4).map (fun k => ((port s n).lastVc + k) % 4)
  if slotNow s n then 2 :: l.filter (fun v => v != 2) else l

/-- Send the first flit of a channel: it is numbered and kept until it is acknowledged. -/
def sendHead (s : State) (n vc : Nat) : State :=
  let p := port s n
  match headOf p vc with
  | none => s
  | some f => match takeCredit p vc (bits (hdrOf f.2) 26 24) with
    | none => s
    | some p =>
      let h := hdrOf f.2 + p.txSeq + (p.rxExp + 1023) % 1024 * 2 ^ 10 + 2 ^ 20
      let g := sealFlit (toLE 16 h ++ f.2.drop 16)
      let s := setPort s n { p with txSeq := (p.txSeq + 1) % 1024, retry := p.retry ++ [(p.txSeq, g)], lastVc := vc
                                    queue := dropFirst (fun x => x.1 == vc) p.queue }
      countPort (emit s (.flit n g)) n 0xC0 1
def pumpN : Nat → Nat → State → State
  | 0, _, s => s
  | k + 1, n, s => match (vcOrder s n).find? (mayPump (port s n)) with
    | some vc => pumpN k n (sendHead s n vc)
    | none => s

/-- Send from the queue of port `n` as far as credits and the retry buffer allow (R237, R238). -/
def pump (s : State) (n : Nat) : State := pumpN (port s n).queue.length n s

/-- Queue a packet on a port. -/
def sendOn (s : State) (n : Nat) (p : Pkt) (hclass : Nat) : State :=
  let x := port s n
  pump (setPort s n { x with queue := x.queue ++ (flitsOf p hclass).map (fun b => (vcOf p.kind, b)) }) n

/-! ## Routing (R251 to R253) -/

/-- Ports in service that accept new packets. -/
def livePorts (s : State) : List Nat :=
  (upTo 0 32).filter (fun n => s.sku.port n && (port s n).lstate == 2 && (port s n).prbs == 0)

/-- The peer chip of a port in service: the announced one when it was accepted, otherwise the plan's (R262). -/
def peerOf (p : Port) : Nat := if p.rig = 5 then p.achip else p.pchip

/-- Of `l`, the port with the shortest queue, ties to the lowest peer number (R251). -/
def emptiest (s : State) : List Nat → Option Nat
  | [] => none
  | a :: t => match emptiest s t with
    | none => some a
    | some b =>
      let ka := (port s a).queue.length
      let kb := (port s b).queue.length
      if ka < kb || (ka == kb && peerOf (port s a) ≤ peerOf (port s b)) then some a else some b

/-! The route table (R251): the plan's links, but those of this chip that are not in service and those that the plan exchange reports out
of service. -/

/-- The link between two other chips counts as in service. -/
def pairUp (s : State) (a b : Nat) : Bool := !(s.fab.down.contains (a, b) || s.fab.down.contains (b, a))

/-- The chip's own live port to a chip. -/
def portTo (s : State) (chip : Nat) : Option Nat := (livePorts s).find? (fun n => peerOf (port s n) == chip)

/-- Global links in service from one troupe to another, each as the chip that holds it and its peer. -/
def globalsOf (s : State) (x y : Nat) : List (Nat × Nat) :=
  let me := chipNo s
  let own := if x = me / 16 then (livePorts s).filterMap (fun n =>
    let c := peerOf (port s n)
    if c / 16 = y then some (me, c) else none) else []
  let ways := s.fab.plan.globals.flatMap (fun e => [e, (e.2, e.1)])
  own ++ ways.filter (fun e => e.1 / 16 == x && e.2 / 16 == y && e.1 != me && pairUp s e.1 e.2)

/-- The first port and the links of the way to another member of this troupe: its local link, or two through the member in service that
has the emptiest first queue. -/
def localHop (s : State) (d : Nat) : Option (Nat × Nat) :=
  match portTo s d with
  | some n => some (n, 1)
  | none => (emptiest s ((livePorts s).filter (fun n => peerOf (port s n) / 16 == chipNo s / 16 && pairUp s (peerOf (port s n)) d))).map
      (fun n => (n, 2))

/-- Links between two members of another troupe: none when no way is left. -/
def farHops (s : State) (a b : Nat) : Option Nat :=
  if a = b then some 0 else if pairUp s a b then some 1
  else if (upTo 0 s.fab.plan.members).any (fun m => let c := a / 16 * 16 + m
      c != a && c != b && pairUp s a c && pairUp s c b) then some 2 else none

/-- First port and links to the far end of a global link that a member of this troupe holds. -/
def toGlobal (s : State) (e : Nat × Nat) : Option (Nat × Nat) :=
  if e.1 = chipNo s then (portTo s e.2).map (fun n => (n, 1)) else (localHop s e.1).map (fun r => (r.1, r.2 + 1))

/-- The minimal routes to a chip of another troupe: first port and links. -/
def minimals (s : State) (dst : Nat) : List (Nat × Nat) :=
  (globalsOf s (chipNo s / 16) (dst / 16)).filterMap (fun e =>
    match toGlobal s e, farHops s e.2 dst with
    | some r, some k => some (r.1, r.2 + k)
    | _, _ => none)

/-- The routes through troupe `t` that are not longer than five links. -/
def through (s : State) (t dst : Nat) : List (Nat × Nat) :=
  (globalsOf s (chipNo s / 16) t).flatMap (fun e => (globalsOf s t (dst / 16)).filterMap (fun f =>
    match toGlobal s e, farHops s e.2 f.1, farHops s f.2 dst with
    | some r, some j, some k => if r.2 + j + 1 + k ≤ 5 then some (r.1, r.2 + j + 1 + k) else none
    | _, _, _ => none))

/-- The troupes a non-minimal route may take. -/
def troupesFor (s : State) (dst : Nat) : List Nat :=
  (upTo 0 273).filter (fun t => t != chipNo s / 16 && t != dst / 16 && !(globalsOf s (chipNo s / 16) t).isEmpty && !(through s t dst).isEmpty)

/-- Flits that wait for a channel in a port's queue. -/
def queued (s : State) (n vc : Nat) : Nat := ((port s n).queue.filter (fun f => f.1 == vc)).length

/-- One of the routes; which of several is open (R252; DESIGN CHOICE, assumption 18). -/
def oneOf (s : State) (k : Nat) (l : List (Nat × Nat)) : Option (Nat × Nat) :=
  if l.isEmpty then none else some (nthD (0, 0) l (freshNat s k % l.length))

/-- The first link of a minimal route to chip `dst` (R240, R251, R252). -/
def minRoute (s : State) (dst : Nat) : Option (Nat × Nat) :=
  if dst / 16 = chipNo s / 16 then localHop s dst else oneOf s 1 (minimals s dst)

/-- The first link of a packet's route from this chip to chip `dst`: minimal, or through another troupe where that queue is shorter;
none when no route is in service. -/
def route (s : State) (vc dst : Nat) : Option Nat :=
  match minRoute s dst with
  | some r =>
    if dst / 16 = chipNo s / 16 then some r.1 else
    let l := troupesFor s dst
    match oneOf s 3 (if l.isEmpty then [] else through s (nthD 0 l (freshNat s 2 % l.length)) dst) with
    | some q => some (if queued s q.1 vc * q.2 + 64 < queued s r.1 vc * r.2 then q.1 else r.1)
    | none => some r.1
  | none =>
    let l := if dst / 16 = chipNo s / 16 then [] else troupesFor s dst
    (oneOf s 3 (if l.isEmpty then [] else through s (nthD 0 l (freshNat s 2 % l.length)) dst)).map Prod.fst

/-- The next link of a packet of chip `src` that passes through. It goes on minimally; but the header does not say whether the source chose
another troupe, so in the source's own troupe it may go there over a global link of this chip (assumption 18). -/
def onward (s : State) (src dst : Nat) : Option Nat :=
  let me := chipNo s
  let side := (livePorts s).filter (fun n => let c := peerOf (port s n)
    c / 16 != me / 16 && c / 16 != dst / 16 && !(globalsOf s (c / 16) (dst / 16)).isEmpty)
  let away := src / 16 = me / 16 ∧ dst / 16 ≠ me / 16
  if away ∧ !side.isEmpty ∧ ((minRoute s dst).isNone ∨ freshBit s 4) then some (nthD 0 side (freshNat s 5 % side.length))
  else (minRoute s dst).map Prod.fst

/-- Send a packet from this chip for work of a partition: to itself through its own export table, otherwise over a port;
false where no route is in service. -/
def sendPkt (s : State) (part : Option Nat) (p : Pkt) : State × Bool :=
  let s := match part with | some n => countBank s n 0xB0 (16 + p.data.length) | none => s
  if p.dst = chipNo s then (emit s (.packet none p), true)
  else match (if vcOf p.kind = 3 then (minRoute s p.dst).map Prod.fst else route s (vcOf p.kind) p.dst) with
    | none => (s, false)
    | some n => (sendOn s n p 0, true)

/-! ## Requests (R245, R246, R254, R256) -/

/-- Fitted Eaves die that serves chip number `x` (R254). -/
def dieFor (s : State) (x : Nat) : Nat := nthD 0 s.sku.dies (x % s.sku.dies.length)

/-- What uses a system address. -/
inductive SysUse | mem | io | sigf | other
  deriving DecidableEq, Repr

/-- The fault of an access to a system address when it issues: 1 ADDRESS, 2 PERMISSION, 0 none (R245, R246). -/
def sysFault (s : State) (u : SysUse) (a : W64) : Nat :=
  let v := a.toNat
  let chip := v / 2 ^ 48
  let region := bits v 47 40
  let off := v % 2 ^ 40
  if chipNo s = 0xFFFF ∨ 4368 ≤ chip ∨ s.fab.plan.members ≤ chip % 16 ∨ 3 ≤ region then 1
  else if region = 2 ∧ (off % 8 ≠ 0 ∨ 262144 ≤ off / 8) then 1
  else match region, u with
    | 0, .mem => 0 | 1, .io => 0 | 2, .sigf => 0 | _, _ => 2

/-- Requests that have left, and the flits of a packet. -/
def RReq.left (r : RReq) : Bool := r.st == .sent || r.st == .refused
def pktFlits (p : Pkt) : Nat := ceilDiv (16 + p.data.length + (if damaged p then markLen else 0)) 236
/-- READ and ATOMIC carry a transaction number (R256). -/
def numbered (kind : Nat) : Bool := kind == 2 || kind == 3

/-- Unanswered ordered packets to a chip, and transaction numbers in use on its die. -/
def orderedOut (s : State) (dst : Nat) : Nat :=
  (s.fab.reqs.filter (fun r => r.left && ordered r.pkt.kind && r.pkt.dst == dst)).length
def txUsed (s : State) (die : Nat) : List Nat :=
  (s.fab.reqs.filter (fun r => r.left && numbered r.pkt.kind && dieFor s r.pkt.dst == die)).map (fun r => r.pkt.txid)

/-- Flits of the unanswered ordered packets in a die's replay store. -/
def replayFlits (s : State) (die : Nat) : Nat :=
  ((s.fab.reqs.filter (fun r => r.left && ordered r.pkt.kind && dieFor s r.pkt.dst == die)).map (fun r => pktFlits r.pkt)).foldl (· + ·) 0

/-- Flits of the packets that a die's reorder store holds. -/
def storedFlits (s : State) (die : Nat) : Nat :=
  ((s.fab.reorder.filter (fun q => dieFor s q.src == die)).map pktFlits).foldl (· + ·) 0

/-- The source die has room for a request: 1,024 unanswered ordered packets to one chip and its replay store for an ordered one, a
transaction number for a read or atomic (R254, R256). -/
def roomFor (s : State) (p : Pkt) : Bool :=
  (!ordered p.kind || (decide (orderedOut s p.dst < 1024) && decide (replayFlits s (dieFor s p.dst) + pktFlits p ≤ 16384)))
    && (!numbered p.kind || decide ((txUsed s (dieFor s p.dst)).length < 4096))

/-- A request that waits at its counter may leave: there is room, it reaches its die, and no earlier ordered one to its chip waits. -/
def mayLeave (s : State) (r : RReq) : Bool :=
  r.st == .waits && roomFor s r.pkt && !d2dBusy s (dieFor s r.pkt.dst)
    && !(ordered r.pkt.kind && s.fab.reqs.any (fun q => decide (q.id < r.id) && q.st == .waits && ordered q.pkt.kind && q.pkt.dst == r.pkt.dst))

/-- The lowest number below `n` that is not in the list. -/
def lowestFree (l : List Nat) (n : Nat) : Nat := ((upTo 0 n).find? (fun i => !l.contains i)).getD 0

def setReq (s : State) (r : RReq) : State :=
  { s with fab := { s.fab with reqs := s.fab.reqs.map (fun x => if x.id = r.id then r else x) } }

/-- The packet of a request with its numbers. -/
def stamped (s : State) (p : Pkt) : Pkt :=
  { p with pseq := if ordered p.kind then SMap.get 0 s.fab.pseq p.dst else p.pseq
           txid := if numbered p.kind then lowestFree (txUsed s (dieFor s p.dst)) 4096 else p.txid }

/-- A request's turn: it is numbered and leaves; where no route is in service it is marked (R253, R254, R256). -/
def sendReq (s : State) (r : RReq) : State :=
  let p := stamped s r.pkt
  let x := sendPkt s (some p.spart) p
  if x.2 then
    let f := x.1.fab
    setReq { x.1 with fab := { f with pseq := if ordered p.kind then SMap.put 0 f.pseq p.dst ((p.pseq + 1) % 65536) else f.pseq } }
      { r with pkt := p, sent := s.time.nsRun, st := .sent }
  else setReq s { r with st := .noRoute }

/-- Send every waiting request whose turn has come, in order. -/
def pumpReqs (s : State) : State :=
  (s.fab.reqs.filter (fun r => r.st == .waits)).foldl (fun s r => if mayLeave s r then sendReq s r else s) s

/-- A request reaches its counter: it is kept until it is answered, and leaves when its turn comes. Answers the state, the request's id and
false where no route is in service at once (R253). -/
def request (s : State) (p : Pkt) (c : Nat) (o : Owner) : State × Nat × Bool :=
  let id := s.fab.nextId
  let r : RReq := { id := id, pkt := { p with src := chipNo s, spart := (ctx s c).part }, ctx := c, owner := o, sent := s.time.nsRun, st := .waits }
  let t := { s with fab := { s.fab with nextId := id + 1, reqs := s.fab.reqs ++ [r] } }
  if !mayLeave t r then (t, id, true)
  else if p.dst = chipNo s ∨ (route s (vcOf p.kind) p.dst).isSome then (sendReq t r, id, true)
  else (s, id, false)

/-- A packet with every field but those that `request` fills in. -/
def mkPkt (kind dst addr op : Nat) (data : List Byte) (marks : Nat) : Pkt :=
  { kind := kind, dst := dst, src := 0, spart := 0, pseq := 0, txid := 0, status := 0, addr := addr, op := op, data := data
    marks := marks }

/-- The answer to a request packet. It bears the number of the chip that the request named, also where that chip has none or another
chip on the way answers NO_ROUTE (DESIGN CHOICE, assumption 120). -/
def respPkt (_ : State) (q : Pkt) (status : Nat) (data : List Byte) : Pkt :=
  { kind := 5, dst := q.src, src := q.dst, spart := q.spart, pseq := q.pseq, txid := q.txid, status := status
    addr := q.addr, op := q.kind, data := data, marks := 0 }

/-- Send the answer to a request packet; an answer that finds no route is lost, and the source times out (R258). -/
def answer (s : State) (q : Pkt) (part : Option Nat) (status : Nat) (data : List Byte) : State :=
  (sendPkt s part (respPkt s q status data)).1

/-- Key of a source's ordered packet. -/
def pairKey (src pseq : Nat) : Nat := src * 65536 + pseq % 65536

/-- Answer an ordered packet and keep the answer for its duplicates (R255 rule 3). -/
def answerKept (s : State) (q : Pkt) (part : Option Nat) (status : Nat) (data : List Byte) : State :=
  let r := respPkt s q status data
  answer { s with fab := { s.fab with hist := SMap.put none s.fab.hist (pairKey q.src q.pseq) (some r) } } q part status data

end Sys2Proof.Machine
end

