-- ==== Sys2Proof/Machine/Operands.lean ====
section
/-! DEFINITION. Operand forms of thread instructions (R64 to R70): what each field names, what a legal encoding is (R67),
and how operands are read. -/

namespace Sys2Proof.Machine

/-- What an operand field names: nothing, `n` vector registers, a uniform register, a predicate. -/
inductive Role | un | v (n : Nat) | u | p
  deriving DecidableEq, Repr

/-- The long operand of an instruction (R66). -/
inductive Lop | none | a | b | off | target
  deriving DecidableEq, Repr

/-- Vector, uniform (R73) and group-uniform (R74) instructions. -/
inductive Cls | vec | uni | gu
  deriving DecidableEq, Repr

/-- An instruction's operand shape: roles of DST, SRCA, SRCB, SRCC; long operand; OPMOD bits it names. -/
structure Shape where
  d    : Role
  a    : Role
  b    : Role
  c    : Role
  lop  : Lop
  mods : Nat
  cls  : Cls
  deriving DecidableEq, Repr

/-- The operand that a short immediate stands for: source c where the instruction has one, otherwise the operand that a
long immediate would replace (R64, R66, R70; DEDUCED, assumption 10). IC = 1 on an instruction with neither (SHFL, FRCP, BAR.G,
ALLOC) is taken and has no effect (DESIGN CHOICE, assumption 117). -/
def Shape.imm (sh : Shape) : Lop :=
  if sh.c ≠ .un then .none else match sh.lop with | .a => .a | .b => .b | _ => .none

/-- Number of registers of a role. -/
def Role.size : Role → Nat | .v n => n | .u => 1 | .p => 1 | .un => 0

/-- A vector operand field lies within the allocation; no operand names v255 (R67, R68). -/
def vecOk (nreg n fld : Nat) : Bool := fld == 255 || decide (fld + n ≤ min nreg 255)

/-- A uniform source or destination field is defined (R68). -/
def uSrcOk (fld : Nat) : Bool := fld == 255 || decide (fld < 64)

/-- A source field with its uniform flag (R68). In a vector instruction a field that the instruction does not use may hold any value,
and so may UA or UB beside a field that is unused or names a predicate: the manual asks 0xFF of unused fields in R74 only
(DESIGN CHOICE, assumption 117). -/
def srcOk (nreg : Nat) (r : Role) (uflag : Bool) (fld : Nat) : Bool :=
  match r with
  | .un => true
  | .p => decide (fld < 8)
  | .u => uSrcOk fld
  | .v n => if uflag then uSrcOk fld else vecOk nreg n fld

/-- A destination field (R68). -/
def dstOk (nreg : Nat) (r : Role) (fld : Nat) : Bool :=
  match r with
  | .un => true
  | .p => decide (fld < 8)
  | .u => decide (fld < 64)
  | .v n => vecOk nreg n fld

/-- The encoding rules of the long form (R66). For a branch target, bits [39:16], the three source fields, are 0. -/
def longOk (sh : Shape) (f : Fields) : Bool :=
  !f.ub && (match sh.lop with
    | .none => false
    | .a => f.srca == 0xFF && !f.ua
    | .b => f.srcb == 0xFF
    | .off => !f.ic && f.srcc == 0xFF
    | .target => f.srca == 0 && f.srcb == 0 && f.srcc == 0)

/-- The rules of the uniform class (R73): UA and UB are 1 exactly where the field names a uniform register. A field that an
immediate replaces names none; for one of 0xFF either value of its flag is taken (DEDUCED, assumption 26). -/
def uniOk (sh : Shape) (f : Fields) : Bool :=
  let need : Role → Bool → Nat → Bool := fun r fl fld =>
    match r with | .u => fl || fld == 255 | _ => !fl
  need (if f.long.isSome ∧ sh.lop = .a ∨ f.ic ∧ sh.imm = .a then .un else sh.a) f.ua f.srca.toNat
    && need (if f.long.isSome ∧ sh.lop = .b ∨ f.ic ∧ sh.imm = .b then .un else sh.b) f.ub f.srcb.toNat

/-- The rules of group-uniform instructions (R74): DST 0xFF, UA and UB 1, unused fields 0xFF. -/
def guOk (sh : Shape) (f : Fields) : Bool :=
  f.dst == 0xFF && f.ua && f.ub && !f.ic
    && (sh.a != .un || f.srca == 0xFF) && (sh.b != .un || f.srcb == 0xFF) && (sh.c != .un || f.srcc == 0xFF)

/-- A legal instruction (R65 to R68, R73, R74), for a group of `nreg` allocated registers per thread. -/
def legal (nreg : Nat) (sh : Shape) (f : Fields) : Bool :=
  (f.long.isNone || longOk sh f)
    && (f.ge || (f.guard == 0 && !f.neg))
    && (sh.cls == .vec || !f.ge)
    && (f.opmod.toNat &&& (255 ^^^ sh.mods)) == 0
    && (sh.cls != .uni || uniOk sh f)
    && (sh.cls != .gu || guOk sh f)
    && (sh.lop != .off || f.long.isSome || f.ic || f.srcc == 0xFF)
    && dstOk nreg sh.d f.dst.toNat
    && ((f.long.isSome && sh.lop == .a) || (f.ic && sh.imm == .a) || srcOk nreg sh.a f.ua f.srca.toNat)
    && ((f.long.isSome && sh.lop == .b) || (f.ic && sh.imm == .b) || srcOk nreg sh.b f.ub f.srcb.toNat)
    && ((f.ic && sh.c != .p) || srcOk nreg sh.c false f.srcc.toNat)

/-- The short immediate, sign-extended to `w` bits (R70). -/
def imm8 (f : Fields) (w : Nat) : Nat := sext 8 w f.srcc.toNat

/-- A register operand of `n` 32-bit words (R68, R69). -/
def regVal (g : Group) (t : Nat) (uflag : Bool) (fld n : Nat) : Nat :=
  if uflag then (g.u fld).toNat % 2 ^ (32 * n)
  else if n = 1 then (g.v t fld).toNat else (g.v64 t fld).toNat

/-- Source a, source b and source c of a lane, as numbers of 32 * n bits (R66, R68 to R70). -/
def srcA (sh : Shape) (f : Fields) (g : Group) (t n : Nat) : Nat :=
  match f.long, sh.lop with
  | some i, .a => i.toNat % 2 ^ (32 * n)
  | _, _ => if f.ic ∧ sh.imm = .a then imm8 f (32 * n) else regVal g t f.ua f.srca.toNat n
def srcB (sh : Shape) (f : Fields) (g : Group) (t n : Nat) : Nat :=
  match f.long, sh.lop with
  | some i, .b => i.toNat % 2 ^ (32 * n)
  | _, _ => if f.ic ∧ sh.imm = .b then imm8 f (32 * n) else regVal g t f.ub f.srcb.toNat n
def srcC (f : Fields) (g : Group) (t n : Nat) : Nat :=
  if f.ic then imm8 f (32 * n) else regVal g t false f.srcc.toNat n

/-- Write a result of `n` 32-bit words to DST. -/
def setDst (f : Fields) (g : Group) (t n v : Nat) : Group :=
  if n = 1 then g.setV t f.dst.toNat (BitVec.ofNat 32 v) else g.setV64 t f.dst.toNat (BitVec.ofNat 64 v)

/-- The offset of a memory operand: the scaled short immediate, the long immediate, or 0 (R79). -/
def memOff (f : Fields) (size : Nat) : W64 :=
  match f.long with
  | some i => i
  | none => if f.ic then BitVec.ofNat 64 (imm8 f 64) * BitVec.ofNat 64 size else 0

/-- Access size in bytes, OPMOD [2:0] (R79). -/
def accSize (f : Fields) : Nat := 2 ^ (f.opmod.toNat % 8)

/-- The 64-bit address of a memory operand (R79). -/
def memAddr (f : Fields) (g : Group) (t size : Nat) : W64 :=
  (if f.ua then g.u f.srca.toNat else g.v64 t f.srca.toNat) + memOff f size

/-- The vector registers of lane-addressed fields: (first, count) pairs read, and written. -/
def readRegs (sh : Shape) (f : Fields) : List (Nat × Nat) :=
  let one : Role → Bool → Nat → List (Nat × Nat) := fun r uf fld =>
    match r with | .v n => if uf || fld == 255 then [] else [(fld, n)] | _ => []
  (if f.long.isSome ∧ sh.lop = .a ∨ f.ic ∧ sh.imm = .a then [] else one sh.a f.ua f.srca.toNat)
    ++ (if f.long.isSome ∧ sh.lop = .b ∨ f.ic ∧ sh.imm = .b then [] else one sh.b f.ub f.srcb.toNat)
    ++ (if f.ic then [] else one sh.c false f.srcc.toNat)
def writeRegs (sh : Shape) (f : Fields) : List (Nat × Nat) :=
  match sh.d with | .v n => if f.dst == 0xFF then [] else [(f.dst.toNat, n)] | _ => []

/-- A source field that names a uniform register. -/
def uniSrc (r : Role) (flag : Bool) : Bool := match r with | .v _ => flag | .u => true | _ => false

/-- The uniform registers read. -/
def uniReads (sh : Shape) (f : Fields) : List Nat :=
  (if !(f.ic && sh.imm == .a) && uniSrc sh.a f.ua then [f.srca.toNat] else [])
    ++ (if !(f.ic && sh.imm == .b) && uniSrc sh.b f.ub then [f.srcb.toNat] else [])
    ++ (if sh.c == .u && !f.ic then [f.srcc.toNat] else [])

/-- The uniform registers read and written. -/
def uniRegs (sh : Shape) (f : Fields) : List Nat := uniReads sh f ++ (if sh.d == .u then [f.dst.toNat] else [])

/-- The registers an outstanding access still owes (R75): first register and count. -/
def Acc.owed (a : Acc) : Nat × Nat :=
  match a.kind with
  | .stio => (a.dst, 0)
  | .uload => (a.dst, 1)
  | .alloc => (a.dst, 2)
  | _ => if a.dst = 255 then (255, 0) else (a.dst, (a.size + 3) / 4)

/-- Two register ranges meet. -/
def meets (x y : Nat × Nat) : Bool := decide (x.1 < y.1 + y.2) && decide (y.1 < x.1 + x.2)

/-- No earlier access still owes a result to a register that the instruction reads or writes (R75). -/
def interlocked (sh : Shape) (f : Fields) (g : Group) (lns : List Nat) : Bool :=
  g.accs.all (fun a =>
    match a.kind with
    | .uload => (uniRegs sh f).all (fun r => r != a.dst)
    | _ => !(lns.contains a.th) || (readRegs sh f ++ writeRegs sh f).all (fun r => !(meets r a.owed)))

/-- The lanes that read a register whose contents suffered an uncorrectable error (R177). -/
def poisonedReads (sh : Shape) (f : Fields) (g : Group) (lns : List Nat) : List Nat :=
  let predRead := f.ge || sh.a == .p || sh.b == .p || sh.c == .p
  let uBad := (uniReads sh f).any (fun r => SMap.get false g.upoison r)
  lns.filter (fun t => (g.ppoison && predRead) || uBad
    || (readRegs sh f).any (fun r => (upTo r.1 r.2).any (fun k => SMap.get false g.vpoison (256 * t + k))))

end Sys2Proof.Machine
end

