-- ==== Sys2Proof/Machine/Xlat.lean ====
section
/-! DEFINITION. Context addresses: the walk of a context's table, the checks of an access, and the translation caches
(R152 to R157). -/

namespace Sys2Proof.Machine

/-- Result of a walk: the leaf entry and the page's size, or a fault kind (1 ADDRESS, 8 POISON). -/
inductive Walk | leaf (e size : Nat) | fault (kind : Nat)
  deriving DecidableEq, Repr

/-- Index of a level (R153), and the page size of a leaf there. -/
def lvlIndex (l va : Nat) : Nat :=
  if l = 0 then bits va 47 39 else if l = 1 then bits va 38 30 else if l = 2 then bits va 29 21 else bits va 20 16
def lvlPage (l : Nat) : Nat := if l = 1 then 2 ^ 30 else if l = 2 then 2 ^ 21 else 2 ^ 16

/-- ADDR of an entry. -/
def entAddr (e : Nat) : Nat := bits e 51 8 * 256

/-- Walk from level `l` with `n` levels left. Damaged entries are not read when the translation is `cached`. -/
def walkFrom (s : State) (cached : Bool) (va : Nat) : Nat → Nat → Nat → Walk
  | 0, _, _ => .fault 1
  | n + 1, l, table =>
    let a := table + 8 * lvlIndex l va
    if !cached && poisonIn s a 8 then .fault 8 else
    let e := peekLE s a 8
    if !bit e 0 then .fault 1
    else if bit e 1 then .leaf e (lvlPage l) else walkFrom s cached va n (l + 1) (entAddr e)

/-- The shared cache holds the translation of the page of `va`. Only MAP and UNMAP change a table, and UNMAP drops what is cached, so a
cached translation is the table's (R153, R157). -/
def xlatHeld (s : State) (c va : Nat) : Bool := s.mem.stlb.contains (c, va / 65536)

/-- Translate a virtual address of context `c` (R153); a context without a table maps nothing. -/
def walk (s : State) (c va : Nat) : Walk :=
  match (ctx s c).root with | none => .fault 1 | some t => walkFrom s (xlatHeld s c va) va 4 0 t

/-- The entries that a walk reads. -/
def walkPath (s : State) (va : Nat) : Nat → Nat → Nat → List Nat
  | 0, _, _ => []
  | n + 1, l, table =>
    let a := table + 8 * lvlIndex l va
    let e := peekLE s a 8
    a :: (if bit e 0 && !bit e 1 then walkPath s va n (l + 1) (entAddr e) else [])

/-- Fields of a leaf (R154). -/
def leafR (e : Nat) : Bool := bit e 2
def leafW (e : Nat) : Bool := bit e 3
def leafX (e : Nat) : Bool := bit e 4
def leafTh (e : Nat) : Bool := bit e 5
def leafIo (e : Nat) : Bool := bit e 6
def leafHost (e : Nat) : Bool := bit e 7

/-- What an access is (R156). -/
inductive Use | load | store | atom | fetch | ldio | stio | pack
  deriving DecidableEq, Repr

/-- Where a translated access goes. -/
inductive Target
  | fault (kind : Nat)
  | mem (pa : Nat)
  | thatch (index off : Nat)
  | host (ba : Nat)
  | io (off : Nat)
  deriving DecidableEq, Repr

/-- The leaf permits the use. LD.IO needs R and ST.IO needs W beside IO (DEDUCED, assumption 14). PACK reaches thatched
pages, which no other writer does (R202, R203). -/
def permits (u : Use) (e : Nat) : Bool :=
  match u with
  | .load => leafR e && !leafIo e
  | .store => leafW e && !leafIo e && !leafTh e
  | .atom => leafR e && leafW e && !leafTh e && !leafIo e && !leafHost e
  | .fetch => leafX e && !leafIo e
  | .ldio => leafR e && leafIo e
  | .stio => leafW e && leafIo e
  | .pack => leafTh e

/-- A register page that BLK_OWNER gives to another partition (R156). An absent page is not consulted. -/
def ioForeign (s : State) (part off : Nat) : Bool :=
  (blkAt s.sku (off / 4096)).isSome && pageOwner s (off / 4096) != some part

/-- An access of context `c` to the virtual address `va` (R156). -/
def access (s : State) (c : Nat) (u : Use) (va : Nat) : Target :=
  match walk s c va with
  | .fault k => .fault k
  | .leaf e size =>
    if !permits u e then .fault 2 else
    let a := entAddr e + va % size
    if leafIo e then (if ioForeign s (ctx s c).part a then .fault 2 else .io a)
    else if leafHost e then .host a
    else if leafTh e then .thatch (entAddr e) (va % size)
    else .mem a

/-- A virtual address: bits [63:48] all ones (R152). -/
def isLocal (a : W64) : Bool := a.toNat / 2 ^ 48 == 0xFFFF
def vaOf (a : W64) : Nat := a.toNat % 2 ^ 48
/-- The address a context uses for a virtual address (R99, R152). -/
def ctxAddr (va : Nat) : W64 := BitVec.ofNat 64 (0xFFFF * 2 ^ 48 + va)

/-- Newest first, no repeats, at most `n` (R157). -/
def cachePut (l : List (Nat × Nat)) (x : Nat × Nat) (n : Nat) : List (Nat × Nat) := (x :: l.filter (fun y => y != x)).take n

/-- The shared cache holds the translation of a 64 KiB page; where it did not, the table was walked through the L2 (R157). -/
def noteShared (s : State) (c va : Nat) : State :=
  let path := if xlatHeld s c va then [] else match (ctx s c).root with | none => [] | some t => walkPath s va 4 0 t
  let s := path.foldl (fun s a => touchRange s a 8) s
  { s with mem := { s.mem with stlb := cachePut s.mem.stlb (c, va / 65536) 8192 } }

/-- Core `k` and the shared cache hold the translation of a 64 KiB page. -/
def noteXlat (s : State) (k c va : Nat) : State :=
  let s := if (core s k).tlb.contains (c, va / 65536) then s else noteShared s c va
  setCore s k { core s k with tlb := cachePut (core s k).tlb (c, va / 65536) 128 }

/-- Drop every cached translation of a range of context `c` (R157). -/
def dropXlat (s : State) (c va size : Nat) : State :=
  let out := fun (x : Nat × Nat) => !(x.1 == c && va / 65536 ≤ x.2 && x.2 * 65536 < va + size)
  let s := { s with cores := s.cores.map (fun (p : Nat × Core) => (p.1, { p.2 with tlb := p.2.tlb.filter out })) }
  { s with mem := { s.mem with stlb := s.mem.stlb.filter out } }

/-! ## Writing tables (R153, R154; only MAP and UNMAP do) -/

/-- A leaf entry. -/
def mkLeaf (r w x th io host : Bool) (addr : Nat) : Nat :=
  1 + 2 + 4 * r.toNat + 8 * w.toNat + 16 * x.toNat + 32 * th.toNat + 64 * io.toNat + 128 * host.toNat + addr

/-- Level of a page size. -/
def lvlOf (psz : Nat) : Nat := if psz = 2 ^ 30 then 1 else if psz = 2 ^ 21 then 2 else 3

end Sys2Proof.Machine
end

