-- ==== Sys2Proof/Machine/Fetch.lean ====
section
/-! DEFINITION. The instruction cache of a core and what a fetch finds there (R63, R83, R158, R161). -/

namespace Sys2Proof.Machine

def icKey (line w : Nat) : Nat := icSet line * 8 + w

/-- The way of a core's instruction cache that holds a line; an entry is the line plus 1. -/
def icFind (s : State) (c line : Nat) : Option Nat :=
  (upTo 0 8).find? (fun w => SMap.get 0 (core s c).icache (icKey line w) == line + 1)

/-- Fill the line, replacing under R161; a held line is a hit. -/
def icFill (s : State) (c line : Nat) : State :=
  match icFind s c line with
  | some w => touchWay s (instIc c) (icSet line) 3 w
  | none =>
    let (s, w) := match (upTo 0 8).find? (fun w => SMap.get 0 (core s c).icache (icKey line w) == 0) with
      | some w => (s, w)
      | none => victim s (instIc c) (icSet line) 3
    let k := core s c
    touchWay (setCore s c { k with icache := SMap.put 0 k.icache (icKey line w) (line + 1) }) (instIc c) (icSet line) 3 w

/-- The fault of the fetch of one instruction word at `a` for context `cx`, or the physical address it reads. -/
def fetchWord (s : State) (cx : Nat) (a : W64) : Nat × Nat :=
  if a.toNat % 8 ≠ 0 then (3, 0)
  else if isLocal a then
    (match access s cx .fetch (vaOf a) with
     | .fault k => (k, 0)
     | .mem pa => if poisonIn s pa 8 then (8, 0) else (0, pa)
     | _ => (2, 0))
  else (sysFault s .other a, 0)

/-- The word in memory has bit 63 set: the word after it is its immediate (R66). -/
def longWord (s : State) (pa : Nat) : Bool := decide (2 ^ 63 ≤ peekLE s pa 8)

/-- The words of an instruction that are fetched: the one at `a` and, in long form, the one after it. -/
def fetchWords (s : State) (cx : Nat) (a : W64) : List (W64 × Nat × Nat) :=
  let r := fetchWord s cx a
  if r.1 = 0 ∧ longWord s r.2 then [(a, r), (a + 8, fetchWord s cx (a + 8))] else [(a, r)]

/-- Where the instruction at `pc` lies in memory, when every word of it is in the core's instruction cache and may be executed (R83). -/
def resident (s : State) (c cx : Nat) (pc : W64) : Option Nat :=
  let l := fetchWords s cx pc
  if l.all (fun w => w.2.1 == 0 && (icFind s c (w.2.2 / 128)).isSome) then l.head?.map (fun w => w.2.2) else none

/-- The instruction of a word waits for nothing but its registers: an arithmetic, compare, move or control instruction other than ULD.G
and EXIT (R76). -/
def plainWord (w : W64) : Bool :=
  let m := (majorOf w).toNat % 128
  let n := (minorOf w).toNat
  (decide (1 ≤ m) && decide (m ≤ 7) && !(m == 2 && n == 0x0B)) || (m == 12 && n != 6)

/-- The word's opcode is reserved (R67, R76). -/
def reservedWord (w : W64) (x : Issue) : Bool := (insOf ((majorOf w).toNat % 128) (minorOf w).toNat x).isNone

end Sys2Proof.Machine
end

