-- ==== Sys2Proof/Machine/Issue.lean ====
section
/-! DEFINITION. Issue of one thread instruction (R34 to R37, R49, R67, R72, R75): when a set may issue, what an illegal
encoding does, how the set moves on, and how a fault is taken. -/

namespace Sys2Proof.Machine

/-! ## The gate -/

/-- An enabled comparator of the core stops the set at `pc` (R61); the breakpoint that a resume left is passed once. -/
def bpHit (s : State) (c : Nat) (g : Group) (pc : W64) : Bool :=
  scopeBit s 0 && g.passBp != some pc && bit (reg s (pgCore c) 0x140) 31 && (reg s (pgCore c) 0x140 % 4096 == g.ctx)
    && (upTo 0 4).any (fun k => let b := reg s (pgCore c) (0x120 + 8 * k); bit b 0 && (b / 8 == pc.toNat / 8))

/-- Another set of the group is overdue and goes first: older, or as old at a lower address (R36 step 1). -/
def overdueFirst (g : Group) (pc : W64) (age : Nat) : Bool :=
  g.runners.any (fun t =>
    let q := (g.thr t).pc
    let a := g.ageOf (g.setAt q)
    q != pc && decide (32 ≤ a) && (decide (age < a) || (decide (a = age) && decide (q.toNat < pc.toNat))))

/-- Whether a halted group may issue for the set at `pc`: only a requested step (R59). -/
def stepAllows (g : Group) (pc : W64) : Bool :=
  match g.stepReq with | none => false | some none => true | some (some a) => a == pc

/-- The next instruction of the set at `pc` is known to be ready (R36, R75, R83): it is fetched, waits for nothing but registers, and no
access of the group still owes one. -/
def setReady (s : State) (c : Nat) (g : Group) (pc : W64) : Bool :=
  g.accs.isEmpty && (match resident s c g.ctx pc with
    | some pa => plainWord (BitVec.ofNat 64 (peekLE s pa 8))
    | none => false)

/-- Another ready set of the group goes before the one at `pc`: an unmarked one before a marked one, otherwise the lower address
(R36 steps 2 and 3). -/
def readyFirst (s : State) (c : Nat) (g : Group) (pc : W64) : Bool :=
  let m := g.marked (g.setAt pc)
  g.runners.any (fun t =>
    let q := (g.thr t).pc
    let n := g.marked (g.setAt q)
    q != pc && (if n == m then decide (q.toNat < pc.toNat) else m) && setReady s c g q)

/-- The group is not halted, not preempted, has not faulted and waits for no halt. -/
def mayIssue (s : State) (c gs : Nat) : Bool :=
  let g := grp s c gs
  g.occ && !g.stopped && !g.halted && !g.haltReq && !(tm s c g.tslot).preempt

/-- The group is known to be eligible (R34): the set that R36 chooses is ready. -/
def eligible (s : State) (c gs : Nat) : Bool :=
  let g := grp s c gs
  mayIssue s c gs && g.runners.any (fun t =>
    let q := (g.thr t).pc
    setReady s c g q && !overdueFirst g q (g.ageOf (g.setAt q)) && !bpHit s c g q)

/-- Places from the group that the issue slot serves next, in round-robin order, to group slot `gs` (R34). -/
def slotTurn (s : State) (c gs : Nat) : Nat := (gs / 4 + 16 - SMap.get 0 (core s c).lastIss (gs % 4) % 16) % 16

/-- Another group of the same issue slot is eligible and comes first in round-robin order (R34). -/
def slotFirst (s : State) (c gs : Nat) : Bool :=
  (upTo 0 16).any (fun i =>
    let h := 4 * i + gs % 4
    h != gs && decide (slotTurn s c h < slotTurn s c gs) && eligible s c h)

/-- The set is the one that the convergence scheduler chooses, as far as it is known which sets are ready (R36, R59). -/
def chosen (s : State) (c : Nat) (g : Group) (pc : W64) : Bool :=
  let age := g.ageOf (g.setAt pc)
  !overdueFirst g pc age && (decide (32 ≤ age) || !readyFirst s c g pc)

/-- The set at `x.pc` of the group, when it may issue now (R34, R36, R54, R58, R59, R61, R83); none otherwise. A step of a halted group
issues outside the round robin. -/
def gate (s : State) (x : Issue) : Option (List Nat) :=
  let g := grp s x.core x.gslot
  let set := g.setAt x.pc
  if running s && s.sku.core x.core && x.gslot < 64 && g.occ && !g.stopped && !(tm s x.core g.tslot).preempt
      && !set.isEmpty && (resident s x.core g.ctx x.pc).isSome
      && (if g.halted then stepAllows g x.pc && (g.stepReq == some (some x.pc) || chosen s x.core g x.pc)
          else !g.haltReq && chosen s x.core g x.pc && !slotFirst s x.core x.gslot && !bpHit s x.core g x.pc)
  then some set else none

/-- The threads of the set for which the instruction acts (R72). -/
def acting (f : Fields) (g : Group) (set : List Nat) : List Nat :=
  if f.ge then set.filter (fun t => g.p t f.guard.toNat != f.neg) else set

/-- Bytes of the instruction (R63). -/
def insLen (f : Fields) : W64 := if f.long.isSome then 16 else 8

/-! ## Moving on -/

/-- Ages and marks of the group after the set issued (R36, R37): the issuing set's age is 0 and its mark clear, every other
set is one issue older; when the issuing set was marked and not overdue, every ready set was marked, and all marks clear. A thread
that waits keeps its age (DESIGN CHOICE, assumption 119). -/
def Group.aged (g : Group) (set : List Nat) : Group :=
  let clearAll := g.marked set && decide (g.ageOf set < 32)
  { g with threads := (lanes.map (fun t =>
      let x := g.thr t
      if set.contains t then { x with age := 0, mark := false }
      else if x.stat = .running then { x with age := x.age + 1, mark := x.mark && !clearAll } else x)).take g.threads.length
           stepReq := none, passBp := if set.any (fun t => g.passBp == some (g.thr t).pc) then none else g.passBp
           stepping := g.stepping || g.halted, issues := g.issues + 1 }

/-- The issue slot of the group has issued for it (R34). -/
def slotServed (s : State) (c gs : Nat) : State :=
  setCore s c { core s c with lastIss := SMap.put 0 (core s c).lastIss (gs % 4) (gs / 4 + 1) }

/-- The listed threads continue at the address `f` gives each. -/
def Group.goto (g : Group) (lns : List Nat) (f : Nat → W64) : Group :=
  lns.foldl (fun g t => g.setThr t { g.thr t with pc := f t }) g

/-- Count one issue (R404: events 0x01 and 0x02, fixed counter 1). -/
def countIssue (s : State) (x : Issue) (act : List Nat) : State :=
  pmcG (pmcG (count s (rkey (pgCore x.core) 0x388) 1) x.core x.gslot 1 1) x.core x.gslot 2 act.length

/-- The set has issued and moves to the next instruction. -/
def advance (s : State) (x : Issue) (set act : List Nat) : State :=
  let g := grp s x.core x.gslot
  countIssue (slotServed (setGrp s x.core x.gslot ((g.aged set).goto set (fun _ => x.pc + insLen x.f))) x.core x.gslot) x act

/-! ## Faults (R49 to R52) -/

/-- KIND and address of the record of several lanes' faults (R52): the lowest faulting address, the kind of the thread
there, ties and no address to the lowest thread. -/
def faultOf (l : List LaneFault) : Nat × W64 :=
  let addrs := l.filterMap (fun x => x.2.2.map BitVec.toNat)
  match addrs with
  | [] => (match l with | [] => 0 | x :: _ => x.2.1, 0)
  | a :: t =>
    let lo := t.foldl min a
    (match l.find? (fun x => x.2.2.map BitVec.toNat == some lo) with | some x => x.2.1 | none => 0, BitVec.ofNat 64 lo)

/-- The lanes `l` fault at `pc`: the group stops and the fault waits to be recorded (R49, R52). A step whose instruction faults does not
retire: the halt of R51 follows it. -/
def takeFaultIn (s : State) (c gs : Nat) (pc : W64) (l : List LaneFault) (engine : Bool) (mask code : Nat) (ins : Option Nat) : State :=
  if l.isEmpty then s else
  let g := grp s c gs
  let (kind, addr) := faultOf l
  let r : FaultRec := { kind := kind, gslot := gs, tslot := g.tslot, engine := engine, ctx := g.ctx, mask := mask, pc := pc
                        addr := addr, tag := g.tag, code := code, lanes := l, ins := ins }
  let s := setGrp s c gs (if engine then { g with stopped := true } else { g with stopped := true, stepReq := none, stepping := false })
  let s := setCore s c { core s c with faults := (core s c).faults ++ [r] }
  note (pmcG s c gs 0x12 1) 1 c 0 0x04 (corePart s c) (some g.ctx) g.tag kind
def takeFault (s : State) (c gs : Nat) (pc : W64) (l : List LaneFault) (engine : Bool) (mask code : Nat) : State :=
  takeFaultIn s c gs pc l engine mask code none

/-- Mask of the lanes that fault. -/
def faultMask (l : List LaneFault) : Nat := maskOf (l.map Prod.fst)

/-- The lanes `l` of an issue fault (R49). -/
def laneFaults (s : State) (x : Issue) (l : List LaneFault) (code : Nat) : State :=
  takeFault s x.core x.gslot x.pc l false (faultMask l) code

/-- Lanes of an issue that has been counted fault; accesses of its other lanes may fault later and belong to the same record (R52). -/
def issueFaults (s : State) (x : Issue) (old : Group) (l : List LaneFault) (code : Nat) : State :=
  takeFaultIn s x.core x.gslot x.pc l false (faultMask l) code (some old.issues)

/-! ## The pipeline -/

/-- What becomes of an issue: it does not happen now, it is illegal, it reads a damaged register, or it goes. -/
inductive Pre | wait | bad (set : List Nat) | poison (set act lns : List Nat) | go (set act : List Nat)
  deriving DecidableEq, Repr

/-- Gate, legality and interlocks. `ok` is the instruction's own legality beyond its shape, `ready` its own readiness,
`bad` the acting lanes that read a damaged register. -/
def pre (sh : Shape) (ok ready : Bool) (bad : Group → List Nat → List Nat) (x : Issue) (s : State) : Pre :=
  match gate s x with
  | none => .wait
  | some set =>
    let g := grp s x.core x.gslot
    if !(legal g.nreg sh x.f && ok) then .bad set
    else
      let act := acting x.f g set
      if !(interlocked sh x.f g act && ready) then .wait
      else match bad g act with
        | [] => .go set act
        | l => .poison set act l

/-- ILLEGAL for every thread of the set (R67). -/
def illegal (s : State) (x : Issue) (set : List Nat) : State :=
  laneFaults s x (set.map (fun t => (t, 4, none))) 0

/-- Put the faulting lanes back to what they were before the instruction (R49 step 2). -/
def restoreLanes (old : Group) (g : Group) (l : List Nat) : Group :=
  l.foldl (fun g t => g.setThr t { g.thr t with pc := (old.thr t).pc, preds := (old.thr t).preds }) g

/-- The lanes `l` read a damaged register (R177): they fault with POISON, and the other acting lanes complete (R49 steps 1 and 2). -/
def poisonIssue (x : Issue) (s : State) (set act l : List Nat) (body : State → List Nat → List Nat → State) : State :=
  let old := grp s x.core x.gslot
  let rest := act.filter (fun t => !l.contains t)
  let s := advance s x set act
  let s := if rest.isEmpty then s else body s set rest
  issueFaults (setGrp s x.core x.gslot (restoreLanes old (grp s x.core x.gslot) l)) x old (l.map (fun t => (t, 8, none))) 0

/-- Issue an instruction whose effect is `body` on the state after the set has moved on; `body` gets the acting lanes. -/
def issueBad (sh : Shape) (ok ready : Bool) (bad : Group → List Nat → List Nat) (x : Issue) (s : State)
    (body : State → List Nat → List Nat → State) : Res :=
  match pre sh ok ready bad x s with
  | .wait => .next s
  | .bad set => .next (illegal s x set)
  | .poison set act l => .next (poisonIssue x s set act l body)
  | .go set act => .next (body (advance s x set act) set act)

/-- Issue, with the damaged registers of the operand fields (R177). -/
def issue (sh : Shape) (ok ready : Bool) (x : Issue) (s : State) (body : State → List Nat → List Nat → State) : Res :=
  issueBad sh ok ready (poisonedReads sh x.f) x s body

/-- Issue an instruction that only writes registers of its group, lane by lane. -/
def issueLanes (sh : Shape) (ok : Bool) (x : Issue) (s : State) (f : Group → Nat → Group) : Res :=
  issue sh ok true x s (fun s _ act => setGrp s x.core x.gslot (act.foldl f (grp s x.core x.gslot)))

/-- Issue a uniform instruction that writes one uniform register (R73). -/
def issueUni (sh : Shape) (ok : Bool) (x : Issue) (s : State) (v : State → Group → W64) : Res :=
  issue sh ok true x s (fun s _ _ =>
    let g := grp s x.core x.gslot
    setGrp s x.core x.gslot (g.setU x.f.dst.toNat (v s g)))

/-! ## Lanes that fault one by one (R49) -/

/-- What an access does for one lane: complete with a new state, or fault. -/
inductive LaneRes | ok (s : State) | fault (kind : Nat) (addr : Option W64)
  deriving Repr

/-- Run the lanes in ascending order; collect the faults. -/
def runLanes (f : State → Nat → LaneRes) : List Nat → State → State × List LaneFault
  | [], s => (s, [])
  | t :: l, s =>
    match f s t with
    | .ok s' => runLanes f l s'
    | .fault k a => let r := runLanes f l s; (r.1, (t, k, a) :: r.2)

/-- Run the acting lanes; those that fault go back to what they were in `old`, the group before the instruction (R49). -/
def laneBody (x : Issue) (old : Group) (f : State → Nat → LaneRes) (s : State) (act : List Nat) : State :=
  let r := runLanes f act s
  if r.2.isEmpty then r.1 else
  issueFaults (setGrp r.1 x.core x.gslot (restoreLanes old (grp r.1 x.core x.gslot) (r.2.map Prod.fst))) x old r.2 0

/-- Issue an instruction that runs lane by lane and whose lanes may fault (R49). -/
def issueMem (sh : Shape) (ok ready : Bool) (x : Issue) (s : State) (f : State → Nat → LaneRes) : Res :=
  issue sh ok ready x s (fun s' _ act => laneBody x (grp s x.core x.gslot) f s' act)

end Sys2Proof.Machine
end

