-- ==== Sys2Proof/Machine/Release.lean ====
section
/-! DEFINITION. Ends: command results, and the release of group slots, team slots and launches (R33, R54, R104, R195, R216). -/

namespace Sys2Proof.Machine

/-! ## Commands -/

/-- Command `idx` of queue `q`. -/
def cmdAt (s : State) (q idx : Nat) : Option Cmd := (queue s q).cmds.find? (fun c => c.idx == idx)

/-- Change a fetched command. -/
def updCmd (s : State) (q idx : Nat) (f : Cmd → Cmd) : State :=
  let x := queue s q
  setQueue s q { x with cmds := mapFirst (fun c => c.idx == idx) f x.cmds }

/-- Header fields of a packet (R333). -/
def pkOp (b : List Byte) : Nat := leAt b 0 1
def pkFlags (b : List Byte) : Nat := leAt b 1 1
def pkTag (b : List Byte) : Nat := leAt b 2 2
def pkSeq (b : List Byte) : Nat := leAt b 4 4
def pkWf (b : List Byte) : Nat := leAt b 8 4
def pkSf (b : List Byte) : Nat := leAt b 12 4

/-- A command ends with a status and a result; one that has ended keeps its first (R331). -/
def endCmd (s : State) (q idx status result : Nat) : State :=
  updCmd s q idx (fun c => match c.st with | .ended _ _ => c | _ => { c with st := .ended status result })

/-- A command's state. -/
def Cmd.isWaiting (c : Cmd) : Bool := c.st == .waiting
def Cmd.isRunning (c : Cmd) : Bool := c.st == .running
def Cmd.hasEnded (c : Cmd) : Bool := match c.st with | .ended _ _ => true | _ => false

/-- A queue is in use until its last fetched command has completed. -/
def Queue.inUse (x : Queue) : Bool := x.bound || !x.cmds.isEmpty

/-- The queues of a context. -/
def queuesOf (s : State) (c : Nat) : List Nat :=
  (s.box.queues.filter (fun (x : Nat × Queue) => x.2.inUse && x.2.ctx == c)).map (fun (x : Nat × Queue) => x.1)

/-! ## Teams and launches -/

/-- Apply a change to every team slot of the chip. -/
def mapTeams (s : State) (f : Team → Team) : State :=
  { s with cores := s.cores.map (fun (p : Nat × Core) => (p.1, { p.2 with teams := p.2.teams.map (fun (t : Nat × Team) => (t.1, f t.2)) })) }

/-- Some team on some core. -/
def anyTeam (s : State) (p : Team → Bool) : Bool := s.cores.any (fun (k : Nat × Core) => k.2.teams.any (fun (t : Nat × Team) => t.2.occ && p t.2))

/-- The teams that satisfy `p` stop and will be discarded (R54). -/
def discardTeams (s : State) (p : Team → Bool) : State :=
  mapTeams s (fun t => if t.occ && p t then { t with preempt := true, discard := true } else t)

def updLaunch (s : State) (q idx : Nat) (f : Launch → Launch) : State :=
  { s with box := { s.box with launches := mapFirst (fun l => l.q == q && l.idx == idx) f s.box.launches } }
def launchAt (s : State) (q idx : Nat) : Option Launch := s.box.launches.find? (fun l => l.q == q && l.idx == idx)

/-- Statuses of faults, whose RESULT is the faulting address (R331). -/
def faultStatus (st : Nat) : Bool := 5 ≤ st && st ≤ 9

/-- A launch that is being ended early ends once no team of it is left on a core. -/
def reapLaunch (s : State) (l : Launch) : State :=
  if l.status = 0 ∨ anyTeam s (fun t => t.q == l.q && t.idx == l.idx) then s else
  let s := { s with box := { s.box with launches := s.box.launches.filter (fun x => !(x.q == l.q && x.idx == l.idx)) } }
  endCmd s l.q l.idx l.status (if faultStatus l.status then (ctx s l.ctx).fltData.toNat else 0)

def reapLaunches (s : State) : State := s.box.launches.foldl reapLaunch s

/-- The launches that satisfy `p` take no more teams and end with `status`; their saved teams are dropped. -/
def killLaunches (s : State) (p : Launch → Bool) (status : Nat) : State :=
  let hit := fun (q idx : Nat) => s.box.launches.any (fun l => l.q == q && l.idx == idx && p l)
  let s := { s with box := { s.box with
    launches := s.box.launches.map (fun l => if p l then { l with next := l.teams, status := if l.status = 0 then status else l.status } else l)
    saved := s.box.saved.filter (fun x => !hit x.team.q x.team.idx) } }
  reapLaunches (discardTeams s (fun t => hit t.q t.idx))


/-! ## Layer boundaries (R195 step 2) -/

/-- The identity of a group for its lifetime: command, team and group index; it outlives a preemption. -/
def identOf (q idx team gid : Nat) : Nat := ((q * 2 ^ 32 + idx) * 2 ^ 32 + team) * 32 + gid + 1
def Group.ident (g : Group) (t : Team) : Nat := identOf t.q t.idx t.team g.gid

/-- The tiles dealt to a core, and the last of them (R186). -/
def Stream.tiles' (x : Stream) : Nat := x.n1 * x.n2
def Stream.coreOf (x : Stream) (t : Nat) : Nat := x.first + t / x.deal % x.ncores * x.cstride
def Stream.coreSet (x : Stream) : List Nat := (upTo 0 x.ncores).map (fun p => x.first + p * x.cstride)

/-- A group has drained or released its slot: it reports for every stream with DRAIN whose last tile of the core it took. A core
is listed in `takers` once its last dealt tile has been taken. -/
def reportGroup (s : State) (c id : Nat) : State :=
  (upTo 0 64).foldl (fun s k =>
    let x := stream s k
    if x.live && x.drain && SMap.get 0 x.takers c == id && !x.reported.contains c
    then setStream s k { x with reported := insertNat x.reported c } else s) s

/-! ## Release (R33) -/

/-- Commands of a group in the two engines. -/
def mxPending (k : Core) (gs : Nat) : Nat :=
  (k.mxq.filter (fun x => x.gslot == gs)).length + (k.mxRuns.filter (fun r => r.cmd.gslot == gs)).length
    + (match (SMap.get Group.empty k.groups gs).mxBack with | some b => b.cmds.length | none => 0)
def tmPending (k : Core) (gs : Nat) : Nat :=
  (k.tmq.filter (fun x => x.gslot == gs)).length + (match k.tmRun with | some r => if r.cmd.gslot = gs then 1 else 0 | none => 0)

/-- The remote requests of a group that are unanswered. -/
def groupReqs (s : State) (c gs : Nat) : List RReq :=
  s.fab.reqs.filter (fun r => match r.owner with
    | .store k g _ => k == c && g == gs | .thread k g _ => k == c && g == gs | _ => false)

/-- The group no longer holds the matrix array, and the next claim is another group's: both sets will be clear then (R104,
R105). -/
def Core.leaveMx (k : Core) (gs : Nat) : Core :=
  let k := if k.claim = some gs then { k with claim := none, reload := none } else k
  if k.last = some gs then { k with active := WSet.zero, shadow := WSet.zero } else k

/-- A team whose groups have all released their slots releases its own; a launch whose teams have all ended completes. -/
def releaseTeam (s : State) (c ts : Nat) : State :=
  let t := tm s c ts
  if !t.occ || !t.gslots.isEmpty then s else
  let s := setTm s c ts Team.empty
  match launchAt s t.q t.idx with
  | none => s
  | some l =>
    if l.status ≠ 0 then reapLaunch s l else
    let s := updLaunch s t.q t.idx (fun l => { l with ended := l.ended + 1 })
    if l.ended + 1 < l.teams then s else
    endCmd { s with box := { s.box with launches := s.box.launches.filter (fun x => !(x.q == t.q && x.idx == t.idx)) } } t.q t.idx 0 0

/-- A group may release its slot: every thread has exited, and every engine command it issued has completed (R33); the command of a
group that an engine fault stopped never completes (R50). EXIT issues only once the accesses, stores and remote requests of its threads
are done (assumption 36). -/
def groupDone (s : State) (c gs : Nat) : Bool :=
  let k := core s c
  let g := grp s c gs
  g.occ && g.threads.all (fun x => x.stat == .exited) && mxPending k gs == 0 && tmPending k gs == 0 && !g.stopped

/-- CORE_DBG_STAT.STEP_DONE. -/
def stepDone (s : State) (c : Nat) : State := setReg s (pgCore c) 0x104 (reg s (pgCore c) 0x104 ||| 2)

/-- Release the slot. -/
def freeGroup (s : State) (c gs : Nat) : State :=
  let g := grp s c gs
  let t := tm s c g.tslot
  let s := reportGroup s c (g.ident t)
  let k := (core s c).leaveMx gs
  let s := setCore s c { k with groups := SMap.put Group.empty k.groups gs Group.empty }
  releaseTeam (setTm s c g.tslot { t with gslots := t.gslots.filter (fun x => x != gs) }) c g.tslot

/-- A group that is done releases its slot; a step whose instruction ended the group has retired (R59). -/
def release (s : State) (c gs : Nat) : State :=
  if !groupDone s c gs then s
  else if (grp s c gs).stepping then freeGroup (stepDone s c) c gs else freeGroup s c gs

end Sys2Proof.Machine
end

