-- ==== Sys2Proof/Machine/Access.lean ====
section
/-! DEFINITION. Outstanding accesses and store buffers of a group: results, late faults, forwarding and draining (R49, R75,
R80, R208 to R210); tile memory (R30, R80). -/

namespace Sys2Proof.Machine

/-! ## Tile memory -/

/-- Where byte `off` of a team's allocation lies in the core's tile memory. -/
def tilePhys (t : Team) (off : Nat) : Option Nat :=
  if off / 4096 < t.tgran.length then some (nthD 0 t.tgran (off / 4096) * 4096 + off % 4096) else none

/-- Bytes of a team's allocation. -/
def tileSize (t : Team) : Nat := 4096 * t.tgran.length

/-- One byte of a team's tile memory. -/
def tileByte (s : State) (c ts off : Nat) : Byte :=
  match tilePhys (tm s c ts) off with | some p => SMap.get 0 (core s c).tmem p | none => 0
def tileRead (s : State) (c ts off n : Nat) : List Byte := (upTo off n).map (tileByte s c ts)

/-- A 32 B sector of the range is damaged (R177). -/
def tileBad (s : State) (c ts off n : Nat) : Bool :=
  (sectorsOf off n).any (fun k => match tilePhys (tm s c ts) (32 * k) with
    | some p => SMap.get false (core s c).tpoison (p / 32) | none => false)

/-- Write bytes of one sector of a team's tile memory: a whole sector takes the mark; a partial write keeps it (R175). -/
def tileWriteSec (s : State) (c ts off : Nat) (d : List Byte) (bad : Bool) : State :=
  match tilePhys (tm s c ts) off with
  | none => s
  | some p =>
    let k := core s c
    let was := SMap.get false k.tpoison (p / 32)
    setCore s c { k with tmem := SMap.putList 0 k.tmem p d
                         tpoison := SMap.put false k.tpoison (p / 32) (if d.length = 32 then bad else was || bad) }

/-- Write a run of bytes, sector by sector. -/
def tileWriteSecs : List Nat → State → Nat → Nat → Nat → List Byte → (Nat → Bool) → State
  | [], s, _, _, _, _, _ => s
  | k :: t, s, c, ts, off, d, bad =>
    let n := 32 - off % 32
    tileWriteSecs t (tileWriteSec s c ts off (d.take n) (bad k)) c ts (32 * (k + 1)) (d.drop n) bad
def tileWrite (s : State) (c ts off : Nat) (d : List Byte) (bad : Nat → Bool) : State :=
  tileWriteSecs (sectorsOf off d.length) s c ts off d bad

/-! ## Bytes from the store buffer (R209 rule 3) -/

/-- Overlay `d` at address `b` on the bytes `base` at address `a`. -/
def overlay (a : Nat) (base : List Byte) (b : Nat) (d : List Byte) : List Byte :=
  (upTo 0 base.length).map (fun i => if b ≤ a + i ∧ a + i < b + d.length then nthD 0 d (a + i - b) else nthD 0 base i)

/-- Physical address of a buffered store to memory. -/
def StEnt.pa (e : StEnt) : Option Nat := match e.dest with | .l1 p => some p | .bypass p => some p | .tile => none

/-- The bytes at physical address `pa` as thread `t` reads them: its own buffered stores before access `id` over the rest. -/
def forwardMem (g : Group) (t id pa : Nat) (base : List Byte) : List Byte :=
  g.sb.foldl (fun l e => match e.pa with
    | some p => if e.th = t ∧ e.id < id then overlay pa l p (toLE e.size e.data) else l
    | none => l) base

/-- The same for tile memory at offset `off`. -/
def forwardTile (g : Group) (t off : Nat) (base : List Byte) : List Byte :=
  g.sb.foldl (fun l e => if e.dest = .tile ∧ e.th = t then overlay off l e.addr.toNat (toLE e.size e.data) else l) base

/-! ## Results -/

/-- Write the result of an access to its destination (R69, R79, R439). -/
def writeResult (g : Group) (a : Acc) (v : Nat) : Group :=
  match a.kind with
  | .stio => g
  | .uload => g.setU a.dst (BitVec.ofNat 64 (if a.sx ∧ a.size < 4 then sext (8 * a.size) 64 v else v))
  | .alloc => g.setV64 a.th a.dst (BitVec.ofNat 64 v)
  | _ =>
    if a.dst = 255 then g
    else if a.size < 4 then g.setV a.th a.dst (BitVec.ofNat 32 (if a.sx then sext (8 * a.size) 32 v else v))
    else (upTo 0 (a.size / 4)).foldl (fun g i => g.setV a.th (a.dst + i) (BitVec.ofNat 32 (v / 2 ^ (32 * i)))) g

/-- Forget an access. -/
def Group.dropAcc (g : Group) (id : Nat) : Group := { g with accs := g.accs.filter (fun a => a.id != id) }

/-- The threads an access was issued for. -/
def Acc.lanesOf (a : Acc) : List Nat := maskBits 32 a.mask

/-- Put the threads of a faulting access back to what they were before it, and drop what they issued since (R49). -/
def undo (g : Group) (a : Acc) : Group :=
  let l := a.lanesOf
  let kept := SMap.keep (fun k => !l.contains (k / 256)) g.vreg
  let g := { g with
    vreg := a.regs.foldl (fun m x => SMap.put 0 m x.1 x.2) kept
    accs := g.accs.filter (fun b => !(l.contains b.th && a.id ≤ b.id))
    sb := g.sb.filter (fun e => !(l.contains e.th && a.id < e.id))
    waits := g.waits.filter (fun w => !l.contains w.th) }
  a.before.foldl (fun g x => g.setThr x.1 x.2) g

/-- The address of the instruction that issued an access. -/
def Acc.pc (a : Acc) : W64 := match a.before with | [] => 0 | x :: _ => x.2.pc

/-- Faults of one instruction in rising order of thread. -/
def insertLane (l : List LaneFault) (x : LaneFault) : List LaneFault :=
  l.filter (fun y => decide (y.1 < x.1)) ++ x :: l.filter (fun y => decide (x.1 < y.1))

/-- The record of an instruction with the faults of further threads: one fault of one instruction writes one record (R52). -/
def FaultRec.join (r : FaultRec) (l : List LaneFault) : FaultRec :=
  let l := l.foldl insertLane r.lanes
  { r with lanes := l, mask := faultMask l, kind := (faultOf l).1, addr := (faultOf l).2 }

/-- The record that waits is the one of issue `ins` of group slot `gs`. -/
def FaultRec.isOf (r : FaultRec) (gs ins : Nat) : Bool := r.gslot == gs && !r.engine && r.ins == some ins

/-- An outstanding access faults (R49, R52, R259). -/
def lateFault (s : State) (c gs : Nat) (a : Acc) (kind : Nat) : State :=
  let s := setGrp s c gs (undo (grp s c gs) a)
  let l : List LaneFault := a.lanesOf.map (fun t => (t, kind, some a.addr))
  let k := core s c
  if k.faults.any (fun r => r.isOf gs a.ins) then
    setCore s c { k with faults := k.faults.map (fun r => if r.isOf gs a.ins then r.join l else r) }
  else takeFaultIn s c gs a.pc l false a.mask 0 (some a.ins)

/-- The registers of the listed threads. -/
def regsOf (g : Group) (l : List Nat) : SMap W32 := SMap.keep (fun k => l.contains (k / 256)) g.vreg

/-! ## Draining (R209 rules 1, 2, 6; R210) -/

/-- A store goes into a line held in E or M: the line is M and the sector dirty (R160). -/
def storeL1 (s : State) (c pa size data policy : Nat) : State :=
  let line := pa / 128
  let i := pa % 128 / 32
  let s := updL1 s c line (fun x => { x with st := .m, dirty := x.dirty ||| 2 ^ i, data := splice x.data (pa % 128) (toLE size data) })
  l1Touch s c line policy

/-- Remove an entry from a group's store buffer. -/
def dropSb (s : State) (c gs id : Nat) : State :=
  let g := grp s c gs
  setGrp s c gs { g with sb := g.sb.filter (fun e => e.id != id) }

/-- Every access that must be performed before the store has been. -/
def StEnt.clear (e : StEnt) (g : Group) : Bool := e.after.all (fun i => g.accs.all (fun a => a.id != i))

/-- Core `c` holds the line of a store in E or M with its sector valid. -/
def ownsLine (s : State) (c pa : Nat) : Bool :=
  let x := l1Line s c (pa / 128)
  (x.st == .e || x.st == .m) && bit x.valid (pa % 128 / 32)

/-- Let stores leave in order, thread by thread; `blk` are the threads whose oldest store cannot leave. -/
def drainList : List StEnt → List Nat → Nat → Nat → State → State
  | [], _, _, _, s => s
  | e :: t, blk, c, gs, s =>
    if blk.contains e.th || !e.clear (grp s c gs) then drainList t (e.th :: blk) c gs s
    else match e.dest with
      | .tile => drainList t blk c gs (tileWrite (dropSb s c gs e.id) c (grp s c gs).tslot e.addr.toNat (toLE e.size e.data) (fun _ => false))
      | .l1 pa =>
        if ownsLine s c pa then drainList t blk c gs (storeL1 (dropSb s c gs e.id) c pa e.size e.data e.policy)
        else drainList t (e.th :: blk) c gs s
      | .bypass _ => drainList t (e.th :: blk) c gs s

/-- Drain a group's store buffer as far as it goes; a group with nothing left releases its slot. -/
def drain (s : State) (c gs : Nat) : State := release (drainList (grp s c gs).sb [] c gs s) c gs

/-- Drain every group of a core. -/
def drainCore (s : State) (c : Nat) : State := (core s c).groups.foldl (fun s p => drain s c p.1) s

/-! ## Completing an access -/

/-- A later access of the thread keeps the result too: what its registers were before it (R49). -/
def Group.keepResult (g : Group) (a : Acc) : Group :=
  match a.kind with
  | .uload => g
  | _ => { g with accs := g.accs.map (fun b =>
      if a.id < b.id && b.mask.testBit a.th then
        { b with regs := (upTo a.owed.1 a.owed.2).foldl (fun m r => SMap.put 0 m (256 * a.th + r) (g.v a.th r)) b.regs }
      else b) }

/-- An access completes with a value: its register is written, and stores that waited for it may leave. -/
def finish (s : State) (c gs : Nat) (a : Acc) (v : Nat) : State :=
  drain (setGrp s c gs (((writeResult (grp s c gs) a v).keepResult a).dropAcc a.id)) c gs

/-- An access completes, or faults with POISON when its data is damaged (R175). -/
def finishData (s : State) (c gs : Nat) (a : Acc) (v : Nat) (bad : Bool) : State :=
  if bad then lateFault s c gs a 8 else finish s c gs a v

/-- The access of an id. -/
def accAt (s : State) (c gs id : Nat) : Option Acc := (grp s c gs).accs.find? (fun a => a.id == id)

/-- Two accesses to memory meet. -/
def overlaps (p n q m : Nat) : Bool := decide (p < q + m) && decide (q < p + n)

/-- Physical address of an access to this chip's memory. -/
def Acc.memPa (a : Acc) : Option Nat := match a.dest with | .mem p => some p | .thatch p _ => some p | _ => none

/-- No earlier access of the same thread holds this one up: loads are performed in program order (R209 rule 5), an atomic follows the loads of
its bytes (R208, R209 rule 7), and an earlier atomic of the thread on the same bytes comes first (R208). -/
def mayPerform (g : Group) (a : Acc) : Bool :=
  g.accs.all (fun b => !(decide (b.id < a.id) && (b.mask &&& a.mask) != 0) ||
    match b.kind, b.memPa, a.memPa with
    | .load, some p, some q => !(a.kind == .load || a.kind == .uload) && !overlaps p b.size q a.size
    | .uload, some p, some q => !(a.kind == .load || a.kind == .uload) && !overlaps p b.size q a.size
    | .atom _ _ _ _, some p, some q => !overlaps p b.size q a.size
    | _, _, _ => true)

/-- The group has no buffered store of the access's threads to the bytes issued before the access. -/
def noStoreTo (g : Group) (a : Acc) : Bool :=
  g.sb.all (fun e => !(a.mask.testBit e.th && decide (e.id < a.id)) ||
    match e.pa, a.memPa with | some p, some q => !overlaps p e.size q a.size | _, _ => true)

end Sys2Proof.Machine
end

