-- ==== Sys2Proof/Machine/Loss.lean ====
section
/-! DEFINITION. Ends of work: command results, discarded teams, stopped streams and collectives, and the loss of a context
(R54, R250, R345, R349, R350). -/

namespace Sys2Proof.Machine

/-! ## Streams and collectives -/

/-- A stream leaves its slot and frees its Loft range and its read tags; its command ends (R189, R191, R195). -/
def stopStream (s : State) (k status result : Nat) : State :=
  let x := stream s k
  if !x.live then s else
  let s := { s with tags := SMap.keep (fun i => i % 64 != k % 64 || decide (1024 ≤ i)) s.tags }
  endCmd (setStream s k Stream.empty) x.q x.idx status result

/-- A collective is no longer live; its late pieces are still answered (R290). -/
def dropLive (s : State) (cid : Nat) : State :=
  { s with coll := { s.coll with live := s.coll.live.filter (fun x => x.cid != cid), ended := insertNat s.coll.ended cid } }

/-- A live collective ends here, and every other member gets a notice (R291). -/
def cancelLive (s : State) (l : Live) (status : Nat) : State :=
  let s := emit s (.notice 0xFFFF 1 l.cid)
  endCmd (dropLive s l.cid) l.q l.idx status 0

/-! ## Killing work -/

/-- The number of live collectives' and streams' commands aside, a running command that ends when its work is dropped:
WAIT, SIGNAL, UNMAP, COPY and FILL with remote parts (R336). -/
def dropReqs (s : State) (q idx : Nat) : State :=
  pumpReqs { s with fab := { s.fab with reqs := s.fab.reqs.filter (fun r => r.owner != .cmd q idx) } }

/-- Every fetched command of context `c` whose packet satisfies `p` and that has not ended: those not started and those that
only wait end with the status (R345, R349). -/
def killCmds (s : State) (c : Nat) (p : List Byte → Bool) (status : Nat) : State :=
  (queuesOf s c).foldl (fun s q =>
    (queue s q).cmds.foldl (fun s x =>
      if !p x.bytes then s
      else if x.isWaiting then endCmd s q x.idx status 0
      else if x.isRunning && [3, 4, 5, 6, 7, 9].contains (pkOp x.bytes) then endCmd (dropReqs s q x.idx) q x.idx status 0
      else s) s) s

/-- End the work of context `c` whose tag satisfies `p`: commands, teams, streams, collectives. -/
def killWork (s : State) (c : Nat) (p : Nat → Bool) (status : Nat) : State :=
  let s := killCmds s c (fun b => p (pkTag b)) status
  let s := killLaunches s (fun l => l.ctx == c && p l.tag) status
  let s := (upTo 0 64).foldl (fun s k => let x := stream s k
    if x.live && x.ctx == c && p x.tag then stopStream s k status 0 else s) s
  s.coll.live.foldl (fun s l =>
    if l.ctx == c && (match cmdAt s l.q l.idx with | some x => p (pkTag x.bytes) | none => true) then cancelLive s l status else s) s

/-! ## Context loss (R349) -/

/-- The fence slots of a context. -/
def ownedSlots (s : State) (c : Nat) : List Nat :=
  (s.box.fences.filter (fun (x : Nat × Fence) => x.2.owner == some c)).map (fun (x : Nat × Fence) => x.1)

/-- Signal every owned slot with the error flag; one that stands so already is done. -/
def signalOwned (s : State) (c : Nat) : State :=
  (ownedSlots s c).foldl (fun s k => if (fence s k).sig && (fence s k).err then s else signal s k true) s

/-- Share entries that name a slot of the list no longer exist. -/
def dropShares (s : State) (p : Nat × Nat → Bool) : State :=
  { s with box := { s.box with shares := s.box.shares.filter (fun (e : Nat × Option (Nat × Nat)) =>
    match e.2 with | some x => !p x | none => true) } }

/-- Key of word 0 of an export entry. -/
def expPage (i : Nat) : Nat := 0x10 + i / 128
def expOff (i : Nat) : Nat := 0x800 + 16 * (i % 128)

/-- Set CLOSING on the export windows of a context (R250). -/
def closeWindows (s : State) (c : Nat) : State :=
  (upTo 0 1024).foldl (fun s i =>
    let v := reg s (expPage i) (expOff i)
    if bit v 0 && bit v 52 && bits v 51 40 == c then setReg s (expPage i) (expOff i) (v ||| 64) else s) s

/-- No work of the context runs: no team on a core or saved, no remote request, no stream, no collective (R350 step 2). -/
def workGone (s : State) (c : Nat) : Bool :=
  !anyTeam s (fun t => t.ctx == c) && s.box.saved.all (fun x => x.team.ctx != c) && s.fab.reqs.all (fun r => r.ctx != c)
    && (upTo 0 64).all (fun k => !(stream s k).live || (stream s k).ctx != c) && s.coll.live.all (fun l => l.ctx != c)

/-- What follows once no work runs: the owned fences are signalled, in a teardown their share entries are revoked, and the export windows
close (R349 steps 3 and 4, R350 steps 3 to 5). -/
def endSteps (s : State) (c : Nat) : State :=
  if !(ctx s c).due || !workGone s c then s else
  let mine := ownedSlots s c
  let s := signalOwned (setCtx s c { ctx s c with due := false }) c
  let s := if (ctx s c).st = 3 then dropShares s (fun e => mine.contains e.1) else s
  closeWindows s c

/-- Fetch stops on every queue of the context (R349 step 1). -/
def haltQueues (s : State) (c : Nat) : State :=
  (queuesOf s c).foldl (fun s q => setQueue s q { queue s q with halted := true }) s

/-- A context is lost with a status and a fault state. `fault` names the command whose work faulted. Without a record of a core, the
faulting address is the address of the fault (R325). -/
def loseCtx (s : State) (c status : Nat) (pc data info : W64) (fault : Option (Nat × Nat)) : State :=
  let x := ctx s c
  if x.st ≠ 1 then s else
  let s := setCtx s c { x with st := 2, lastLoss := status, fltAddr := if info = 0 then data else pc, fltData := data, fltInfo := info, due := true }
  let s := countBank s x.part 0xE0 1
  let s := match fault with
    | some (q, idx) =>
      let s := updLaunch s q idx (fun l => { l with status := status })
      (match launchAt s q idx with | some _ => s | none => endCmd s q idx status data.toNat)
    | none => s
  endSteps (killWork (haltQueues s c) c (fun _ => true) 1) c

end Sys2Proof.Machine
end

