-- ==== Sys2Proof/Machine/Float.lean ====
section
/-! DEFINITION. Number formats (R126), exact arithmetic on them, and the roundings of chapter 05. A finite value is held
as sign, magnitude m and exponent e, meaning (-1)^s * m * 2^e; every operation is exact and is rounded once at its end. -/

namespace Sys2Proof.Machine

/-- A floating-point format: exponent bits, significand bits, bias, and what its top exponent means (R126). -/
structure Fmt where
  eb   : Nat
  mb   : Nat
  bias : Nat
  spec : Nat      -- 0: infinities and NaN at the all-ones exponent; 1: E4M3, NaN at 0x7F only; 2: ordinary values
  nan  : Nat      -- canonical quiet NaN
  deriving DecidableEq, Repr

def binary64 : Fmt := ⟨11, 52, 1023, 0, 0x7FF8000000000000⟩
def binary32 : Fmt := ⟨8, 23, 127, 0, 0x7FC00000⟩
def binary16 : Fmt := ⟨5, 10, 15, 0, 0x7E00⟩
def bfloat16 : Fmt := ⟨8, 7, 127, 0, 0x7FC0⟩
def e4m3 : Fmt := ⟨4, 3, 7, 1, 0x7F⟩
def e5m2 : Fmt := ⟨5, 2, 15, 0, 0x7F⟩
def e3m2 : Fmt := ⟨3, 2, 3, 2, 0⟩
def e2m3 : Fmt := ⟨2, 3, 1, 2, 0⟩
def e2m1 : Fmt := ⟨2, 1, 1, 2, 0⟩

/-- A decoded value. -/
inductive FV
  | nan
  | inf (s : Bool)
  | fin (s : Bool) (m : Nat) (e : Int)
  deriving DecidableEq, Repr

/-- Width of a format in bits. -/
def Fmt.width (f : Fmt) : Nat := 1 + f.eb + f.mb

/-- Decode an encoding (R126). -/
def Fmt.dec (f : Fmt) (x : Nat) : FV :=
  let m := x % 2 ^ f.mb
  let e := x / 2 ^ f.mb % 2 ^ f.eb
  let s := bit x (f.eb + f.mb)
  if f.spec = 0 ∧ e = 2 ^ f.eb - 1 then (if m = 0 then .inf s else .nan)
  else if f.spec = 1 ∧ e = 2 ^ f.eb - 1 ∧ m = 2 ^ f.mb - 1 then .nan
  else if e = 0 then .fin s m (1 - (f.bias : Int) - f.mb)
  else .fin s (2 ^ f.mb + m) ((e : Int) - f.bias - f.mb)

/-- The sign bit of an encoding. -/
def Fmt.signBit (f : Fmt) (s : Bool) : Nat := if s then 2 ^ (f.eb + f.mb) else 0

/-- Encoding of infinity, and of the largest finite value. -/
def Fmt.infBits (f : Fmt) : Nat := (2 ^ f.eb - 1) * 2 ^ f.mb
def Fmt.maxBits (f : Fmt) : Nat :=
  if f.spec = 0 then f.infBits - 1 else if f.spec = 1 then 2 ^ (f.eb + f.mb) - 2 else 2 ^ (f.eb + f.mb) - 1

/-- Rounding modes (R138); `away` never occurs. -/
inductive RMode | near | zero | up | down
  deriving DecidableEq, Repr

/-- OPMOD [1:0] (R138). -/
def RMode.of (n : Nat) : RMode := if n = 0 then .near else if n = 1 then .zero else if n = 2 then .up else .down

/-- Left shift by a possibly negative amount; a right shift drops bits. -/
def shl (m : Nat) (k : Int) : Nat := if 0 ≤ k then m * 2 ^ k.toNat else m / 2 ^ (-k).toNat

/-- The magnitude, without sign, of m * 2^e (plus something below one unit of m when `sticky`) rounded onto the format's
grid, as encoding bits that may exceed the largest finite encoding. -/
def Fmt.roundMag (f : Fmt) (mode : RMode) (s : Bool) (m : Nat) (e : Int) (sticky : Bool) : Nat :=
  if m = 0 ∧ !sticky then 0 else
  let emin : Int := 1 - (f.bias : Int) - f.mb
  let q : Int := max (e + log2 m - f.mb) emin
  let sh := (q - e).toNat
  let n := shl m (e - q)
  let rem := if q ≤ e then 0 else m % 2 ^ sh
  let inexact := rem ≠ 0 || sticky
  let up : Bool := match mode with
    | .near => 0 < sh && (2 * rem > 2 ^ sh || (2 * rem == 2 ^ sh && (sticky || n % 2 == 1)))
    | .zero => false
    | .up => !s && inexact
    | .down => s && inexact
  let n := if up then n + 1 else n
  if n < 2 ^ f.mb then n else (q - emin).toNat * 2 ^ f.mb + n

/-- Round to a format with infinities; overflow as IEEE 754 states for the mode. -/
def Fmt.round (f : Fmt) (mode : RMode) (s : Bool) (m : Nat) (e : Int) (sticky : Bool) : Nat :=
  let b := f.roundMag mode s m e sticky
  let toInf := match mode with
    | .near => true | .zero => false | .up => !s | .down => s
  f.signBit s + (if f.maxBits < b then (if toInf then f.infBits else f.maxBits) else b)

/-- Round to nearest and saturate at the largest finite value: F2F to E4M3 and E5M2 (R143). -/
def Fmt.roundSat (f : Fmt) (mode : RMode) (s : Bool) (m : Nat) (e : Int) : Nat :=
  f.signBit s + min (f.roundMag mode s m e false) f.maxBits

/-- Signed value as an integer multiple of 2^e. -/
def sgn (s : Bool) (m : Nat) : Int := if s then -(m : Int) else m

/-- Exact sum of two finite values: sign, magnitude, exponent; the sign of a zero sum is the caller's. -/
def addFin (s1 : Bool) (m1 : Nat) (e1 : Int) (s2 : Bool) (m2 : Nat) (e2 : Int) : Int × Int :=
  let e := min e1 e2
  (sgn s1 (shl m1 (e1 - e)) + sgn s2 (shl m2 (e2 - e)), e)

/-- Encode a finite exact sum; a zero sum is -0 when both terms are, or toward -∞ when they differ (IEEE 754). -/
def Fmt.encSum (f : Fmt) (mode : RMode) (s1 s2 : Bool) (v : Int × Int) : Nat :=
  if v.1 = 0 then f.signBit (if s1 = s2 then s1 else mode = .down)
  else f.round mode (decide (v.1 < 0)) v.1.natAbs v.2 false

/-- Sum (R139). -/
def Fmt.add (f : Fmt) (mode : RMode) (a b : FV) : Nat :=
  match a, b with
  | .nan, _ => f.nan | _, .nan => f.nan
  | .inf s, .inf t => if s = t then f.signBit s + f.infBits else f.nan
  | .inf s, .fin _ _ _ => f.signBit s + f.infBits
  | .fin _ _ _, .inf t => f.signBit t + f.infBits
  | .fin s m e, .fin t n d => f.encSum mode s t (addFin s m e t n d)

/-- Exact product as a value. -/
def FV.mul (a b : FV) : FV :=
  match a, b with
  | .nan, _ => .nan | _, .nan => .nan
  | .inf s, .inf t => .inf (s != t)
  | .inf s, .fin t m _ => if m = 0 then .nan else .inf (s != t)
  | .fin s m _, .inf t => if m = 0 then .nan else .inf (s != t)
  | .fin s m e, .fin t n d => .fin (s != t) (m * n) (e + d)

/-- Encode a value, rounding a finite one. -/
def Fmt.enc (f : Fmt) (mode : RMode) : FV → Nat
  | .nan => f.nan
  | .inf s => f.signBit s + f.infBits
  | .fin s m e => f.round mode s m e false

/-- Product, and fused multiply-add, rounded once (R139). -/
def Fmt.mul (f : Fmt) (mode : RMode) (a b : FV) : Nat := f.enc mode (a.mul b)
def Fmt.fma (f : Fmt) (mode : RMode) (a b c : FV) : Nat := f.add mode (a.mul b) c

/-- Quotient (R139). -/
def Fmt.div (f : Fmt) (mode : RMode) (a b : FV) : Nat :=
  match a, b with
  | .nan, _ => f.nan | _, .nan => f.nan
  | .inf _, .inf _ => f.nan
  | .inf s, .fin t _ _ => f.signBit (s != t) + f.infBits
  | .fin s _ _, .inf t => f.signBit (s != t)
  | .fin s m e, .fin t n d =>
    if n = 0 then (if m = 0 then f.nan else f.signBit (s != t) + f.infBits)
    else if m = 0 then f.signBit (s != t)
    else
      let k := f.mb + 4 + log2 n
      let x := m * 2 ^ k
      f.round mode (s != t) (x / n) (e - d - k) (x % n ≠ 0)

/-- Integer square root by bits, from bit `i - 1` down. -/
def isqrtAux (x : Nat) : Nat → Nat → Nat
  | 0, r => r
  | i + 1, r => let r' := r + 2 ^ i
                if r' * r' ≤ x then isqrtAux x i r' else isqrtAux x i r

def isqrt (x : Nat) : Nat := isqrtAux x (log2 x / 2 + 1) 0

/-- Square root (R139). -/
def Fmt.sqrt (f : Fmt) (mode : RMode) (a : FV) : Nat :=
  match a with
  | .nan => f.nan
  | .inf s => if s then f.nan else f.infBits
  | .fin s m e =>
    if m = 0 then f.signBit s else if s then f.nan else
    let odd : Nat := if e % 2 = 0 then 0 else 1
    let k := f.mb + 3
    let x := m * 2 ^ (2 * k + odd)
    let r := isqrt x
    f.round mode false r ((e - odd) / 2 - k) (r * r ≠ x)

/-- Compare two numbers that are not NaN: negative, zero or positive as a is below, at or above b. -/
def FV.cmp (a b : FV) : Int :=
  let key : FV → Int × Int × Int := fun v => match v with
    | .nan => (0, 0, 0)
    | .inf s => (if s then -1 else 1, 0, 0)
    | .fin s m e => (0, sgn s m, e)
  match key a, key b with
  | (ka, ma, ea), (kb, mb, eb) =>
    if ka ≠ kb then ka - kb else if ka ≠ 0 then 0 else
    let e := min ea eb
    ma * 2 ^ (ea - e).toNat - mb * 2 ^ (eb - e).toNat

/-- FMIN or FMAX on encodings: -0 below +0, NaN gives the other (R140). -/
def Fmt.minMax (f : Fmt) (isMax : Bool) (x y : Nat) : Nat :=
  match f.dec x, f.dec y with
  | .nan, .nan => f.nan
  | .nan, _ => y
  | _, .nan => x
  | a, b =>
    let c := a.cmp b
    let less := c < 0 || (c == 0 && bit x (f.eb + f.mb))
    if less != isMax then x else y

/-- Compare of FSETP and DSETP: 0 EQ, 1 NE, 2 LT, 3 LE, 4 GT, 5 GE; a NaN gives NE only (R77, R140). -/
def FV.test (op : Nat) (a b : FV) : Bool :=
  match a, b with
  | .nan, _ => op == 1
  | _, .nan => op == 1
  | a, b =>
    let c := a.cmp b
    if op = 0 then c == 0 else if op = 1 then c != 0 else if op = 2 then c < 0 else if op = 3 then c ≤ 0
    else if op = 4 then c > 0 else c ≥ 0

/-! ## The truncating adder of the array and the collective engines (R131, R132, R144) -/

/-- A partial sum. -/
inductive PS | nan | inf (s : Bool) | fin (s : Bool) (m : Nat) (e : Int)
  deriving DecidableEq, Repr

/-- Keep the `w` most significant bits of a magnitude, truncating toward zero. -/
def truncTo (w m : Nat) (e : Int) : Nat × Int :=
  let l := log2 m + 1
  if l ≤ w then (m, e) else (m / 2 ^ (l - w), e + (l - w : Nat))

/-- R132 steps 3 to 5 on an exact finite sum: 24 bits, flush below 2^-126, saturate. -/
def PS.ofSum (v : Int × Int) : PS :=
  if v.1 = 0 then .fin false 0 0 else
  let s := decide (v.1 < 0)
  let (m, e) := truncTo 24 v.1.natAbs v.2
  let top := e + log2 m
  if top < -126 then .fin false 0 0
  else if 127 < top then .fin s (2 ^ 24 - 1) 104 else .fin s m e

/-- One addition of R132 (steps 3 to 6). -/
def PS.add (p : PS) (x : FV) : PS :=
  match p, x with
  | .nan, _ => .nan
  | _, .nan => .nan
  | .inf s, .inf t => if s = t then .inf s else .nan
  | .inf s, .fin _ _ _ => .inf s
  | .fin _ _ _, .inf t => .inf t
  | .fin s m e, .fin t n d => PS.ofSum (addFin s m e t n d)

/-- The start of an accumulation from a binary32 word; a subnormal is taken as +0 (R132 step 1). -/
def PS.start (x : Nat) : PS :=
  match binary32.dec x with
  | .nan => .nan
  | .inf s => .inf s
  | .fin s m e => if m < 2 ^ 23 then .fin false 0 0 else .fin s m e

/-- The partial sum as a value. -/
def PS.val : PS → FV | .nan => .nan | .inf s => .inf s | .fin s m e => .fin s m e

/-- The binary32 word of a partial sum (R132 step 7); it always fits. -/
def PS.bits (p : PS) : Nat := binary32.enc .zero p.val

/-- A cell's product keeps 16 significant bits (R131). -/
def cellProd (a b : FV) : FV :=
  match a.mul b with
  | .fin s m e => let r := truncTo 16 m e; .fin s r.1 r.2
  | v => v

/-- Truncate a value to a format toward zero, saturating a finite value (R129, R144). -/
def Fmt.trunc (f : Fmt) : FV → Nat
  | .nan => f.nan
  | .inf s => f.signBit s + f.infBits
  | .fin s m e => f.roundSat .zero s m e

/-! ## Conversions (R142, R143) -/

/-- Format codes of R142: none for integers and reserved codes. -/
def fmtOf (c : Nat) : Option Fmt :=
  if c = 0 then some binary32 else if c = 1 then some binary64 else if c = 2 then some binary16
  else if c = 3 then some bfloat16 else if c = 4 then some e4m3 else if c = 5 then some e5m2 else none

/-- Integer codes of R142: width and signedness. -/
def intOf (c : Nat) : Option (Nat × Bool) :=
  if c = 6 then some (8, true) else if c = 7 then some (8, false) else if c = 8 then some (16, true)
  else if c = 9 then some (16, false) else if c = 10 then some (32, true) else if c = 11 then some (32, false)
  else if c = 12 then some (64, true) else if c = 13 then some (64, false) else none

/-- F2F (R143). R136 calls its split exact for every finite binary32 of at least 2^-110 in magnitude, yet its first step rounds one of at
least 2^128 - 2^119 to an infinity by R143's table; the model follows R143 (DESIGN CHOICE, assumption 132). -/
def f2f (src dst : Fmt) (x : Nat) : Nat :=
  match src.dec x with
  | .nan => dst.nan
  | .inf s => if dst.spec = 0 then dst.signBit s + dst.infBits else dst.signBit s + dst.maxBits
  | .fin s m e =>
    if src = dst then x % 2 ^ src.width
    else if dst = e4m3 ∨ dst = e5m2 then dst.roundSat .near s m e else dst.round .near s m e false

/-- Clamp an integer to a width and signedness, as two's complement bits. -/
def satInt (w : Nat) (sg : Bool) (v : Int) : Nat :=
  let lo : Int := if sg then -(2 ^ (w - 1)) else 0
  let hi : Int := if sg then 2 ^ (w - 1) - 1 else 2 ^ w - 1
  ((min (max v lo) hi) % 2 ^ w).toNat

/-- F2I: toward zero, saturating, NaN gives 0 (R143). -/
def f2i (src : Fmt) (w : Nat) (sg : Bool) (x : Nat) : Nat :=
  match src.dec x with
  | .nan => 0
  | .inf s => satInt w sg (if s then -(2 ^ 64) else 2 ^ 64)
  | .fin s m e => satInt w sg (sgn s (shl m e))

/-- The integer a bit pattern of a width and signedness stands for. -/
def intVal (w : Nat) (sg : Bool) (x : Nat) : Int :=
  let v := x % 2 ^ w
  if sg ∧ 2 ^ (w - 1) ≤ v then (v : Int) - 2 ^ w else v

/-- I2F (R143): beyond the finite range, as F2F. -/
def i2f (w : Nat) (sg : Bool) (dst : Fmt) (x : Nat) : Nat :=
  let v := intVal w sg x
  if dst = e4m3 ∨ dst = e5m2 then dst.roundSat .near (decide (v < 0)) v.natAbs 0
  else dst.round .near (decide (v < 0)) v.natAbs 0 false

/-- I2I (R143): saturates; widening with the same signedness is exact. -/
def i2i (w : Nat) (sg : Bool) (w' : Nat) (sg' : Bool) (x : Nat) : Nat := satInt w' sg' (intVal w sg x)

/-! ## MX blocks (R128, R129) -/

/-- The MX element formats in the order of UNPACK (R96): 1 E4M3, 2 E5M2, 3 E3M2, 4 E2M3, 5 E2M1, 6 MXINT8. Element bits. -/
def mxBits (u : Nat) : Nat := if u ≤ 2 then 8 else if u ≤ 4 then 6 else if u = 5 then 4 else 8

/-- Group size in bytes (R128). -/
def mxGroup (u : Nat) : Nat := 128 * mxBits u + 32

/-- The value of an element (R126). -/
def mxElem (u x : Nat) : FV :=
  if u = 1 then e4m3.dec x else if u = 2 then e5m2.dec x else if u = 3 then e3m2.dec x else if u = 4 then e2m3.dec x
  else if u = 5 then e2m1.dec x
  else let v := intVal 8 true x; .fin (decide (v < 0)) v.natAbs (-6)

/-- Decode an element with its scale byte to the output format (R129). -/
def mxDecode (u : Nat) (out : Fmt) (scale x : Nat) : Nat :=
  if scale = 255 then out.nan else
  match mxElem u x with
  | .nan => out.nan
  | .inf s => out.signBit s + out.infBits
  | .fin s m e => out.roundSat .zero s m (e + (scale : Int) - 127)

/-- Element `i` of a group's element bytes (R128): the elements form one little-endian bit string. -/
def mxAt (u : Nat) (grp : List Byte) (i : Nat) : Nat :=
  let w := mxBits u
  let b := w * i / 8
  (leAt grp b 2 >>> (w * i % 8)) % 2 ^ w

/-- The 1,024 values of a group, as 16-bit words (R128, R129). -/
def mxUnpack (u : Nat) (out : Fmt) (grp : List Byte) : List Nat :=
  (upTo 0 1024).map (fun i => mxDecode u out (leAt grp (128 * mxBits u + i / 32) 1) (mxAt u grp i))

end Sys2Proof.Machine
end

