-- ==== Sys2Proof/Machine/Thatch.lean ====
section
/-! DEFINITION. Thatch: bundle index entries, decoding and encoding of bundles (R198 to R204). -/

namespace Sys2Proof.Machine

/-! ## Index entries (R199) -/

def thAddr (e : Nat) : Nat := bits e 31 0 * 256
def thNg (e : Nat) : Nat := bits e 35 32 + 1
def thMode (e : Nat) : Nat := bits e 37 36
def thParam (e : Nat) : Nat := bits e 40 38
def thF16 (e : Nat) : Bool := bit e 41
def thBase (e : Nat) : Nat := bits e 49 42
def thEsc (e : Nat) : Nat := bits e 61 50
def thV (e : Nat) : Bool := bit e 63

/-- Highest PARAM of a mode. -/
def thParamMax (mode : Nat) : Nat := if mode = 0 then 0 else if mode = 1 then 4 else 5

/-- Significand bits of the 16-bit source format, and significand bits kept by T0 and T1 (R200). -/
def sigBits (f16 : Bool) : Nat := if f16 then 10 else 7
def keptBits (mode param : Nat) (f16 : Bool) : Nat := if mode = 0 then sigBits f16 else param + 3

/-- Granules of a coded bundle: T0 and T1 from the width of the significand plane and the escapes, T2 from the format. -/
def codedGran (mode param : Nat) (f16 : Bool) (esc : Nat) : Nat :=
  if mode = 2 then ceilDiv (2 * mxGroup (param + 1)) 256 else ceilDiv (768 + 256 * (1 + keptBits mode param f16) + esc) 256

/-- No reserved value: the fields agree with each other, and the granules lie within one 4 KiB granule of usable memory. -/
def thOk (k : Sku) (e : Nat) : Bool :=
  !bit e 62 && thMode e != 3 && decide (thParam e ≤ thParamMax (thMode e)) && decide (thEsc e ≤ 2048)
    && !(thMode e == 2 && (thBase e != 0 || thEsc e != 0))
    && (thNg e == 16 || thNg e == codedGran (thMode e) (thParam e) (thF16 e) (thEsc e))
    && decide (thAddr e % 4096 + 256 * thNg e ≤ 4096) && decide (thAddr e + 256 * thNg e ≤ k.usable)

/-! ## Decoding (R200, R129) -/

/-- Elements from the code plane, the significand plane and the escapes left; none when the contents contradict the entry. -/
def t01Elems (codes sigs w keep base : Nat) (f16 : Bool) : Nat → Nat → List Byte → Option (List Nat)
  | 0, _, esc => if esc.isEmpty then some [] else none
  | n + 1, i, esc =>
    let c := codes / 2 ^ (3 * i) % 8
    let fld := sigs / 2 ^ (w * i) % 2 ^ w
    let put := fun (x : Nat) (esc' : List Byte) =>
      if x < (if f16 then 32 else 256) then
        (t01Elems codes sigs w keep base f16 n (i + 1) esc').map (fun l =>
          (fld / 2 ^ keep * 2 ^ 15 + x * 2 ^ sigBits f16 + fld % 2 ^ keep * 2 ^ (sigBits f16 - keep)) :: l)
      else none
    if c = 7 then (match esc with | [] => none | x :: t => put x.toNat t)
    else if base < c then none else put (base - c) esc

/-- Two packed groups (R128). -/
def t2Elems (param : Nat) (f16 : Bool) (d : List Byte) : List Nat :=
  let u := param + 1
  let out := if f16 then binary16 else bfloat16
  mxUnpack u out (d.take (mxGroup u)) ++ mxUnpack u out ((d.drop (mxGroup u)).take (mxGroup u))

/-- The 4,096 logical bytes of a bundle from its entry and its stored granules. -/
def thDecode (e : Nat) (d : List Byte) : Option (List Byte) :=
  let f16 := thF16 e
  let vals :=
    if thNg e = 16 then none
    else if thMode e = 2 then some (t2Elems (thParam e) f16 d)
    else
      let keep := keptBits (thMode e) (thParam e) f16
      let w := keep + 1
      t01Elems (ofLE (d.take 768)) (ofLE ((d.drop 768).take (256 * w))) w keep (thBase e) f16 2048 0
        ((d.drop (768 + 256 * w)).take (thEsc e))
  if thNg e = 16 then some d else vals.map (fun l => l.flatMap (toLE 2))

/-- The bundle at index address `ix`: none when it is poisoned data (R175, R199). `si` and `sg` are memory as the reads of the index and of
the granules see it. -/
def thBundle (si sg : State) (ix : Nat) : Option (List Byte) :=
  if poisonIn si ix 8 then none else
  let e := peekLE si ix 8
  if !thV e then some ((upTo 0 4096).map (fun _ => 0))
  else if !thOk si.sku e || poisonIn sg (thAddr e) (256 * thNg e) then none
  else thDecode e (peek sg (thAddr e) (256 * thNg e))

/-- `n` logical bytes from offset `off` of the thatched page whose index block is at `ix` (R202). -/
def thReadBy (si sg : State) (ix off n : Nat) : Option (List Byte) :=
  if n = 0 then some [] else
  let l := (upTo (off / 4096) ((off + n - 1) / 4096 - off / 4096 + 1)).map (fun i => thBundle si sg (ix + 8 * i))
  if l.all Option.isSome then some (((l.flatMap (fun o => o.getD [])).drop (off % 4096)).take n) else none

/-- A read by LD.G, TM.GET or COPY: the index through its home slice, the granules by the Eaves die that holds them (R173, R202). -/
def thRead (s : State) (ix off n : Nat) : Option (List Byte) := thReadBy s (eaves s) ix off n

/-- The reads of one bundle by the die that decodes it: its granules and the bytes decoded count. -/
def thTouch (s : State) (ix off n : Nat) : State :=
  let e := peekLE s (ix + 8 * (off / 4096)) 8
  countMem (if thV e && thOk s.sku e then dieTouchRange s (thAddr e) (256 * thNg e) else s) ix 0xA8 n

/-! ## Encoding (R201, R203) -/

/-- Elements of a 4 KiB bundle. -/
def elems (d : List Byte) : List Nat := (upTo 0 2048).map (fun i => leAt d (2 * i) 2)
def expOf (f16 : Bool) (x : Nat) : Nat := if f16 then bits x 14 10 else bits x 14 7

/-- Elements whose exponent field BASE reaches with codes 0 to 6. -/
def coverage (ex : List Nat) (base : Nat) : Nat := (ex.filter (fun x => decide (x ≤ base) && decide (base ≤ x + 6))).length

/-- The highest BASE among those that make the bundle smallest. -/
def bestBase (ex : List Nat) : Nat :=
  ((upTo 0 256).foldl (fun (b : Nat × Nat) i => let n := coverage ex i; if b.2 ≤ n then (i, n) else b) (0, 0)).1

/-- A number from fields of `w` bits, the first lowest. -/
def packBits (w : Nat) : List Nat → Nat
  | [] => 0
  | x :: t => x % 2 ^ w + 2 ^ w * packBits w t

/-- Coded contents of T0 and T1: BASE, escapes and bytes. -/
def t01Encode (keep : Nat) (f16 : Bool) (v : List Nat) : Nat × Nat × List Byte :=
  let ex := v.map (expOf f16)
  let base := bestBase ex
  let esc := ex.filter (fun x => !(decide (x ≤ base) && decide (base ≤ x + 6)))
  let codes := ex.map (fun x => if x ≤ base ∧ base ≤ x + 6 then base - x else 7)
  let flds := v.map (fun x => x / 2 ^ 15 * 2 ^ keep + x % 2 ^ sigBits f16 / 2 ^ (sigBits f16 - keep))
  (base, esc.length, toLE 768 (packBits 3 codes) ++ toLE (256 * (keep + 1)) (packBits (keep + 1) flds) ++ esc.map (BitVec.ofNat 8))

/-- Exponent of the largest element value of an MX format, emax of R201. -/
def mxEmax (u : Nat) : Int := if u = 1 then 8 else if u = 2 then 15 else if u = 3 then 4 else if u = 4 ∨ u = 5 then 2 else 0

/-- Element format of UNPACK codes 1 to 5. -/
def mxFmt (u : Nat) : Fmt := if u = 1 then e4m3 else if u = 2 then e5m2 else if u = 3 then e3m2 else if u = 4 then e2m3 else e2m1

/-- Floor of the base-2 logarithm of a finite non-zero magnitude m * 2^e. -/
def fvLog (m : Nat) (e : Int) : Int := e + log2 m

/-- The scale byte of a block (R201): 0xFF with a NaN or an unwritable infinity, 127 without a finite non-zero element. -/
def mxScale (u : Nat) (l : List FV) : Nat :=
  if l.any (fun x => match x with | .nan => true | .inf _ => u != 2 | _ => false) then 255
  else
    let ex := l.filterMap (fun x => match x with | .fin _ m e => if m = 0 then none else some (fvLog m e) | _ => none)
    match ex with
    | [] => 127
    | a :: t => (max 0 (t.foldl max a - mxEmax u + 127)).toNat

/-- One element against a scale byte: nearest, ties to even, saturating. -/
def mxEncElem (u scale : Nat) (x : FV) : Nat :=
  match x with
  | .nan => 0
  | .inf s => (mxFmt u).signBit s + (mxFmt u).infBits
  | .fin s m e =>
    let e := e - ((scale : Int) - 127)
    if u = 6 then
      let e6 := e + 6
      let q := if 0 ≤ e6 then m * 2 ^ e6.toNat else
        let d := 2 ^ (-e6).toNat
        let h := m / d
        let r := m % d
        if 2 * r < d then h else if d < 2 * r then h + 1 else h + h % 2
      satInt 8 true (sgn s q)
    else (mxFmt u).roundSat .near s m e

/-- One group of 1,024 elements; `any` gives the element bits of a block with scale 0xFF, which the manual leaves open. -/
def t2Group (u : Nat) (any : Nat → Nat) (l : List FV) : List Byte :=
  let scales := (upTo 0 32).map (fun b => mxScale u ((l.drop (32 * b)).take 32))
  let codes := (upTo 0 1024).map (fun i =>
    let c := nthD 127 scales (i / 32)
    if c = 255 then any i else mxEncElem u c (nthD .nan l i))
  toLE (128 * mxBits u) (packBits (mxBits u) codes) ++ scales.map (BitVec.ofNat 8)

/-- Coded contents of T2. -/
def t2Encode (param : Nat) (f16 : Bool) (any : Nat → Nat) (v : List Nat) : List Byte :=
  let f := if f16 then binary16 else bfloat16
  let l := v.map f.dec
  t2Group (param + 1) any (l.take 1024) ++ t2Group (param + 1) (fun i => any (1024 + i)) (l.drop 1024)

/-- A packed bundle: entry without GADDR, and its granules. `raw` is a listed page of THAT_BYP (R414); `any` fills what the
manual leaves open: elements under scale 0xFF and the bytes after the coded contents. -/
def thEncode (mode param : Nat) (f16 raw : Bool) (any : Nat → Nat) (d : List Byte) : Nat × List Byte :=
  let v := elems d
  let keep := keptBits mode param f16
  let r := if mode = 2 then (0, 0, t2Encode param f16 any v) else t01Encode keep f16 v
  let ng := ceilDiv r.2.2.length 256
  let isRaw := raw || decide (15 < ng)
  let lossy := if mode = 2 then t2Elems param f16 r.2.2 else v.map (fun x => x / 2 ^ (sigBits f16 - keep) * 2 ^ (sigBits f16 - keep))
  let body := if isRaw then lossy.flatMap (toLE 2)
    else r.2.2 ++ (upTo 0 (256 * ng - r.2.2.length)).map (fun i => BitVec.ofNat 8 (any (4096 + i)))
  let ng := if isRaw then 16 else ng
  ((ng - 1) * 2 ^ 32 + mode * 2 ^ 36 + param * 2 ^ 38 + f16.toNat * 2 ^ 41 + (if isRaw then 0 else r.1 * 2 ^ 42 + r.2.1 * 2 ^ 50) + 2 ^ 63,
   body)

end Sys2Proof.Machine
end

