-- ==== Sys2Proof/Machine/Copy.lean ====
section
/-! DEFINITION. Moving data piece by piece: what engine copies and COPY, FILL and PACK share (R205, R231, R260, R440). -/

namespace Sys2Proof.Machine

/-- Where a piece of a transfer lies. -/
inductive Spot
  | fault (kind : Nat) | mem (pa : Nat) | thatch (ix off : Nat) | host (ba : Nat) | remote (chip : Nat)
  deriving DecidableEq, Repr

/-- A piece: its address, its position in the packed data and its length. -/
structure Piece where
  addr : Nat
  pos  : Nat
  len  : Nat
  deriving DecidableEq, Repr

/-- A chip that a route in service reaches, or this one. -/
def reachable (s : State) (chip : Nat) : Bool := chip == chipNo s || (route s 0 chip).isSome

/-- Where an address of context `c` leads for a read or a write of an engine (R156, R245, R246, R253). A read of a host whose link
is down faults (R314). -/
def spot (s : State) (c : Nat) (wr : Bool) (a : Nat) : Spot :=
  let w : W64 := BitVec.ofNat 64 a
  if isLocal w then
    match access s c (if wr then .store else .load) (vaOf w) with
    | .fault k => .fault k
    | .mem p => .mem p
    | .thatch i o => .thatch i o
    | .host b => if !wr && !linkUp s (hostPort s (ctx s c).part) then .fault 1 else .host b
    | .io _ => .fault 2
  else if sysFault s .mem w ≠ 0 then .fault (sysFault s .mem w)
  else if reachable s (w.toNat / 2 ^ 48) then .remote (w.toNat / 2 ^ 48) else .fault 1

/-- The pieces of rows of `rl` bytes with a stride, from packed position `p` to `total`; none crosses a 4 KiB boundary. -/
def pieces (a stride rl : Nat) : Nat → Nat → Nat → List Piece
  | 0, _, _ => []
  | n + 1, p, total =>
    if total ≤ p then [] else
    let at' := (a + p / rl * stride + p % rl) % 2 ^ 64
    let len := min (min (rl - p % rl) (4096 - at' % 4096)) (total - p)
    { addr := at', pos := p, len := len } :: pieces a stride rl n (p + len) total

/-- The pieces with the places they lead to. -/
def spots (s : State) (c : Nat) (wr : Bool) (l : List Piece) : List (Piece × Spot) := l.map (fun q => (q, spot s c wr q.addr))

/-- The first piece that faults, with its kind. -/
def firstFault (l : List (Piece × Spot)) : Option (Nat × Nat) :=
  l.findSome? (fun q => match q.2 with | .fault k => some (k, q.1.addr) | _ => none)

/-- The pieces in another 64 KiB page than the faulting address that can be read or written here (R440). Which other words a stopped
command wrote is open; the model writes none whose other end is a HOST page or another chip (DESIGN CHOICE, assumption 45). -/
def aside (addr : Nat) (l : List (Piece × Spot)) : List (Piece × Spot) :=
  l.filter (fun q => q.1.addr / 65536 != addr / 65536 && match q.2 with | .mem _ => true | .thatch _ _ => true | _ => false)

/-- The remote pieces, by chip. -/
def remotes (l : List (Piece × Spot)) : List (Piece × Nat) :=
  l.filterMap (fun q => match q.2 with | .remote k => some (q.1, k) | _ => none)

/-- Of the bytes [a, a + n) at packed position `pos`, the ranges that lie in sectors marked by `f` (R175). -/
def markRanges (f : Nat → Bool) (a pos n : Nat) : List (Nat × Nat) :=
  (sectorsOf a n).filterMap (fun sec => if f sec then
    let lo := max a (32 * sec)
    some (pos + (lo - a), min (a + n) (32 * sec + 32) - lo) else none)

/-- The damaged ranges of data that a packet brings for address `a`. -/
def pktRanges (marks a pos n : Nat) : List (Nat × Nat) := markRanges (fun sec => bit marks (sec - a / 32)) a pos n

/-- The local bytes of a piece; bytes that come later read 0 here. -/
def pieceBytes (s : State) (q : Piece × Spot) : List Byte :=
  match q.2 with
  | .mem p => peek s p q.1.len
  | .thatch i o => (thRead s i o q.1.len).getD ((upTo 0 q.1.len).map (fun _ => 0))
  | _ => (upTo 0 q.1.len).map (fun _ => 0)

/-- The damaged ranges of a piece's data, 32 B sector by sector, by packed position. -/
def pieceBad (s : State) (q : Piece × Spot) : List (Nat × Nat) :=
  match q.2 with
  | .mem p => markRanges (sectorPoison s) p q.1.pos q.1.len
  | .thatch i o => if (thRead s i o q.1.len).isSome then [] else [(q.1.pos, q.1.len)]
  | _ => []

/-- The shared translation cache holds the pages of the pieces, walked through the L2 where it did not (R157). -/
def noteSpots (s : State) (cx : Nat) (l : List (Piece × Spot)) : State :=
  l.foldl (fun s q => if isLocal (BitVec.ofNat 64 q.1.addr) then noteShared s cx (q.1.addr % 2 ^ 48) else s) s

/-- The reads of a Top-die agent's local pieces: through the home slices; a thatched bundle's index alone (R173, R202). -/
def touchPieces (s : State) (cx : Nat) (l : List (Piece × Spot)) : State :=
  l.foldl (fun s q => match q.2 with
    | .mem p => touchRange s p q.1.len
    | .thatch i o => thTouch (touchRange s (i + 8 * (o / 4096)) 8) i o q.1.len
    | _ => s) (noteSpots s cx l)

/-! ### Agents on an Eaves die (R173, R202) -/

/-- The die that holds a piece: of its granule, of the bundle or of the index entry that names none; host memory lies on no stack, and
the lowest die reads it (assumption 22). -/
def spotDie (s : State) (p : Spot) : Nat :=
  match p with
  | .mem pa => dieOf s.sku (pa / 4096)
  | .thatch ix off =>
    let at' := ix + off / 4096 * 8
    let e := peekLE s at' 8
    dieOf s.sku (if thV e then thAddr e / 4096 else at' / 4096)
  | _ => nthD 0 s.sku.dies 0

/-- Memory as die `e` sees an index entry at `at'`: on its own stacks itself, on another's through the home slice. -/
def indexView (s : State) (e at' : Nat) : State := if dieOf s.sku (at' / 4096) = e then eaves s else s

/-- The bytes and the damaged ranges of a piece as its die reads them. -/
def dieBytes (s : State) (q : Piece × Spot) : List Byte :=
  match q.2 with
  | .mem p => peek (eaves s) p q.1.len
  | .thatch i o => (thReadBy (indexView s (spotDie s q.2) (i + o / 4096 * 8)) (eaves s) i o q.1.len).getD ((upTo 0 q.1.len).map (fun _ => 0))
  | _ => (upTo 0 q.1.len).map (fun _ => 0)
def dieBad (s : State) (q : Piece × Spot) : List (Nat × Nat) :=
  match q.2 with
  | .mem p => markRanges (sectorPoison (eaves s)) p q.1.pos q.1.len
  | .thatch i o => if (thReadBy (indexView s (spotDie s q.2) (i + o / 4096 * 8)) (eaves s) i o q.1.len).isSome then [] else [(q.1.pos, q.1.len)]
  | _ => []

/-- The reads of an Eaves-die agent's local pieces: a probe each, and the stack where the slice holds no dirty line. -/
def dieTouchPieces (s : State) (cx : Nat) (l : List (Piece × Spot)) : State :=
  l.foldl (fun s q => match q.2 with
    | .mem p => dieTouchRange s p q.1.len
    | .thatch i o =>
      let at' := i + 8 * (o / 4096)
      thTouch (if dieOf s.sku (at' / 4096) = spotDie s q.2 then dieTouchRange s at' 8 else touchRange s at' 8) i o q.1.len
    | _ => s) (noteSpots s cx l)

/-- Some damaged range meets [lo, lo + n). -/
def badIn (bad : List (Nat × Nat)) (lo n : Nat) : Bool := bad.any (fun r => overlaps r.1 r.2 lo n)

/-- The marks of the packed bytes [pos, pos + n) sent for address `a`, one for each sector there (R175). -/
def rangeMarks (bad : List (Nat × Nat)) (a pos n : Nat) : Nat :=
  maskOf (((sectorsOf a n).filter (fun sec =>
    let lo := max a (32 * sec)
    badIn bad (pos + (lo - a)) (min (a + n) (32 * sec + 32) - lo))).map (fun sec => sec - a / 32))

/-- Write packed bytes [pos, pos + n) to physical address `pa`, each sector taking the marks of the bytes it receives (R175). -/
def putBytes (s : State) (pa pos : Nat) (d : List Byte) (bad : List (Nat × Nat)) : State :=
  writeMem s pa d (fun sec =>
    let lo := max pa (32 * sec)
    let hi := min (pa + d.length) (32 * sec + 32)
    badIn bad (pos + (lo - pa)) (hi - lo))

/-- One of two values of a word that is read or written while it changes: free (R119, R231; assumption 1). -/
def mixWord (s : State) (k : Nat) (old cur : List Byte) : List Byte :=
  if old = cur then old else if freshBit s k then cur else old

/-- Two runs of bytes mixed word by word; `n` words from index `k` on. -/
def mixBytes (s : State) : Nat → Nat → List Byte → List Byte → List Byte
  | 0, _, _, _ => []
  | n + 1, k, old, cur => mixWord s k (old.take 4) (cur.take 4) ++ mixBytes s n (k + 1) (old.drop 4) (cur.drop 4)

/-- Two runs of bytes that start at address `a`, mixed aligned word by aligned word (R205). -/
def mixAt (s : State) (k a : Nat) (old cur : List Byte) : List Byte :=
  let n := (4 - a % 4) % 4
  (if n = 0 then [] else mixWord s k (old.take n) (cur.take n))
    ++ mixBytes s (ceilDiv (old.length - n) 4) (k + 1) (old.drop n) (cur.drop n)

/-- The parts of [a, a + n) that lie in one aligned word each: start and length. -/
def wordParts (a n : Nat) : List (Nat × Nat) :=
  (upTo (a / 4) (ceilDiv (a + n) 4 - a / 4)).map (fun w => (max a (4 * w), min (a + n) (4 * w + 4) - max a (4 * w)))

/-- Send READs for the remote pieces; answers the state and the requests with the places of their data. -/
def sendReads (s : State) (c : Nat) (o : Owner) (l : List (Piece × Nat)) : State × List (Nat × Nat × Nat) :=
  l.foldl (fun (r : State × List (Nat × Nat × Nat)) q =>
    let x := request r.1 (mkPkt 2 q.2 q.1.addr q.1.len [] 0) c o
    (x.1, r.2 ++ [(x.2.1, q.1.pos, q.1.len)])) (s, [])

/-- Send WRITEs of packed data for the remote pieces. -/
def sendWrites (s : State) (c : Nat) (o : Owner) (d : List Byte) (bad : List (Nat × Nat)) (l : List (Piece × Nat)) :
    State × List (Nat × Nat × Nat) :=
  l.foldl (fun (r : State × List (Nat × Nat × Nat)) q =>
    let x := request r.1 (mkPkt 1 q.2 q.1.addr 0 ((d.drop q.1.pos).take q.1.len) (rangeMarks bad q.1.addr q.1.pos q.1.len)) c o
    (x.1, r.2 ++ [(x.2.1, q.1.pos, q.1.len)])) (s, [])

/-- Drop the requests of an owner: later answers find nothing, and others may leave. -/
def dropOwner (s : State) (o : Owner) : State :=
  pumpReqs { s with fab := { s.fab with reqs := s.fab.reqs.filter (fun r => r.owner != o) } }

end Sys2Proof.Machine
end

