-- ==== Sys2Proof/Machine/Objects.lean ====
section
/-! DEFINITION. Memory objects: backing from a partition's carve-out, translation tables, handles, heaps and arenas (R99, R100,
R153 to R157, R203, R326, R339 to R344). -/

namespace Sys2Proof.Machine

/-! ## Extents of physical memory -/

/-- The parts of [lo, hi) outside the listed (address, length) runs, which rise. -/
def gaps (hi : Nat) : Nat → List (Nat × Nat) → List (Nat × Nat)
  | lo, [] => if lo < hi then [(lo, hi)] else []
  | lo, (a, n) :: t =>
    if a + n ≤ lo then gaps hi lo t
    else if hi ≤ a then (if lo < hi then [(lo, hi)] else [])
    else (if lo < a then [(lo, a)] else []) ++ gaps hi (a + n) t

/-- Insert a run by its address. -/
def insertRun : List (Nat × Nat) → Nat × Nat → List (Nat × Nat)
  | [], x => [x]
  | y :: t, x => if x.1 ≤ y.1 then x :: y :: t else y :: insertRun t x

/-- Join (lo, hi) extents that touch. -/
def joinExt : List (Nat × Nat) → List (Nat × Nat)
  | [] => []
  | (a, b) :: t => match joinExt t with
    | (c, d) :: u => if b = c then (a, d) :: u else (a, b) :: (c, d) :: u
    | [] => [(a, b)]

/-- A 1 GiB range waits for its scrub (R381). -/
def scrubbing (s : State) (r : Nat) : Bool := s.mem.scrubs.any (fun x => x.1 == 2 && x.2.1 == r)

/-- The free extents of partition `p`'s carve-out, rising. -/
def freeExt (s : State) (p : Nat) : List (Nat × Nat) :=
  (joinExt (((carveOf s p).filter (fun r => !scrubbing s r)).map (fun r => (r * 2 ^ 30, (r + 1) * 2 ^ 30)))).flatMap (fun x => gaps x.2 x.1 s.box.alloc)

/-- Take `n` aligned pages of `sz` bytes from extents in the order given; the runs taken, none when they do not suffice. -/
def takeFrom (sz : Nat) : List (Nat × Nat) → Nat → Option (List (Nat × Nat))
  | _, 0 => some []
  | [], _ + 1 => none
  | (lo, hi) :: t, n + 1 =>
    let a := roundUp lo sz
    let k := min (n + 1) ((hi - a) / sz)
    if k = 0 then takeFrom sz t (n + 1) else (takeFrom sz t (n + 1 - k)).map (fun l => (a, k * sz) :: l)

/-- Extents turned so that the search starts at address `b`: where backing lies is open (assumption 1). -/
def turned (b : Nat) (l : List (Nat × Nat)) : List (Nat × Nat) :=
  (l.filterMap (fun x => if b < x.2 then some (max x.1 b, x.2) else none))
    ++ l.filterMap (fun x => if x.1 < b then some (x.1, min x.2 b) else none)

/-- Take `n` pages of `sz` bytes from partition `p`'s carve-out (R326, R339). -/
def takePages (s : State) (p sz n : Nat) : Option (State × List (Nat × Nat)) :=
  let l := freeExt s p
  let b := roundUp (freshNat s 7 % 2 ^ 40) sz
  (match takeFrom sz (turned b l) n with | some r => some r | none => takeFrom sz l n).map (fun (r : List (Nat × Nat)) =>
    ({ useFree s with box := { s.box with alloc := r.foldl insertRun s.box.alloc } }, r))

/-- Give back the runs at the listed addresses. -/
def giveBack (s : State) (l : List Nat) : State :=
  { s with box := { s.box with alloc := s.box.alloc.filter (fun x => !l.contains x.1) } }

/-- Zero a run of device memory with whole-sector writes: no cached copy keeps older data (R99, R339, R350). -/
def zeroRun (s : State) (pa n : Nat) : State :=
  let inRun := fun (lo size : Nat) => overlaps lo size pa n
  { s with
    mem := { s.mem with
      hbm := SMap.keep (fun a => !(pa ≤ a && a < pa + n)) s.mem.hbm
      poison := SMap.keep (fun a => !inRun (32 * a) 32) s.mem.poison
      l2 := s.mem.l2.filter (fun (x : Nat × L2Line) => !inRun (128 * x.2.line) 128)
      putms := s.mem.putms.filter (fun a => !inRun (128 * a.line) 128) }
    cores := s.cores.map (fun (p : Nat × Core) =>
      (p.1, { p.2 with l1 := p.2.l1.filter (fun (x : Nat × L1Line) => !inRun (128 * x.2.line) 128) })) }

/-! ## Translation tables (R153 to R155) -/

/-- A zeroed table of `n` bytes for context `c` from its partition's carve-out. -/
def newTable (s : State) (c n : Nat) : Option (State × Nat) :=
  match takePages s (ctx s c).part n 1 with
  | some (s, r) =>
    let a := match r with | [] => 0 | x :: _ => x.1
    some (writeOk (setCtx s c { ctx s c with tables := a :: (ctx s c).tables }) a ((upTo 0 n).map (fun _ => 0)), a)
  | none => none

/-- Write the leaf `e` at level `target` for `va`, with the tables above it, from level `l` on; `n` levels remain. -/
def putLeaf (c va target e : Nat) : Nat → Nat → State → Nat → Option State
  | 0, _, _, _ => none
  | n + 1, l, s, table =>
    let a := table + 8 * lvlIndex l va
    if l = target then some (writeOk s a (toLE 8 e)) else
    let x := peekLE s a 8
    if bit x 0 && !bit x 1 then putLeaf c va target e n (l + 1) s (entAddr x)
    else match newTable s c (if l = 2 then 256 else 4096) with
      | none => none
      | some (s, t) => putLeaf c va target e n (l + 1) (writeOk s a (toLE 8 (1 + t))) t

/-- Write a leaf, with the table of level 0 where the context has none. -/
def mapLeaf (s : State) (c va psz e : Nat) : Option State :=
  match (ctx s c).root with
  | some t => putLeaf c va (lvlOf psz) e 4 0 s t
  | none =>
    match newTable s c 4096 with
    | none => none
    | some (s, t) => putLeaf c va (lvlOf psz) e 4 0 (setCtx s c { ctx s c with root := some t }) t

/-- Write `n` leaves from `va` on, with the entries `f` gives. -/
def mapLeaves (c psz : Nat) (f : Nat → Nat) : Nat → Nat → Nat → State → Option State
  | 0, _, _, s => some s
  | n + 1, i, va, s => match mapLeaf s c va psz (f i) with
    | none => none
    | some s => mapLeaves c psz f n (i + 1) (va + psz) s

/-- Clear the leaf of `va`. -/
def clearLeaf (va target : Nat) : Nat → Nat → State → Nat → State
  | 0, _, s, _ => s
  | n + 1, l, s, table =>
    let a := table + 8 * lvlIndex l va
    let x := peekLE s a 8
    if l = target then writeOk s a (toLE 8 0)
    else if bit x 0 && !bit x 1 then clearLeaf va target n (l + 1) s (entAddr x) else s

/-- Remove a mapping: its leaves, and every cached translation of it (R157). -/
def unmapRange (s : State) (c : Nat) (m : Mapping) : State :=
  match (ctx s c).root with
  | none => s
  | some t => dropXlat ((upTo 0 (m.size / m.psz)).foldl (fun s i => clearLeaf (m.va + i * m.psz) (lvlOf m.psz) 4 0 s t) s) c m.va m.size

/-- The instruction caches forget physical lines that a mapping makes executable (R83). -/
def dropIcache (s : State) (pa n : Nat) : State :=
  { s with cores := s.cores.map (fun (p : Nat × Core) =>
      (p.1, { p.2 with icache := p.2.icache.filter (fun (x : Nat × Nat) => !overlaps (128 * (x.2 - 1)) 128 pa n) })) }

/-! ## Handles (R337, R340, R341) -/

/-- The value of an object's handle. -/
def Obj.handle (o : Obj) : Nat := o.index + 65536 * o.gen

/-- The object of a live handle of context `c`. -/
def objOf (s : State) (c h : Nat) : Option Obj := (ctx s c).objs.find? (fun o => o.handle == h && !o.dead)

/-- Change the object of a handle. -/
def updObj (s : State) (c h : Nat) (f : Obj → Obj) : State :=
  let x := ctx s c
  setCtx s c { x with objs := mapFirst (fun o => o.handle == h) f x.objs }

/-- An index that no object holds and that is not retired. Which one MAP issues is open: the search starts anywhere (assumption 20). -/
def newIndex (x : Ctx) (b : Nat) : Option Nat :=
  ((upTo 0 (x.objs.length + x.gens.length + 1)).map (fun i => (b + i) % 65535 + 1)).find? (fun i =>
    x.objs.all (fun o => o.index != i) && decide (SMap.get 0 x.gens i < 0xFFFF))

/-- The ranges `maps` cover [va, va + n). -/
def coverFrom (maps : List Mapping) (hi : Nat) : Nat → Nat → Bool
  | 0, va => decide (hi ≤ va)
  | k + 1, va => decide (hi ≤ va) || (match maps.find? (fun m => decide (m.va ≤ va) && decide (va < m.va + m.size)) with
    | some m => coverFrom maps hi k (m.va + m.size) | none => false)
def Obj.covers (o : Obj) (va n : Nat) : Bool := coverFrom o.maps (va + n) o.maps.length va

/-- The object of a handle, live or dead: a command keeps the objects it pinned (R341). -/
def objAny (s : State) (c h : Nat) : Option Obj := (ctx s c).objs.find? (fun o => o.handle == h)

/-- Handle `h` covers the `n` bytes at a context address (R337). -/
def covered (s : State) (c h : Nat) (a : W64) (n : Nat) : Bool :=
  isLocal a && match objAny s c h with | some o => o.covers (vaOf a) n | none => false

/-- Add an object to the context; its index keeps its generation. -/
def addObj (s : State) (c : Nat) (o : Obj) : State := let x := ctx s c; setCtx s c { x with objs := x.objs ++ [o] }

/-- No mapping of the context meets the range. -/
def rangeFree (x : Ctx) (va n : Nat) : Bool := x.objs.all (fun o => o.maps.all (fun m => !overlaps m.va m.size va n))

/-! ## The heap (R99, R100, R343) -/

/-- The class of a request: a power of two of at least 256. -/
def blockClass (n : Nat) : Nat := if n ≤ 256 then 256 else 2 ^ (log2 (n - 1) + 1)

/-- The largest free blocks inside the block of 2^k bytes at `a`, rising; halves join when both are free. -/
def freeIn (live : List (Nat × Nat)) : Nat → Nat → List (Nat × Nat)
  | 0, _ => []
  | k + 1, a =>
    if live.all (fun b => !overlaps b.1 b.2 a (2 ^ (k + 8))) then [(a, 2 ^ (k + 8))]
    else if live.any (fun b => decide (b.1 ≤ a) && decide (a + 2 ^ (k + 8) ≤ b.1 + b.2)) then []
    else freeIn live k a ++ freeIn live k (a + 2 ^ (k + 7))

/-- The free blocks of a HEAP object. -/
def Obj.freeBlocks (o : Obj) : List (Nat × Nat) :=
  let top := min 30 (log2 o.size)
  (upTo 0 (o.size / 2 ^ top)).flatMap (fun i => freeIn o.blocks (top - 7) (o.target + i * 2 ^ top))

/-- The block that serves a class: the lowest of the smallest size that suffices, halved down to its lowest part. -/
def Obj.pick (o : Obj) (cls : Nat) : Option Nat :=
  (o.freeBlocks.foldl (fun (b : Option (Nat × Nat)) x =>
    if x.2 < cls then b else match b with
      | none => some x
      | some y => if x.2 < y.2 ∨ x.2 = y.2 ∧ x.1 < y.1 then some x else b) none).map (fun x => x.1)

/-- The live HEAP objects of a context. -/
def heaps (x : Ctx) : List Obj := x.objs.filter (fun o => o.kind == 1 && !o.dead)

/-- Some region can supply the class. -/
def canSupply (x : Ctx) (cls : Nat) : Bool := (heaps x).any (fun o => (o.pick cls).isSome)

/-- The block that region `r` of the context supplies. -/
def regionPick (x : Ctx) (r cls : Nat) : Option (Obj × Nat) :=
  match (heaps x).find? (fun o => o.region == r) with
  | some o => (o.pick cls).map (fun a => (o, a))
  | none => none

/-- Region `r` serves a request of a class; none when it cannot. The result is the block's virtual address. -/
def heapTake (s : State) (c r cls : Nat) : Option (State × Nat) :=
  match regionPick (ctx s c) r cls with
  | some (o, a) => some (updObj s c o.handle (fun o => { o with blocks := (a, cls) :: o.blocks }), a)
  | none => none

/-- The HEAP object with a live block that starts at `va`. -/
def blockAt (x : Ctx) (va : Nat) : Option Obj := (heaps x).find? (fun o => o.blocks.any (fun b => b.1 == va))

/-- Return a block to the heap. -/
def heapFree (s : State) (c va : Nat) : State :=
  match blockAt (ctx s c) va with
  | some o => updObj s c o.handle (fun o => { o with blocks := o.blocks.filter (fun b => b.1 != va) })
  | none => s

/-! ## The Thatch arena (R198, R203, R344) -/

/-- The free extents of the context's arena, rising. -/
def arenaFree (x : Ctx) : List (Nat × Nat) :=
  let ar := x.objs.filter (fun o => o.kind == 2 && !o.dead)
  let used := ar.flatMap (fun o => o.grans)
  ((ar.flatMap (fun o => o.backing)).foldl insertRun []).flatMap (fun b => gaps (b.1 + b.2) b.1 (used.foldl insertRun []))

/-- The arena object that holds an address. -/
def arenaOf (x : Ctx) (pa : Nat) : Option Obj :=
  x.objs.find? (fun o => o.kind == 2 && o.backing.any (fun b => decide (b.1 ≤ pa) && decide (pa < b.1 + b.2)))

/-- Mark arena bytes used, or free. -/
def arenaUse (s : State) (c pa n : Nat) : State :=
  match arenaOf (ctx s c) pa with
  | some o => updObj s c o.handle (fun o => { o with grans := (pa, n) :: o.grans })
  | none => s
def arenaGive (s : State) (c pa : Nat) : State :=
  match arenaOf (ctx s c) pa with
  | some o => updObj s c o.handle (fun o => { o with grans := o.grans.filter (fun g => g.1 != pa) })
  | none => s

/-- An index block of `n` bytes at an address aligned to `align`: the lowest (the manual leaves which open; assumption 20). -/
def takeIndex (s : State) (c n align : Nat) : Option (State × Nat) :=
  (((arenaFree (ctx s c)).filterMap (fun x => if roundUp x.1 align + n ≤ x.2 then some (roundUp x.1 align) else none)).head?).map
    (fun a => (arenaUse s c a n, a))

/-- Where a run of `n` granules can lie: the lowest place in each 4 KiB granule of a free extent; every stack is among the first
ones of an extent and the rest of it. -/
def runPlaces (k : Sku) (n : Nat) (x : Nat × Nat) : List Nat :=
  let g0 := x.1 / 4096
  let g1 := (x.2 - 1) / 4096
  let gs := upTo g0 (min (g1 - g0 + 1) (2 * k.stacks + 3)) ++ (if g0 + 2 * k.stacks + 3 ≤ g1 then [g1] else [])
  gs.filterMap (fun g =>
    let a := roundUp (max x.1 (4096 * g)) 256
    if a + 256 * n ≤ min x.2 (4096 * (g + 1)) then some a else none)

/-- The granules of a bundle of `n`: on the source's stack, else on its die, else anywhere, the lowest place in each class
(R203 step 3). -/
def takeRun (s : State) (c n : Nat) (near : Option Nat) : Option (State × Nat) :=
  let l := (arenaFree (ctx s c)).flatMap (runPlaces s.sku n)
  let pick := match near with
    | none => l.head?
    | some pa =>
      match l.find? (fun a => hbmcOf s.sku (a / 4096) == hbmcOf s.sku (pa / 4096)) with
      | some a => some a
      | none => match l.find? (fun a => dieOf s.sku (a / 4096) == dieOf s.sku (pa / 4096)) with
        | some a => some a
        | none => l.head?
  pick.map (fun a => (arenaUse s c a (256 * n), a))

/-! ## Freeing objects (R341, R350) -/

/-- The granules that the index entries of a THATCHED object name go back to the arena, and its index blocks. -/
def freeThatched (s : State) (c : Nat) (o : Obj) : State :=
  o.backing.foldl (fun s b =>
    arenaGive ((upTo 0 (b.2 / 8)).foldl (fun s i =>
      let e := peekLE s (b.1 + 8 * i) 8
      if thV e then arenaGive s c (thAddr e) else s) s) c b.1) s

/-- Remove an object: its mappings, and its backing. -/
def dropObj (s : State) (c : Nat) (o : Obj) : State :=
  let s := o.maps.foldl (fun s m => unmapRange s c m) s
  let s := if o.kind = 3 then freeThatched s c o else if o.kind ≤ 2 then giveBack s (o.backing.map (fun b => b.1)) else s
  setCtx s c { ctx s c with objs := (ctx s c).objs.filter (fun x => x.handle != o.handle) }

/-- Some fetched command of the context that has not completed names the handle. -/
def pinned (s : State) (c h : Nat) : Bool :=
  (queuesOf s c).any (fun q => (queue s q).cmds.any (fun x => x.pins.contains h))

end Sys2Proof.Machine
end

