-- ==== Sys2Proof/Machine/Directory.lean ====
section
/-! DEFINITION. The directory of the home slices (R166 to R171), the requests it serves, and atomics at the home (R85, R257). -/

namespace Sys2Proof.Machine

/-! ## Entries -/

def dirKey (line w : Nat) : Nat := (homeOf line * 512 + dirSet line) * 16 + w
def dirAt (s : State) (line w : Nat) : DirEnt := SMap.get DirEnt.empty s.mem.dir (dirKey line w)
def setDir (s : State) (line w : Nat) (e : DirEnt) : State :=
  { s with mem := { s.mem with dir := SMap.put DirEnt.empty s.mem.dir (dirKey line w) e } }

/-- The way of the directory that holds a line's entry. -/
def dirFind (s : State) (line : Nat) : Option Nat :=
  (upTo 0 16).find? (fun w => (dirAt s line w).used && (dirAt s line w).line == line)
/-- A line's entry; unused when there is none (state N). -/
def dirOf (s : State) (line : Nat) : DirEnt := match dirFind s line with | some w => dirAt s line w | none => DirEnt.empty
/-- Change a line's entry. -/
def updDir (s : State) (line : Nat) (e : DirEnt) : State :=
  match dirFind s line with | some w => setDir s line w e | none => s
/-- State N. -/
def freeDir (s : State) (line : Nat) : State := updDir s line DirEnt.empty

/-- The cores an entry records. -/
def DirEnt.holders (e : DirEnt) : List Nat := match e.st with | .s m => maskBits 144 m | .x o => [o]

/-! ## Waiting requests -/

/-- Requests that wait in a slice, in arrival order. -/
def waitingAt (s : State) (sl : Nat) : List (Nat × Req) := SMap.get [] s.mem.waiting sl
def setWaiting (s : State) (sl : Nat) (l : List (Nat × Req)) : State :=
  { s with mem := { s.mem with waiting := SMap.put [] s.mem.waiting sl l } }

/-- A line that takes no new request: its entry is in B, an entry is being freed for it, or a request for it waits. -/
def blocked (s : State) (line : Nat) : Bool :=
  (dirOf s line).busy.isSome || (waitingAt s (homeOf line)).any (fun x => x.1 == line)

/-- An entry is being evicted to make room for `line`. -/
def evictingFor (s : State) (line : Nat) : Bool :=
  (upTo 0 16).any (fun w => match (dirAt s line w).busy with
    | some b => (match b.req with | .evict _ n => n == line | _ => false) | none => false)

/-- The request is already in service or waiting. -/
def requested (s : State) (line : Nat) (r : Req) : Bool :=
  (waitingAt s (homeOf line)).contains (line, r)
    || (match (dirOf s line).busy with | some b => b.req == r | none => false)

/-! ## Messages -/

def sendMsgs (s : State) (line : Nat) (cores : List Nat) (k : MsgKind) : State :=
  { s with mem := { s.mem with msgs := s.mem.msgs ++ cores.map (fun c => { core := c, line := line, kind := k, sent := s.time.ccRun }) } }

def isFwd : MsgKind → Bool | .fwdS _ => true | .fwdX _ => true | _ => false

/-- The line enters B: a request waits for the answers of `cores`. -/
def await (s : State) (line : Nat) (r : Req) (cores : List Nat) (k : MsgKind) : State :=
  sendMsgs (updDir s line { dirOf s line with busy := some { req := r, await := cores, fwd := isFwd k } }) line cores k

/-! ## Atomics (R84, R85) -/

/-- The new value of an atomic of `w` bits: 0 ADD, 1 MIN, 2 MAX, 3 EXCH, 4 CAS. -/
def atomNew (op w : Nat) (sg : Bool) (old b c : Nat) : Nat :=
  if op = 0 then (old + b) % 2 ^ w
  else if op = 1 then (if intVal w sg old ≤ intVal w sg b then old else b)
  else if op = 2 then (if intVal w sg old ≤ intVal w sg b then b else old)
  else if op = 3 then b
  else if old = b then c else old

/-- A thread's atomic at the home: nothing is performed on damaged data (R175). -/
def atomHere (s : State) (c gs : Nat) (a : Acc) : State :=
  match a.kind, a.dest with
  | .atom op sg b d, .mem pa =>
    let s := touchRange s pa a.size
    if poisonIn s pa a.size then lateFault s c gs a 8 else
    let old := peekLE s pa a.size
    let s := writeOk s pa (toLE a.size (atomNew op (8 * a.size) sg old b d))
    finish s c gs a old
  | _, _ => s

/-- A remote atomic at the home: it is answered with the old value. -/
def atomRemote (s : State) (src op : Nat) (wide sg : Bool) (pa b d txid : Nat) : State :=
  let n := if wide then 8 else 4
  let s := touchRange s pa n
  let q : Pkt := { mkPkt 3 (chipNo s) pa op [] 0 with src := src, txid := txid % 4096, pseq := txid / 4096 }
  let part := carve s (pa / 2 ^ 30)
  if poisonIn s pa n then answerKept s q part 3 [] else
  let old := peekLE s pa n
  answerKept (writeOk s pa (toLE n (atomNew op (8 * n) sg old b d))) q part 0 (toLE n old)

/-! ## Serving (R167) -/

/-- Finish a bypass read: the data comes from the L2 (R79, R167). -/
def bypReadDone (s : State) (c gs id : Nat) : State :=
  match accAt s c gs id with
  | some a => (match a.dest with
    | .mem pa =>
      let s := touchRange s pa a.size
      finishData s c gs a (ofLE (forwardMem (grp s c gs) a.th a.id pa (peek s pa a.size))) (poisonIn s pa a.size)
    | _ => s)
  | none => s

/-- Finish a bypass write: the data goes into the L2. -/
def bypWriteDone (s : State) (c gs : Nat) (e : StEnt) : State :=
  match e.pa with
  | some pa => drain (dropSb (writeOk s pa (toLE e.size e.data)) c gs e.id) c gs
  | none => s

/-- What a request does once no other copy stands in its way. The home supplies the sectors of `mask`; an upgrade by a core that is a sharer
now needs none (R167). -/
def grant (s : State) (line : Nat) (r : Req) (mask : Nat) : State :=
  let keep := fun (s : State) (st : DirSt) => updDir s line { used := true, line := line, st := st, busy := none }
  match r with
  | .getS c => (match (dirOf s line).st with
      | .s m => drainCore (l1Fill (keep s (.s (m ||| 2 ^ c))) c line .s mask) c
      | .x o => if o = c then drainCore (l1Fill (keep s (.x c)) c line .e mask) c
                else drainCore (l1Fill (keep s (.s (2 ^ o ||| 2 ^ c))) c line .s mask) c)
  | .getX c => (match (dirOf s line).st with
      | .s m => if bit m c then drainCore (updL1 (keep s (.x c)) c line (fun x => { x with st := .e })) c
                else drainCore (l1Fill (keep s (.x c)) c line .e mask) c
      | .x _ => drainCore (l1Fill (keep s (.x c)) c line .e mask) c)
  | .bypR c gs id =>
    let e := dirOf s line
    let s := if e.used then keep s (match e.st with | .x o => .s (2 ^ o) | st => st) else s
    bypReadDone s c gs id
  | .bypW c gs e => bypWriteDone (freeDir s line) c gs e
  | .atom c gs id => (match accAt (freeDir s line) c gs id with
      | some a => atomHere (freeDir s line) c gs a
      | none => freeDir s line)
  | .ratom src op wide sg addr b d txid => atomRemote (freeDir s line) src op wide sg addr b d txid
  | .evict _ _ => freeDir s line

/-- Put a new entry for a line in X with owner `c`, or start freeing one (R170). Where the victim is in B itself, which the manual does not
treat, the request waits at the front of the slice's queue until a line leaves B; it takes no other way, and an LFSR does not step (DESIGN
CHOICE, assumption 124). -/
def allocDir (s : State) (line c : Nat) (r : Req) : State :=
  match (upTo 0 16).find? (fun w => !(dirAt s line w).used) with
  | some w =>
    let s := setDir s line w { used := true, line := line, st := .x c, busy := none }
    grant (touchWay s (instDir (homeOf line)) (dirSet line) 4 w) line r 15
  | none =>
    let (s', w) := victim s (instDir (homeOf line)) (dirSet line) 4
    let v := dirAt s line w
    let s'' := setWaiting s' (homeOf line) ((line, r) :: waitingAt s' (homeOf line))
    if v.busy.isSome then setWaiting s (homeOf line) ((line, r) :: waitingAt s (homeOf line))
    else await s'' v.line (.evict v.line line) v.holders (match v.st with | .s _ => .inval | .x _ => .toI)

/-- The partition of core `c` runs in compatibility mode (R168). -/
def compat (s : State) (c : Nat) : Bool :=
  match corePart s c with | some p => bit (reg s 9 0x80) p | none => false

/-- Serve a request for a line that is not blocked (R167, R168). -/
def serve (s : State) (line : Nat) (r : Req) : State :=
  let e := dirOf s line
  if !e.used then
    match r with
    | .getS c => allocDir s line c r
    | .getX c => allocDir s line c r
    | _ => grant s line r 15
  else
    let s := match dirFind s line with
      | some w => touchWay s (instDir (homeOf line)) (dirSet line) 4 w | none => s
    match r, e.st with
    | .getS _, .s _ => grant s line r 15
    | .getS c, .x o => if o = c then grant s line r 15
        else if compat s c then await s line r [o] (.fwdS c) else await s line r [o] .toS
    | .getX c, .s m =>
      let others := (maskBits 144 m).filter (fun o => o != c)
      if others.isEmpty then grant s line r 15 else await s line r others .inval
    | .getX c, .x o => if o = c then grant s line r 15
        else if compat s c then await s line r [o] (.fwdX c) else await s line r [o] .toI
    | .bypR _ _ _, .s _ => grant s line r 15
    | .bypR _ _ _, .x o => await s line r [o] .toS
    | .evict _ _, _ => s
    | _, .s m => await s line r (maskBits 144 m) .inval
    | _, .x o => await s line r [o] .toI

/-- A request arrives at its home slice: it is served, or waits behind the line's B state; a full queue holds it back. -/
def arrive (s : State) (line : Nat) (r : Req) : State :=
  if blocked s line then
    (if (waitingAt s (homeOf line)).length < 256 then setWaiting s (homeOf line) (waitingAt s (homeOf line) ++ [(line, r)]) else s)
  else serve s line r

/-- After a line left B: serve the waiting requests of the slice whose lines are free, in arrival order, each at most once. -/
def retryAll : List (Nat × Req) → State → State
  | [], s => s
  | (line, r) :: t, s =>
    let sl := homeOf line
    let w := waitingAt s sl
    match w.find? (fun x => x.1 == line) with
    | some (_, r') =>
      if r' = r ∧ (dirOf s line).busy.isNone ∧ !evictingFor s line then
        retryAll t (serve (setWaiting s sl (dropFirst (fun x => x == (line, r)) w)) line r)
      else retryAll t s
    | none => retryAll t s

/-- The last answer arrived: the request is granted, with the sectors of `mask` from the home, and waiting ones are served. -/
def complete (s : State) (line : Nat) (r : Req) (mask : Nat) : State :=
  let s := updDir s line { dirOf s line with busy := none }
  let s := grant s line r mask
  retryAll (waitingAt s (homeOf line)) s

end Sys2Proof.Machine
end

