-- ==== Sys2Proof/Machine/Coherence.lean ====
section
/-! DEFINITION. The commands of the coherent domain and of memory's agents (R22, R151, R166 to R178). -/

namespace Sys2Proof.Machine

/-! ## Requests of a core -/

/-- A group of core `c` waits for a load of the line that its L1 cannot serve. -/
def wantsRead (s : State) (c line : Nat) : Bool :=
  let x := l1Line s c line
  (core s c).groups.any (fun p => p.2.accs.any (fun a =>
    (a.kind == .load || a.kind == .uload) && a.policy != 2 && match a.dest with
      | .mem pa => pa / 128 == line && !(x.st != .i && bit x.valid (pa % 128 / 32))
      | _ => false))

/-- A group of core `c` holds a store to a line that the core does not own. -/
def wantsOwn (s : State) (c line : Nat) : Bool :=
  (core s c).groups.any (fun p => p.2.sb.any (fun e => match e.dest with
    | .l1 pa => pa / 128 == line && !ownsLine s c pa
    | _ => false))

/-- The messages of a core to a slice that are on their way. -/
def sentBy (s : State) (c sl : Nat) : List Ans := (s.mem.putms ++ s.mem.answers).filter (fun a => a.core == c && homeOf a.line == sl)

/-- A request of core `c` follows its earlier messages to the line's slice: they arrive in the order sent (R166). -/
def inOrder (s : State) (c line : Nat) : Bool := (sentBy s c (homeOf line)).isEmpty

/-- The message is the next of its core to its slice. -/
def Ans.isNext (s : State) (a : Ans) : Bool := (sentBy s a.core (homeOf a.line)).all (fun b => decide (a.seq ≤ b.seq))

/-- A request of core `c` for the line can reach the home slice and be answered (R22, R166). -/
def mayAsk (s : State) (c line : Nat) : Bool := inOrder s c line && lineServes s line

/-- The memory system runs: the chip is in SERVICE or its rails are up and it has not failed. -/
def memUp (s : State) : Bool := s.pow.power == .active && s.pow.hbmDone

def canGets (s : State) (c line : Nat) : Bool :=
  memUp s && s.sku.core c && wantsRead s c line && mayAsk s c line && !requested s line (.getS c) && !requested s line (.getX c)
def execGets (c line : Nat) (s : State) : Res :=
  .next (if canGets s c line then arrive s line (.getS c) else s)

def canGetx (s : State) (c line : Nat) : Bool :=
  memUp s && s.sku.core c && wantsOwn s c line && mayAsk s c line && !requested s line (.getS c) && !requested s line (.getX c)
def execGetx (c line : Nat) (s : State) : Res :=
  .next (if canGetx s c line then arrive s line (.getX c) else s)

/-- Write the dirty sectors of a message into the L2. -/
def takeDirty (s : State) (a : Ans) : State :=
  (maskBits 4 a.dirty).foldl (fun s i =>
    l2WriteSector s (4 * a.line + i) 0 ((a.data.drop (32 * i)).take 32) (bit a.poison i)) s

/-- The first write-back of the core for the line. -/
def putmOf (s : State) (c line : Nat) : Option Ans := s.mem.putms.find? (fun a => a.core == c && a.line == line)

/-- PutM: the owner's entry becomes N; otherwise the entry stays as it is, in B too (R167, R169). -/
def takePutm (s : State) (c line : Nat) (a : Ans) : State :=
  let s := { s with mem := { s.mem with putms := dropFirst (fun b => b.core == c && b.line == line) s.mem.putms } }
  let s := takeDirty s a
  let e := dirOf s line
  if e.used ∧ e.busy.isNone ∧ e.st = .x c then freeDir s line else s
def execPutm (c line : Nat) (s : State) : Res :=
  match putmOf s c line with
  | some a => .next (if a.isNext s then takePutm s c line a else s)
  | none => .next s

/-! ## L1-bypass accesses and atomics -/

/-- An access that may go to its home as a bypass read. -/
def bypReadable (s : State) (c gs id : Nat) : Option Nat :=
  match accAt s c gs id with
  | some a => (match a.dest with
    | .mem pa => if memUp s && (a.kind == .load || a.kind == .uload) && a.policy == 2 && mayPerform (grp s c gs) a
        && mayAsk s c (pa / 128) && !requested s (pa / 128) (.bypR c gs id) then some (pa / 128) else none
    | _ => none)
  | none => none
def execL1BypassRead (c gs id : Nat) (s : State) : Res :=
  match bypReadable s c gs id with
  | some line => .next (arrive s line (.bypR c gs id))
  | none => .next s

/-- A buffered store that may go to its home as a bypass write: the oldest of its thread. -/
def bypWritable (s : State) (c gs id : Nat) : Option (Nat × StEnt) :=
  let g := grp s c gs
  match g.sb.find? (fun e => e.id == id) with
  | some e => (match e.dest with
    | .bypass pa => if memUp s && e.clear g && mayAsk s c (pa / 128) && g.sb.all (fun x => !(x.th == e.th && decide (x.id < e.id)))
        && !requested s (pa / 128) (.bypW c gs e) then some (pa / 128, e) else none
    | _ => none)
  | none => none
def execL1BypassWrite (c gs id : Nat) (s : State) : Res :=
  match bypWritable s c gs id with
  | some (line, e) => .next (arrive s line (.bypW c gs e))
  | none => .next s

/-- An atomic that may go to its home: earlier accesses of the thread to the bytes are done, and earlier atomics of the group
on them, in ascending sr.tid (R85). -/
def atomReady (s : State) (c gs id : Nat) : Option Nat :=
  let g := grp s c gs
  match accAt s c gs id with
  | some a => (match a.kind, a.dest with
    | .atom _ _ _ _, .mem pa =>
      if memUp s && mayPerform g a && noStoreTo g a && mayAsk s c (pa / 128) && !requested s (pa / 128) (.atom c gs id)
          && g.accs.all (fun b => !decide (b.id < a.id) || match b.kind, b.memPa with
              | .atom _ _ _ _, some q => !overlaps pa a.size q b.size | _, _ => true)
      then some (pa / 128) else none
    | _, _ => none)
  | none => none
def execAtomicAtHome (c gs id : Nat) (s : State) : Res :=
  match atomReady s c gs id with
  | some line => .next (arrive s line (.atom c gs id))
  | none => .next s

/-! ## A core's answers (R167 to R169) -/

/-- The first message to the core about the line that `p` accepts. -/
def msgOf (s : State) (c line : Nat) (p : MsgKind → Bool) : Option Msg :=
  s.mem.msgs.find? (fun m => m.core == c && m.line == line && p m.kind)
def dropMsg (s : State) (m : Msg) : State :=
  { s with mem := { s.mem with msgs := dropFirst (fun x => x == m) s.mem.msgs } }
def sendAns (s : State) (a : Ans) : State :=
  { s with mem := { s.mem with answers := s.mem.answers ++ [{ a with seq := s.mem.msgSeq }], msgSeq := s.mem.msgSeq + 1 } }

/-- What core `c` answers about a line: its dirty sectors, or that it holds no copy. -/
def ansOf (s : State) (c line : Nat) : Ans :=
  let x := l1Line s c line
  { core := c, line := line, copy := x.st != .i, valid := x.valid, dirty := x.dirty, poison := x.poison, data := x.data, seq := 0 }

/-- The copy becomes S and clean, or goes. -/
def toS (s : State) (c line : Nat) : State := updL1 s c line (fun x => { x with st := .s, dirty := 0 })
def toI (s : State) (c line : Nat) : State := updL1 s c line (fun _ => L1Line.empty)

/-- A core takes a recall or an invalidation and answers. -/
def answerRecall (s : State) (c line : Nat) (m : Msg) : State :=
  let s := sendAns (dropMsg s m) (ansOf s c line)
  match m.kind with | .toS => toS s c line | _ => toI s c line
def execRecall (c line : Nat) (s : State) : Res :=
  match msgOf s c line (fun k => !isFwd k) with
  | some m => .next (answerRecall s c line m)
  | none => .next s

/-- An owner takes a forward: the requester gets the sectors it holds, the slice its dirty ones (R168). -/
def answerForward (s : State) (c line : Nat) (m : Msg) : State :=
  let x := l1Line s c line
  let s := sendAns (dropMsg s m) (ansOf s c line)
  match m.kind with
  | .fwdS r =>
    let s := toS s c line
    if x.st = .i then s else drainCore (l1Supply s r line .s x.valid x.poison x.data) r
  | .fwdX r =>
    let s := toI s c line
    if x.st = .i then s else drainCore (l1Supply s r line .e x.valid x.poison x.data) r
  | _ => s
def execForward (c line : Nat) (s : State) : Res :=
  match msgOf s c line isFwd with
  | some m => .next (answerForward s c line m)
  | none => .next s

/-- An answer may reach the slice: the core's earlier messages to it have, its write-backs of the line among them (R166, R169). -/
def ansReady (s : State) (c line : Nat) : Option Ans :=
  s.mem.answers.find? (fun a => a.core == c && a.line == line && a.isNext s)

/-- The slice takes an answer; the last one ends state B. After a forward the slice supplies the sectors that the owner did not hold
(R168). -/
def takeAnswer (s : State) (c line : Nat) (a : Ans) : State :=
  let s := { s with mem := { s.mem with answers := dropFirst (fun b => b == a) s.mem.answers } }
  let s := takeDirty s a
  match (dirOf s line).busy with
  | none => s
  | some b =>
    let left := b.await.filter (fun o => o != c)
    if left.isEmpty then complete s line b.req (if b.fwd && a.copy then 15 - a.valid % 16 else 15)
    else updDir s line { dirOf s line with busy := some { b with await := left } }
def execDirectoryAnswer (c line : Nat) (s : State) : Res :=
  match ansReady s c line with
  | some a => .next (takeAnswer s c line a)
  | none => .next s

/-- A message to the core has been unanswered for 2^20 cc; the interval does not pass under the Curtain (R171, R395). -/
def unanswered (s : State) (c line : Nat) : Bool :=
  !s.dbg.raised && s.mem.msgs.any (fun m => m.core == c && m.line == line && decide (m.sent + 2 ^ 20 ≤ s.time.ccRun))
def execRecallTimeout (c line : Nat) (s : State) : Res :=
  .next (if unanswered s c line then chipFatal s 8 2 (homeOf line) line else s)

/-! ## Agents outside coherence (R172 to R174) -/

/-- The slice's answer to a probe: the line when it holds it dirty; otherwise the die reads its stack. -/
def probe (s : State) (die line : Nat) : State :=
  let dirty := match l2Find s line with | some w => (l2At s line w).dirty != 0 | none => false
  { s with mem := { s.mem with probe := some (die, line, dirty, if dirty then peek s (128 * line) 128 else []) } }
def execAgentProbe (die line : Nat) (s : State) : Res :=
  .next (if memUp s && s.sku.die die && decide (128 * line < s.sku.memBytes) then probe s die line else s)

/-- An agent's write goes into the L2 and leaves every L1 as it is (R173, R174). -/
def execAgentWrite (addr : Nat) (data : List Byte) (poisoned : Bool) (s : State) : Res :=
  .next (if memUp s && decide (addr + data.length ≤ s.sku.memBytes) then writeMem s addr data (fun _ => poisoned) else s)

/-! ## The shared buffer pool (R151) -/

/-- Entries of a channel, of all channels of a die, and the overflow region's. -/
def poolOf (s : State) (die ch : Nat) : Nat := SMap.get 0 s.mem.pool (die * 128 + ch)
def poolTotal (s : State) (die : Nat) : Nat := ((upTo 0 128).map (poolOf s die)).foldl (· + ·) 0
def setPool (s : State) (die ch n : Nat) : State := { s with mem := { s.mem with pool := SMap.put 0 s.mem.pool (die * 128 + ch) n } }
def overOf (s : State) (die : Nat) : Nat := SMap.get 0 s.mem.overflow die
def setOver (s : State) (die n : Nat) : State := { s with mem := { s.mem with overflow := SMap.put 0 s.mem.overflow die n } }

/-- The first waiting channel after the last served one, among those below 1,024 entries; an element 128 + c is channel c with
accepted write data. -/
def nextChannel (s : State) (die : Nat) (waiting : List Nat) : Option Nat :=
  let last := SMap.get 0 s.mem.poolLast die
  ((upTo 1 128).map (fun k => (last + k) % 128)).find? (fun c =>
    (waiting.contains c || waiting.contains (128 + c)) && decide (poolOf s die c < 1024))

/-- Entries come back, then one waiting channel receives an entry; with the pool full, write data parks in the overflow
region while it has room. -/
def poolGrant (s : State) (die : Nat) (waiting freed : List Nat) : State :=
  let s := freed.foldl (fun s c =>
    if c < 128 then setPool s die c (poolOf s die c - 1) else setOver s die (overOf s die - 1)) s
  if poolTotal s die < 4096 then
    match nextChannel s die waiting with
    | some c => let s := setPool s die c (poolOf s die c + 1)
                { s with mem := { s.mem with poolLast := SMap.put 0 s.mem.poolLast die c } }
    | none => s
  else if waiting.any (fun c => 128 ≤ c) ∧ overOf s die < 16384 then setOver s die (overOf s die + 1) else s
def execPoolEntryGrant (die : Nat) (waiting freed : List Nat) (s : State) : Res :=
  .next (if s.sku.die die && memUp s then poolGrant s die waiting freed else s)

/-! ## Errors -/

/-- The patrol reaches a granule: corrected errors are counted, uncorrectable ones poison their sectors and are logged
(R178). The lists hold sector numbers within the granule. -/
def patrol (s : State) (granule : Nat) (corr unc : List Nat) : State :=
  let s := corr.foldl (fun s i => corrected s 6 (hbmcOf s.sku granule) i) s
  unc.foldl (fun s i =>
    let sec := 128 * granule + i
    note { s with mem := { s.mem with poison := SMap.put false s.mem.poison sec true, patrol := s.mem.patrol ++ [32 * sec] } }
      6 (hbmcOf s.sku granule) 0 0x10 none none 0 i) s
def execPatrolScrub (granule : Nat) (corr unc : List Nat) (s : State) : Res :=
  .next (if memUp s && !s.dbg.raised && decide (4096 * granule < s.sku.memBytes) && (corr ++ unc).all (fun i => i < 128)
         then patrol s granule corr unc else s)

/-- The fitted part of a block type: core, L2 slice, mesh, die-to-die port, Eaves die, memory controller; else instance 0. -/
def partFitted (k : Sku) (type inst : Nat) : Bool :=
  if type = 1 then k.core inst else if type = 2 then decide (inst < 48) else if type = 4 ∨ type = 5 then k.die inst
  else if type = 6 then k.hbmc inst else inst == 0

/-- The block types that a chip-fatal code comes from: no other error is chip-fatal (R27, R389). -/
def fatalTypes (code : Nat) : List Nat :=
  if code = 1 then [4] else if code = 2 then [5, 6, 3, 2] else if code = 3 then [5, 6, 4, 3, 2] else if code = 4 then [6]
  else if code = 5 then [1] else if code = 6 ∨ code = 7 ∨ code = 8 then [2] else if code = 9 then [17]
  else if code = 10 then [14, 16] else []
def execChipFatalError (code type inst addr : Nat) (s : State) : Res :=
  .next (if (s.pow.power == .active || s.pow.power == .idle) && (fatalTypes code).contains type && partFitted s.sku type inst then chipFatal s code type inst addr else s)

/-- Retransmissions of a die-to-die port that have failed in a row (R22). -/
def d2dFails (s : State) (e : Nat) : Nat := SMap.get 0 s.mem.d2dFail e
def setD2d (s : State) (e n : Nat) (retraining : Bool) : State :=
  { s with mem := { s.mem with d2dFail := SMap.put 0 s.mem.d2dFail e n, d2dUp := SMap.put false s.mem.d2dUp e retraining } }

/-- A flit fails its check, and the sender sends it again from its retry buffer. `again` tells a retransmission that failed from the first
failure of another flit, before which the earlier one got through. -/
def crcFail (s : State) (e : Nat) (again : Bool) : State :=
  if s.sku.die e && !d2dBusy s e then setD2d (corrected s 4 e 0) e (if again then d2dFails s e + 1 else 0) false else s
def execD2dFlitCrcFail (f : D2dFlit) (s : State) : Res := .next (crcFail s f.die f.again)

/-- A retrain begins and ends with Carousel event 0x11, to which the manual gives no ARG for this unit: 1 at the start, 2 at the success
(DESIGN CHOICE, assumption 122). -/
def execD2dRetrain (e : Nat) (lostLock : Bool) (s : State) : Res :=
  .next (if s.sku.die e && !d2dBusy s e && (lostLock || decide (16 ≤ d2dFails s e)) then
    note (setD2d s e (d2dFails s e) true) 4 e 0 0x11 none none 0 1 else s)
def execD2dRetrainComplete (e : Nat) (ok : Bool) (s : State) : Res :=
  .next (if d2dBusy s e then
    (if ok then note (setD2d s e 0 false) 4 e 0 0x11 none none 0 2 else chipFatal s 1 4 e e) else s)

end Sys2Proof.Machine
end

