-- ==== Sys2Proof/Machine/Integer.lean ====
section
/-! DEFINITION. Integer instructions, major 0x01 (R77, R141). -/

namespace Sys2Proof.Machine

/-! ## The operations on w-bit values, w 32 or 64; results wrap (R141) -/

def iAdd (w a b : Nat) : Nat := (a + b) % 2 ^ w
def iSub (w a b : Nat) : Nat := (a + 2 ^ w - b % 2 ^ w) % 2 ^ w
/-- The low half of the product, or the high half of the signed or unsigned product. -/
def iMul (w : Nat) (sg hi : Bool) (a b : Nat) : Nat :=
  ((intVal w sg a * intVal w sg b) / (if hi then 2 ^ w else 1) % 2 ^ w).toNat
def iMin (w : Nat) (sg : Bool) (a b : Nat) : Nat := if intVal w sg a ≤ intVal w sg b then a else b
def iMax (w : Nat) (sg : Bool) (a b : Nat) : Nat := if intVal w sg a ≤ intVal w sg b then b else a
/-- a as a two's complement value whatever OPMOD [1]; the most negative value stays (R141). -/
def iAbs (w a : Nat) : Nat := (((intVal w true a).natAbs : Int) % 2 ^ w).toNat
def iNot (w a : Nat) : Nat := 2 ^ w - 1 - a % 2 ^ w
/-- Shift left by b mod w. -/
def iShl (w a b : Nat) : Nat := a * 2 ^ (b % w) % 2 ^ w
/-- Shift right by b mod w, filling with the sign when arithmetic. -/
def iShr (w : Nat) (ar : Bool) (a b : Nat) : Nat := (intVal w ar a / 2 ^ (b % w) % 2 ^ w).toNat
def iPopc (w a : Nat) : Nat := ((upTo 0 w).filter (fun i => bit a i)).length
def iClz (w a : Nat) : Nat := if a % 2 ^ w = 0 then w else w - 1 - log2 (a % 2 ^ w)

/-! ## Operand forms -/

/-- OPMOD [0]: number of 32-bit words of the operands. -/
def wN (f : Fields) : Nat := if bit f.opmod.toNat 0 then 2 else 1
/-- OPMOD [1]: signed, or arithmetic. -/
def opSg (f : Fields) : Bool := bit f.opmod.toNat 1
/-- OPMOD [2]: high half. -/
def opHi (f : Fields) : Bool := bit f.opmod.toNat 2

def shBin (n mods : Nat) : Shape := ⟨.v n, .v n, .v n, .un, .b, mods, .vec⟩
def shTer (n mods : Nat) : Shape := ⟨.v n, .v n, .v n, .v n, .b, mods, .vec⟩
def shUn (n mods : Nat) : Shape := ⟨.v n, .v n, .un, .un, .a, mods, .vec⟩

/-- vD := fn width a b. -/
def intBin (mods : Nat) (fn : Nat → Nat → Nat → Nat) (x : Issue) (s : State) : Res :=
  let n := wN x.f
  let sh := shBin n mods
  issueLanes sh true x s (fun g t => setDst x.f g t n (fn (32 * n) (srcA sh x.f g t n) (srcB sh x.f g t n)))

/-- vD := fn width a. -/
def intUn (fn : Nat → Nat → Nat) (x : Issue) (s : State) : Res :=
  let n := wN x.f
  let sh := shUn n 3
  issueLanes sh true x s (fun g t => setDst x.f g t n (fn (32 * n) (srcA sh x.f g t n)))

/-! ## Meanings -/

def execIadd (x : Issue) (s : State) : Res := intBin 3 iAdd x s
def execIsub (x : Issue) (s : State) : Res := intBin 3 iSub x s
def execImul (x : Issue) (s : State) : Res := intBin 7 (fun w => iMul w (opSg x.f) (opHi x.f)) x s
/-- The chosen half of a * b, plus c (DEDUCED, assumption 11: c is added to the high half too). -/
def execImad (x : Issue) (s : State) : Res :=
  let n := wN x.f
  let sh := shTer n 7
  issueLanes sh true x s (fun g t =>
    setDst x.f g t n (iAdd (32 * n) (iMul (32 * n) (opSg x.f) (opHi x.f) (srcA sh x.f g t n) (srcB sh x.f g t n))
      (srcC x.f g t n)))
def execImin (x : Issue) (s : State) : Res := intBin 3 (fun w => iMin w (opSg x.f)) x s
def execImax (x : Issue) (s : State) : Res := intBin 3 (fun w => iMax w (opSg x.f)) x s
def execIabs (x : Issue) (s : State) : Res := intUn iAbs x s
def execAnd (x : Issue) (s : State) : Res := intBin 3 (fun _ a b => a &&& b) x s
def execOr (x : Issue) (s : State) : Res := intBin 3 (fun _ a b => a ||| b) x s
def execXor (x : Issue) (s : State) : Res := intBin 3 (fun _ a b => a ^^^ b) x s
def execNot (x : Issue) (s : State) : Res := intUn iNot x s
def execShl (x : Issue) (s : State) : Res := intBin 3 iShl x s
def execShr (x : Issue) (s : State) : Res := intBin 3 (fun w => iShr w (opSg x.f)) x s
def execPopc (x : Issue) (s : State) : Res := intUn iPopc x s
def execClz (x : Issue) (s : State) : Res := intUn iClz x s

end Sys2Proof.Machine
end

