-- ==== Sys2Proof/Machine/Memory.lean ====
section
/-! DEFINITION. Memory instructions, majors 0x08 to 0x0A (R79 to R85, R439): global memory, tile memory, register pages, L1
maintenance and atomics. A load waits in its group until LOAD_RETURN, a store in the store buffer until it may leave. -/

namespace Sys2Proof.Machine

/-! ## Shapes -/

/-- 32-bit registers of an access of OPMOD's size. -/
def accRegs (f : Fields) : Nat := (accSize f + 3) / 4
/-- A size field of 0 to 4 and a defined policy (R79). -/
def accOk (f : Fields) : Bool := decide (f.opmod.toNat % 8 ≤ 4) && (bits f.opmod.toNat 5 4 != 3)
/-- 4 B and 8 B only (R81). -/
def ioOk (f : Fields) : Bool := f.opmod.toNat % 8 == 2 || f.opmod.toNat % 8 == 3
/-- A uniform register holds store data of up to 8 B (R79). -/
def dataOk (f : Fields) : Bool := !(f.ub && f.opmod.toNat % 8 == 4)
/-- OPMOD [5:4]. -/
def policyOf (f : Fields) : Nat := bits f.opmod.toNat 5 4
/-- OPMOD [3]. -/
def sxOf (f : Fields) : Bool := bit f.opmod.toNat 3

def shLdG (f : Fields) : Shape := ⟨.v (accRegs f), .v 2, .un, .un, .off, 0x3F, .vec⟩
def shStG (f : Fields) : Shape := ⟨.un, .v 2, .v (accRegs f), .un, .off, 0x3F, .vec⟩
def shLdT (f : Fields) : Shape := ⟨.v (accRegs f), .v 1, .un, .un, .off, 0xF, .vec⟩
def shStT (f : Fields) : Shape := ⟨.un, .v 1, .v (accRegs f), .un, .off, 0xF, .vec⟩
def shLdIo (f : Fields) : Shape := ⟨.v (accRegs f), .v 2, .un, .un, .off, 7, .vec⟩
def shStIo (f : Fields) : Shape := ⟨.un, .v 2, .v (accRegs f), .un, .off, 7, .vec⟩
def shUld : Shape := ⟨.u, .u, .un, .un, .off, 0x3F, .uni⟩
def shRange : Shape := ⟨.un, .v 2, .v 1, .un, .none, 0, .vec⟩
def shAtom (n : Nat) (cas : Bool) (mods : Nat) : Shape := ⟨.v n, .v 2, .v n, if cas then .v n else .un, .none, mods, .vec⟩

/-- The data of a store (R69, R79). -/
def storeVal (f : Fields) (g : Group) (t n : Nat) : Nat :=
  (if f.ub then (g.u f.srcb.toNat).toNat
   else if f.srcb = 0xFF then 0
   else ((upTo 0 ((n + 3) / 4)).map (fun i => (g.v t (f.srcb.toNat + i)).toNat * 2 ^ (32 * i))).foldl (· + ·) 0) % 2 ^ (8 * n)

/-! ## Records -/

/-- Record an outstanding access of the threads `l`; `old` is the group before the instruction issued. -/
def addAcc (s : State) (x : Issue) (old : Group) (l : List Nat) (kind : AccKind) (addr : W64) (dest : Dest) (n dst : Nat) : State :=
  let k := core s x.core
  let a : Acc := { id := k.order, kind := kind, th := nthD 0 l 0, mask := maskOf l, addr := addr, dest := dest, size := n
                   sx := sxOf x.f, policy := policyOf x.f, dst := dst, data := none, poison := false, ins := old.issues
                   before := l.map (fun t => (t, old.thr t)), regs := regsOf old l }
  let g := grp s x.core x.gslot
  setCore s x.core { k with order := k.order + 1, groups := SMap.put Group.empty k.groups x.gslot { g with accs := g.accs ++ [a] } }

/-- The accesses that a store of thread `t` to this chip's memory follows: earlier loads, and earlier atomics on its bytes
(R208, R209 rule 6). -/
def storeAfter (g : Group) (t pa n : Nat) : List Nat :=
  (g.accs.filter (fun a => a.mask.testBit t && match a.kind, a.memPa with
    | .load, some _ => true | .uload, some _ => true
    | .atom _ _ _ _, some q => overlaps pa n q a.size | _, _ => false)).map (fun a => a.id)

/-- Put a store into the group's store buffer, and let what can leave it leave. -/
def addStore (s : State) (x : Issue) (t : Nat) (dest : StTo) (addr : W64) (n data : Nat) (after : List Nat) : State :=
  let k := core s x.core
  let e : StEnt := { id := k.order, th := t, dest := dest, addr := addr, size := n, data := data, policy := policyOf x.f, after := after }
  let g := grp s x.core x.gslot
  drain (setCore s x.core { k with order := k.order + 1
                                   groups := SMap.put Group.empty k.groups x.gslot { g with sb := g.sb ++ [e] } }) x.core x.gslot

/-- The id that the next access of a core gets. -/
def nextAcc (s : State) (c : Nat) : Nat := (core s c).order

/-- The core's L1 holds the sector. -/
def l1Holds (s : State) (c pa : Nat) : Bool :=
  let l := l1Line s c (pa / 128)
  l.st != .i && bit l.valid (pa % 128 / 32)

/-- Count an L1 hit or miss (R404). -/
def countL1 (s : State) (x : Issue) (pa policy : Nat) : State :=
  if policy = 2 then s else pmcG s x.core x.gslot (if l1Holds s x.core pa then 4 else 5) 1

/-- The L1 lookup of a load: a hit is counted and is the line's newest use (R161, R163, R165); a miss uses its line when it is filled. -/
def lookL1 (s : State) (x : Issue) (pa policy : Nat) : State :=
  let t := countL1 s x pa policy
  if policy ≠ 2 ∧ l1Holds s x.core pa then l1Touch t x.core (pa / 128) policy else t

/-! ## Remote accesses of threads (R208, R212, R254, R256) -/

/-- The unanswered remote requests of a thread. -/
def ownReqs (s : State) (c gs t : Nat) : List RReq :=
  s.fab.reqs.filter (fun r => match r.owner with
    | .store k g u => k == c && g == gs && u == t
    | .thread k g a => k == c && g == gs && (match accAt s c gs a with | some b => b.mask.testBit t | none => false)
    | _ => false)

/-- Requests whose bytes share a 32 B sector. -/
def sameSector (r : RReq) (a : W64) (n : Nat) : Bool :=
  let len := if r.pkt.kind = 2 then r.pkt.op else if r.pkt.kind = 3 then 8 else r.pkt.data.length
  r.pkt.dst == a.toNat / 2 ^ 48 && overlaps (r.pkt.addr / 32) ((r.pkt.addr % 32 + len + 31) / 32)
    (a.toNat / 32) ((a.toNat % 32 + n + 31) / 32)

/-- A remote access of thread `t` waits for its own earlier ones to the sector: a read for writes and atomics, a write or
atomic for reads. -/
def remoteClear (s : State) (c gs t : Nat) (rd : Bool) (a : W64) (n : Nat) : Bool :=
  (ownReqs s c gs t).all (fun r => (if rd then r.pkt.kind == 2 else r.pkt.kind != 2) || !sameSector r a n)

/-- Every acting lane's remote access may issue now: none waits for an earlier one to its sector. -/
def remoteReady (s : State) (x : Issue) (rd : Bool) (n : Nat) (addr : Nat → W64) : Bool :=
  match gate s x with
  | none => true
  | some set =>
    let l := (acting x.f (grp s x.core x.gslot) set).filter (fun t => !isLocal (addr t))
    l.all (fun t => remoteClear s x.core x.gslot t rd (addr t) n)

/-- The words a remote read asks for: whole aligned 4 B words (R241). -/
def readBase (a : W64) (n : Nat) : Nat := if n < 4 then a.toNat / 4 * 4 else a.toNat

/-- Operation word of an ATOMIC: operation, width, signedness (DESIGN CHOICE, assumption 16). -/
def atomWord (op : Nat) (wide sg : Bool) : Nat := op + 8 * wide.toNat + 16 * sg.toNat

/-- A posted write of a retired instruction failed: the context is lost and keeps the system address (R259). -/
def postedLoss (s : State) (c gs status : Nat) (addr : W64) : State :=
  let g := grp s c gs
  let t := tm s c g.tslot
  loseCtx s g.ctx status 0 addr 0 (some (t.q, t.idx))

/-- A remote READ or ATOMIC of an access. -/
def remoteAcc (s : State) (x : Issue) (old : Group) (l : List Nat) (kind : AccKind) (addr : W64) (n dst : Nat) (p : Pkt) : LaneRes :=
  let r := request s p old.ctx (.thread x.core x.gslot (nextAcc s x.core))
  if r.2.2 then .ok (pmcG (addAcc r.1 x old l kind addr (.remote r.2.1) n dst) x.core x.gslot 8 1) else .fault 1 (some addr)

/-- A remote WRITE of a lane. -/
def remoteStore (s : State) (x : Issue) (old : Group) (t : Nat) (addr : W64) (data : List Byte) : LaneRes :=
  let r := request s (mkPkt 1 (addr.toNat / 2 ^ 48) addr.toNat 0 data 0) old.ctx (.store x.core x.gslot t)
  if r.2.2 then .ok (pmcG r.1 x.core x.gslot 8 1) else .ok (postedLoss s x.core x.gslot 5 addr)

/-! ## Global memory (R79, R439) -/

/-- One load of the threads `l` from `a`; one from a host whose link is down faults (R314). -/
def loadOne (x : Issue) (old : Group) (kind : AccKind) (dst n : Nat) (a : W64) (s : State) (l : List Nat) : LaneRes :=
  if a.toNat % n ≠ 0 then .fault 3 (some a)
  else if isLocal a then
    let s' := noteXlat s x.core old.ctx (vaOf a)
    match access s old.ctx .load (vaOf a) with
    | .fault k => .fault k (some a)
    | .mem pa => .ok (addAcc (lookL1 s' x pa (policyOf x.f)) x old l kind a (.mem pa) n dst)
    | .thatch i o => .ok (addAcc s' x old l kind a (.thatch i o) n dst)
    | .host ba =>
      if linkUp s (hostPort s (ctx s old.ctx).part)
      then .ok (emitHost (addAcc s' x old l kind a (.host ba) n dst) (ctx s old.ctx).part (.hostRead ba n))
      else .fault 1 (some a)
    | .io _ => .fault 2 (some a)
  else if sysFault s .mem a ≠ 0 then .fault (sysFault s .mem a) (some a)
  else remoteAcc s x old l kind a n dst (mkPkt 2 (a.toNat / 2 ^ 48) (readBase a n) (max 4 n) [] 0)

def ldgLane (x : Issue) (old : Group) (s : State) (t : Nat) : LaneRes :=
  loadOne x old .load x.f.dst.toNat (accSize x.f) (memAddr x.f old t (accSize x.f)) s [t]
def execLdG (x : Issue) (s : State) : Res :=
  let old := grp s x.core x.gslot
  issueMem (shLdG x.f) (accOk x.f) (remoteReady s x true (accSize x.f) (fun t => memAddr x.f old t (accSize x.f))) x s (ldgLane x old)

/-- ULD.G: one load for the set; a fault is every thread's (R439). -/
def execUldG (x : Issue) (s : State) : Res :=
  let old := grp s x.core x.gslot
  let n := accSize x.f
  let a := memAddr x.f old 0 n
  issue shUld (accOk x.f && decide (n ≤ 8) && x.f.ua) (remoteReady s x true n (fun _ => a)) x s (fun s' set _ =>
    match loadOne x old .uload x.f.dst.toNat n a s' set with
    | .ok s'' => s''
    | .fault k ad =>
      issueFaults (setGrp s' x.core x.gslot (restoreLanes old (grp s' x.core x.gslot) set)) x old (set.map (fun t => (t, k, ad))) 0)

/-- One store of a lane (R79, R209, R213, R254). -/
def stgLane (x : Issue) (old : Group) (s : State) (t : Nat) : LaneRes :=
  let n := accSize x.f
  let a := memAddr x.f old t n
  let v := storeVal x.f old t n
  if a.toNat % n ≠ 0 then .fault 3 (some a)
  else if isLocal a then
    let s' := noteXlat s x.core old.ctx (vaOf a)
    match access s old.ctx .store (vaOf a) with
    | .fault k => .fault k (some a)
    | .mem pa =>
      let to' := if policyOf x.f = 2 then StTo.bypass pa else StTo.l1 pa
      .ok (addStore (countL1 s' x pa (policyOf x.f)) x t to' a n v (storeAfter (grp s x.core x.gslot) t pa n))
    | .host ba => .ok (emitHost s' (ctx s old.ctx).part (.hostWrite ba (toLE n v) false))
    | _ => .fault 2 (some a)
  else if sysFault s .mem a ≠ 0 then .fault (sysFault s .mem a) (some a)
  else remoteStore s x old t a (toLE n v)
def execStG (x : Issue) (s : State) : Res :=
  let old := grp s x.core x.gslot
  issueMem (shStG x.f) (accOk x.f && dataOk x.f)
    (remoteReady s x false (accSize x.f) (fun t => memAddr x.f old t (accSize x.f))) x s (stgLane x old)

/-! ## Tile memory (R80, R210, R442) -/

/-- The 32-bit offset in vA or uA, plus the offset. -/
def tileAddr (f : Fields) (g : Group) (t n : Nat) : W64 := BitVec.ofNat 64 (regVal g t f.ua f.srca.toNat 1) + memOff f n

/-- The cycles of one LD.T or ST.T beyond the first: rows per bank (R80). -/
def bankExtra (l : List Nat) : Nat :=
  let rows := l.foldl (fun r a => insertNat r (a / 64)) []
  (upTo 0 16).foldl (fun m b => max m ((rows.filter (fun r => r % 16 == b)).length)) 1 - 1

/-- Count the cycles that bank conflicts cost (R404 event 0x10). -/
def countBanks (x : Issue) (old : Group) (s : State) (act : List Nat) : State :=
  pmcG s x.core x.gslot 0x10 (bankExtra (act.map (fun t => (tileAddr x.f old t (accSize x.f)).toNat)))

/-- Issue of LD.T and ST.T. -/
def tileExec (sh : Shape) (ok : Bool) (x : Issue) (s : State) (f : Group → State → Nat → LaneRes) : Res :=
  let old := grp s x.core x.gslot
  issue sh ok true x s (fun s' _ act => laneBody x old (f old) (countBanks x old s' act) act)

def sttLane (x : Issue) (old : Group) (s : State) (t : Nat) : LaneRes :=
  let n := accSize x.f
  let a := tileAddr x.f old t n
  if a.toNat % n ≠ 0 then .fault 3 (some a)
  else if tileSize (tm s x.core old.tslot) ≤ a.toNat then .fault 1 (some a)
  else .ok (addStore s x t .tile a n (storeVal x.f old t n) [])
def execStT (x : Issue) (s : State) : Res := tileExec (shStT x.f) (accOk x.f && dataOk x.f) x s (sttLane x)

/-! ## Register pages (R81) -/

def ldioLane (x : Issue) (old : Group) (s : State) (t : Nat) : LaneRes :=
  let n := accSize x.f
  let a := memAddr x.f old t n
  if a.toNat % n ≠ 0 then .fault 3 (some a)
  else if isLocal a then
    match access s old.ctx .ldio (vaOf a) with
    | .fault k => .fault k (some a)
    | .io off => .ok (addAcc (noteXlat s x.core old.ctx (vaOf a)) x old [t] .ldio a (.io off) n x.f.dst.toNat)
    | _ => .fault 2 (some a)
  else if sysFault s .io a ≠ 0 then .fault (sysFault s .io a) (some a)
  else remoteAcc s x old [t] .ldio a n x.f.dst.toNat (mkPkt 2 (a.toNat / 2 ^ 48) a.toNat n [] 0)
def execLdIo (x : Issue) (s : State) : Res :=
  let old := grp s x.core x.gslot
  issueMem (shLdIo x.f) (ioOk x.f) (remoteReady s x true (accSize x.f) (fun t => memAddr x.f old t (accSize x.f))) x s (ldioLane x old)

/-- The newest access of the group keeps the data of a register write. -/
def setAccData (s : State) (c gs id v : Nat) : State :=
  let g := grp s c gs
  setGrp s c gs { g with accs := mapFirst (fun a => a.id == id) (fun a => { a with data := some v }) g.accs }

def stioLane (x : Issue) (old : Group) (s : State) (t : Nat) : LaneRes :=
  let n := accSize x.f
  let a := memAddr x.f old t n
  if a.toNat % n ≠ 0 then .fault 3 (some a)
  else if isLocal a then
    match access s old.ctx .stio (vaOf a) with
    | .fault k => .fault k (some a)
    | .io off =>
      let id := nextAcc s x.core
      .ok (setAccData (addAcc (noteXlat s x.core old.ctx (vaOf a)) x old [t] .stio a (.io off) n 255) x.core x.gslot id
        (storeVal x.f old t n))
    | _ => .fault 2 (some a)
  else if sysFault s .io a ≠ 0 then .fault (sysFault s .io a) (some a)
  else remoteStore s x old t a (toLE n (storeVal x.f old t n))
def execStIo (x : Issue) (s : State) : Res :=
  let old := grp s x.core x.gslot
  issueMem (shStIo x.f) (ioOk x.f && dataOk x.f)
    (remoteReady s x false (accSize x.f) (fun t => memAddr x.f old t (accSize x.f))) x s (stioLane x old)

/-! ## L1 maintenance (R82) -/

/-- The physical ranges [lo, hi) of device memory behind a widened range of context addresses; parts that are unmapped, remote,
HOST, IO or thatched are passed over, and permissions are not checked. -/
def l1Ranges (s : State) (c : Nat) (a : W64) (n : Nat) : List (Nat × Nat) :=
  if n = 0 then [] else
  let lo := a.toNat / 128 * 128
  let hi := roundUp (a.toNat + n) 128
  (upTo (lo / 65536) ((hi - 1) / 65536 - lo / 65536 + 1)).filterMap (fun pg =>
    if pg / 2 ^ 32 ≠ 0xFFFF then none else
    let va := pg % 2 ^ 32 * 65536
    match walk s c va with
    | .fault _ => none
    | .leaf e size =>
      if leafHost e || leafIo e || leafTh e then none else
      let p := entAddr e + va % size
      let from' := if pg * 65536 < lo then lo - pg * 65536 else 0
      some (p + from', p + min 65536 (hi - pg * 65536)))

/-- Write a held line's dirty sectors into the L2; the line stays valid and clean. -/
def cleanLine (s : State) (c gs : Nat) (x : L1Line) : State :=
  let s := takeDirty (pmcG s c gs 6 (maskBits 4 x.dirty).length) (ansOf s c x.line)
  updL1 s c x.line (fun y => { y with dirty := 0, st := if y.st = .m then .e else y.st })

/-- CLEAN.L1 or INV.L1 for the ranges of one thread. -/
def l1Clean (s : State) (c gs : Nat) (inv : Bool) (l : List (Nat × Nat)) : State :=
  ((core s c).l1.map (fun (p : Nat × L1Line) => p.2)).foldl (fun s x =>
    if x.st != .i && l.any (fun r => decide (r.1 ≤ 128 * x.line) && decide (128 * x.line < r.2)) then
      let s := if x.dirty = 0 then s else cleanLine s c gs x
      if inv then toI s c x.line else s
    else s) s

/-- The acting threads' buffered stores have left for L1, and the core's earlier write-backs have reached the L2: the
instruction follows them (R82, R208). -/
def storesLeft (s : State) (x : Issue) : Bool :=
  match gate s x with
  | none => true
  | some set => let g := grp s x.core x.gslot
                s.mem.putms.all (fun a => a.core != x.core) && g.sb.all (fun e => !(acting x.f g set).contains e.th || (match e.dest with | .l1 _ => false | _ => true))

def rangeExec (inv : Bool) (x : Issue) (s : State) : Res :=
  let old := grp s x.core x.gslot
  issue shRange true (storesLeft s x) x s (fun s' _ act =>
    act.foldl (fun s t => l1Clean s x.core x.gslot inv
      (l1Ranges s old.ctx (BitVec.ofNat 64 (regVal old t x.f.ua x.f.srca.toNat 2)) (srcB shRange x.f old t 1))) s')
def execCleanL1 (x : Issue) (s : State) : Res := rangeExec false x s
def execInvL1 (x : Issue) (s : State) : Res := rangeExec true x s

/-! ## Atomics (R84, R85) -/

/-- One lane's atomic: 0 ADD, 1 MIN, 2 MAX, 3 EXCH, 4 CAS. -/
def atomLane (op : Nat) (x : Issue) (old : Group) (s : State) (t : Nat) : LaneRes :=
  let w := wN x.f
  let n := 4 * w
  let sh := shAtom w (op == 4) 3
  let a : W64 := BitVec.ofNat 64 (regVal old t x.f.ua x.f.srca.toNat 2)
  let b := srcB sh x.f old t w
  let c := if op = 4 then srcC x.f old t w else 0
  let sg := opSg x.f
  let kind := AccKind.atom op sg b c
  let s := pmcG s x.core x.gslot 7 1
  if a.toNat % n ≠ 0 then .fault 3 (some a)
  else if isLocal a then
    match access s old.ctx .atom (vaOf a) with
    | .fault k => .fault k (some a)
    | .mem pa => .ok (addAcc (noteXlat s x.core old.ctx (vaOf a)) { x with f := { x.f with opmod := 0 } } old [t] kind a (.mem pa) n x.f.dst.toNat)
    | _ => .fault 2 (some a)
  else if sysFault s .mem a ≠ 0 then .fault (sysFault s .mem a) (some a)
  else remoteAcc s { x with f := { x.f with opmod := 0 } } old [t] kind a n x.f.dst.toNat
    (mkPkt 3 (a.toNat / 2 ^ 48) a.toNat (atomWord op (w == 2) sg) (toLE n b ++ (if op = 4 then toLE n c else [])) 0)

def atomExec (op mods : Nat) (x : Issue) (s : State) : Res :=
  let old := grp s x.core x.gslot
  issueMem (shAtom (wN x.f) (op == 4) mods) true
    (remoteReady s x false (4 * wN x.f) (fun t => BitVec.ofNat 64 (regVal old t x.f.ua x.f.srca.toNat 2))) x s (atomLane op x old)
def execAtomAdd (x : Issue) (s : State) : Res := atomExec 0 1 x s
def execAtomMin (x : Issue) (s : State) : Res := atomExec 1 3 x s
def execAtomMax (x : Issue) (s : State) : Res := atomExec 2 3 x s
def execAtomExch (x : Issue) (s : State) : Res := atomExec 3 1 x s
def execAtomCas (x : Issue) (s : State) : Res := atomExec 4 1 x s

end Sys2Proof.Machine
end

