-- ==== Sys2Proof/Machine/Sync.lean ====
section
/-! DEFINITION. Barriers, fences and fence-slot waits and signals, major 0x0B (R43 to R48, R86 to R90). -/

namespace Sys2Proof.Machine

/-- No operands. -/
def shNone : Shape := ⟨.un, .un, .un, .un, .none, 0, .vec⟩

/-- The lanes an instruction would act for if it issued now. -/
def actingOf (s : State) (x : Issue) : List Nat :=
  match gate s x with | none => [] | some set => acting x.f (grp s x.core x.gslot) set

/-! ## Barriers (R43 to R48) -/

/-- The limit of a watchdog count that starts now: 2^EXP, EXP from 16 to 30 (R48). -/
def barLimit (s : State) (c : Nat) : Nat := 2 ^ min 30 (max 16 (reg s (pgCore c) 0x88 % 32))

/-- Threads waiting in a state, and whether every thread that has not exited waits there. -/
def Group.waiting (g : Group) (p : ThStat) : List Nat := lanes.filter (fun t => (g.thr t).stat == p)
def Group.arrived (g : Group) (p : ThStat) : Bool := g.threads.all (fun x => x.stat == .exited || x.stat == p)

/-- The waiting threads continue at the instruction after their barrier, unmarked and with age 0: the manual gives neither a mark nor an age
to a set that comes out of a wait (DESIGN CHOICE, assumption 119). -/
def Group.wake (g : Group) (p : ThStat) : Group :=
  { g with threads := g.threads.map (fun x => if x.stat = p then { x with stat := .running, mark := false, age := 0 } else x) }

/-- A barrier count after an arrival or an exit: none without waiters, running otherwise. -/
def watchOf (w : Option Watch) (waits : Bool) (limit : Nat) : Option Watch :=
  if waits then (match w with | some x => some x | none => some { count := 0, limit := limit }) else none

/-- BAR.G of a group completes when every thread that has not exited has arrived (R43, R45). -/
def settleG (s : State) (c gs : Nat) : State :=
  let g := grp s c gs
  let waits := !(g.waiting .barG).isEmpty
  if waits && g.arrived .barG then setGrp s c gs { g.wake .barG with watch := none }
  else setGrp s c gs { g with watch := watchOf g.watch waits (barLimit s c) }

/-- BAR.T of a team completes when every group of it that has not exited has arrived (R44, R45). -/
def settleT (s : State) (c ts : Nat) : State :=
  let t := tm s c ts
  let waits := t.gslots.any (fun gs => !((grp s c gs).waiting .barT).isEmpty)
  if waits && t.gslots.all (fun gs => (grp s c gs).arrived .barT) then
    setTm (t.gslots.foldl (fun s gs => setGrp s c gs ((grp s c gs).wake .barT)) s) c ts { t with watch := none }
  else setTm s c ts { t with watch := watchOf t.watch waits (barLimit s c) }

/-- Both barriers after an arrival or an exit of a thread of the group. -/
def settle (s : State) (c gs : Nat) : State := settleT (settleG s c gs) c (grp s c gs).tslot

/-- An outstanding access that a fence waits for: a load or an atomic (R87). -/
def Acc.fenced (a : Acc) : Bool := match a.kind with | .load => true | .uload => true | .atom _ _ _ _ => true | _ => false

/-- The acting threads' loads and atomics have returned and their stores are visible (R47). -/
def lanesQuiet (s : State) (x : Issue) : Bool :=
  let g := grp s x.core x.gslot
  let act := actingOf s x
  g.sb.all (fun e => !act.contains e.th) && g.accs.all (fun a => !a.fenced || act.all (fun t => !a.mask.testBit t))

/-- The acting lanes take a state. -/
def Group.park (g : Group) (act : List Nat) (p : ThStat) : Group := act.foldl (fun g t => g.setThr t { g.thr t with stat := p }) g

def barExec (p : ThStat) (x : Issue) (s : State) : Res :=
  issue shNone true (lanesQuiet s x) x s (fun s _ act =>
    if act.isEmpty then s else settle (setGrp s x.core x.gslot ((grp s x.core x.gslot).park act p)) x.core x.gslot)
def execBarG (x : Issue) (s : State) : Res := barExec .barG x s
def execBarT (x : Issue) (s : State) : Res := barExec .barT x s

/-! ## Fences (R87) -/

/-- FENCE.CORE: loads and atomics have returned, the store buffer is empty, the group's engine commands are complete. -/
def quietCore (s : State) (x : Issue) : Bool :=
  let g := grp s x.core x.gslot
  g.sb.isEmpty && g.accs.all (fun a => !a.fenced) && mxPending (core s x.core) x.gslot == 0 && tmPending (core s x.core) x.gslot == 0

/-- FENCE.SYS: every remote write, atomic and SIGF is answered. -/
def quietSys (s : State) (x : Issue) : Bool := (groupReqs s x.core x.gslot).all (fun r => !ordered r.pkt.kind)

/-- FENCE.IO: every LD.IO and ST.IO has completed at its block, remote ones included. -/
def quietIo (s : State) (x : Issue) : Bool :=
  (grp s x.core x.gslot).accs.all (fun a => match a.kind with | .ldio => false | .stio => false | _ => true)
    && (groupReqs s x.core x.gslot).all (fun r => bits r.pkt.addr 47 40 != 1)

def fenceExec (ready : Bool) (x : Issue) (s : State) : Res := issue shNone true ready x s (fun s _ _ => s)
def execFenceCore (x : Issue) (s : State) : Res := fenceExec (quietCore s x) x s
/-- Stores that left the buffer hold ownership, and write-backs of CLEAN.L1 and INV.L1 and engine writes reach the L2 in the
step that makes them, so FENCE.CHIP waits for what FENCE.CORE does. -/
def execFenceChip (x : Issue) (s : State) : Res := fenceExec (quietCore s x) x s
def execFenceSys (x : Issue) (s : State) : Res := fenceExec (quietCore s x && quietSys s x) x s
def execFenceIo (x : Issue) (s : State) : Res := fenceExec (quietCore s x && quietIo s x) x s

/-! ## Fence slots (R88 to R90) -/

def shWaitf : Shape := ⟨.v 1, .v 2, .un, .v 1, .none, 0, .vec⟩
def shSigf : Shape := ⟨.un, .v 2, .un, .un, .none, 1, .vec⟩

/-- The reference a lane names. -/
def lfref (x : Issue) (g : Group) (t : Nat) : W64 := BitVec.ofNat 64 (regVal g t x.f.ua x.f.srca.toNat 2)

/-- The slot on this chip that WAITF waits for: local, or through this chip's own number. -/
def waitSlot (s : State) (a : W64) : Option Nat :=
  match fref a with
  | .bad => none
  | .loc k => some k
  | .sys chip k => if chip = chipNo s then some k else none

/-- A waiting lane of WAITF. -/
def waitfLane (x : Issue) (old : Group) (s : State) (t : Nat) : LaneRes :=
  let a := lfref x old t
  match waitSlot s a with
  | none => .fault 1 (some a)
  | some k =>
    if !slotMine s old.ctx k then .fault 2 (some a) else
    let g := grp s x.core x.gslot
    let f := fence s k
    if f.sig then .ok (setGrp s x.core x.gslot (g.setV t x.f.dst.toNat (if f.err then 1 else 0)))
    else
      let n := srcC x.f old t 1
      let w : WaitRec := { th := t, slot := k, dst := x.f.dst.toNat, till := if n = 0 then none else some (s.time.ccRun + n) }
      let g := g.setThr t { g.thr t with stat := .waitF }
      .ok (setGrp s x.core x.gslot { g with waits := g.waits ++ [w] })
def execWaitf (x : Issue) (s : State) : Res :=
  issueMem shWaitf true true x s (waitfLane x (grp s x.core x.gslot))

/-- The wait of a thread whose cycles have passed. -/
def expiredWait (s : State) (c gs th : Nat) : Option WaitRec :=
  (grp s c gs).waits.find? (fun w => w.th == th && match w.till with | some n => decide (n ≤ s.time.ccRun) | none => false)
def endWait (s : State) (c gs : Nat) (w : WaitRec) : State :=
  let g := grp s c gs
  let g := { g with waits := g.waits.filter (fun v => v.th != w.th) }
  setGrp s c gs ((g.setThr w.th { g.thr w.th with stat := .running, mark := false, age := 0 }).setV w.th w.dst 2)
def execWaitfTimeout (c gs th : Nat) (s : State) : Res :=
  match expiredWait s c gs th with
  | some w => .next (endWait s c gs w)
  | none => .next s

/-- A lane of SIGF: a local slot at once, anything else as an ordered packet through an export table (R90). -/
def sigfLane (x : Issue) (old : Group) (s : State) (t : Nat) : LaneRes :=
  let a := lfref x old t
  let err := bit x.f.opmod.toNat 0
  match fref a with
  | .bad => .fault 1 (some a)
  | .loc k => if slotMine s old.ctx k then .ok (signal s k err) else .fault 2 (some a)
  | .sys chip _ =>
    if sysFault s .sigf a ≠ 0 then .fault (sysFault s .sigf a) (some a) else
    let r := request s (mkPkt 4 chip a.toNat err.toNat [] 0) old.ctx (.store x.core x.gslot t)
    if r.2.2 then .ok (pmcG r.1 x.core x.gslot 8 1) else .ok (postedLoss s x.core x.gslot 5 a)

def execSigf (x : Issue) (s : State) : Res :=
  issueMem shSigf true true x s (sigfLane x (grp s x.core x.gslot))

end Sys2Proof.Machine
end

