-- ==== Sys2Proof/Machine/Allocator.lean ====
section
/-! DEFINITION. The device allocator's instructions, major 0x0F (R99, R100), and the answer of its engines (R343). -/

namespace Sys2Proof.Machine

def shAlloc : Shape := ⟨.v 2, .v 1, .un, .un, .none, 0, .vec⟩
def shFree : Shape := ⟨.un, .v 2, .un, .un, .none, 0, .vec⟩

/-- A request that returns 0 counts in the partition's bank (R405). -/
def countAllocF (s : State) (c : Nat) : State := countBank s (ctx s c).part 0xF0 1

/-- One lane of ALLOC: 0 at once for a size of 0 or above 2^30, otherwise a request of its class to the engines. -/
def allocLane (x : Issue) (old : Group) (s : State) (t : Nat) : LaneRes :=
  let n := regVal old t x.f.ua x.f.srca.toNat 1 % 2 ^ 32
  if n = 0 ∨ 2 ^ 30 < n then
    .ok (countAllocF (setGrp s x.core x.gslot ((grp s x.core x.gslot).setV64 t x.f.dst.toNat 0)) old.ctx)
  else .ok (addAcc s x old [t] .alloc 0 .none (blockClass n) x.f.dst.toNat)
def execAlloc (x : Issue) (s : State) : Res :=
  issueMem shAlloc true true x s (allocLane x (grp s x.core x.gslot))

/-- The engine of a region answers a request: with a block, or with 0 when no region can supply one (R343). -/
def allocAnswer (s : State) (c gs : Nat) (a : Acc) (region : Nat) : State :=
  let cx := (grp s c gs).ctx
  if canSupply (ctx s cx) a.size then
    match heapTake s cx region a.size with
    | some (s', va) => finish s' c gs a (ctxAddr va).toNat
    | none => s
  else finish (countAllocF s cx) c gs a 0
def execAllocResult (c gs id region : Nat) (s : State) : Res :=
  match accAt s c gs id with
  | some a => .next (if a.kind = .alloc then allocAnswer s c gs a region else s)
  | none => .next s

/-- One lane of FREE: 0 does nothing, anything but the start of a live block faults. -/
def freeLane (x : Issue) (old : Group) (s : State) (t : Nat) : LaneRes :=
  let a : W64 := BitVec.ofNat 64 (regVal old t x.f.ua x.f.srca.toNat 2)
  if a = 0 then .ok s
  else if isLocal a && (blockAt (ctx s old.ctx) (vaOf a)).isSome then .ok (heapFree s old.ctx (vaOf a))
  else .fault 1 (some a)

/-- FREE issues once what FENCE.CHIP waits for is done (R100). -/
def execFree (x : Issue) (s : State) : Res :=
  issueMem shFree true (quietCore s x) x s (freeLane x (grp s x.core x.gslot))

end Sys2Proof.Machine
end

