-- ==== Sys2Proof/Machine/FabricTime.lean ====
section
/-! DEFINITION. The fabric time unit (R267 to R274): states, parent, servo. -/

namespace Sys2Proof.Machine

def setTime (s : State) (t : Time) : State := { s with time := t }

/-- A change of state; leaving LOCKED aborts the plan (R289). ERREST is 0xFFFF in FREE, and HOLDOVER goes on at the last rate (R268). -/
def setFtState (s : State) (st : Nat) : State :=
  if s.time.st = st then s else
  let old := s.time.st
  let s := setTime s { s.time with st := st, good := 0, bad := 0, meas := [], errest := if st = 0 then 0xFFFF else s.time.errest
                                   slew := if st = 3 then s.time.slew else 0 }
  let s := note s 12 0 0 0x16 none none 0 st
  if old = 2 then planAbort s 1 else s

/-- A new error estimate; above 50 ns the plan aborts (R289). -/
def setErrest (s : State) (e : Nat) : State :=
  let s := setTime s { s.time with errest := min e 0xFFFF }
  if 50 < s.time.errest then planAbort s 1 else s

/-- The parent: among links in service with a LOCKED peer, fewest hops, then smallest delay, then lowest port (R270). -/
def chooseParent (s : State) : Option Nat :=
  ((upTo 0 32).filter (fun n => s.sku.port n && (port s n).inService && (port s n).parentOk)).foldl
    (fun (b : Option Nat) n => match b with
      | none => some n
      | some m =>
        let x := port s n
        let y := port s m
        if x.phops < y.phops ∨ (x.phops = y.phops ∧ x.delay < y.delay) then some n else b) none

/-- Some link is in service. -/
def anyLink (s : State) : Bool := (upTo 0 32).any (fun n => s.sku.port n && (port s n).inService)

/-- A link left service or its peer is no longer a parent: a LOCKED unit without a parent holds over, one in ACQUIRE is
FREE; after a start from Dormant it stays in ACQUIRE until its first parent (R273, R378). -/
def timeLink (s : State) : State :=
  if s.time.gm ∨ (chooseParent s).isSome then s
  else if s.time.st = 2 then setFtState s 3
  else if s.time.st = 1 ∧ !s.time.woken then setFtState s 0
  else s

/-- A link left service. A grandmaster that has none left gives up the role (R269); at a warm reset, where all drop at once, it keeps it
(R380). -/
def linkGone (s : State) : State :=
  timeLink (if s.time.gm ∧ !anyLink s then setTime s { s.time with gm := false, rate := 0 } else s)

/-- The chips that may be grandmaster, in order; a plan that names none names chip 0 (R269). -/
def gms (p : Plan) : List Nat := if p.masters.isEmpty then [0] else p.masters

/-- This chip is the candidate in turn and has a link in service. -/
def isMaster (s : State) : Bool :=
  chipNo s != 0xFFFF && nthD 0x10000 (gms s.fab.plan) s.time.cand == chipNo s && anyLink s

/-- The unit becomes grandmaster: LOCKED, without a step (R269). -/
def takeMaster (s : State) : State :=
  let s := setTime s { s.time with gm := true, hops := 0, parent := 0, woken := false, slew := 0, rate := 0 }
  setErrest (setFtState s 2) 0

/-- What a measurement from the parent does (R271). The unit slews by an open amount within 200 ppm of the millisecond, toward
offset 0 (assumption 1). -/
def servoStep (s : State) (n : Nat) : State :=
  let p := port s n
  let off := p.offset
  let s := setTime s { s.time with parent := n, hops := min 15 (p.phops + 1), offset := off, woken := false }
  let s := if s.time.st = 0 ∨ s.time.st = 3 then setFtState s 1 else s
  let s := setErrest s (p.perrest + off.natAbs + 2)
  let k : Int := ((freshNat s 0 % (min off.natAbs 200 + 1) : Nat) : Int)
  let slewed := useFree (setTime s { s.time with slew := if 0 ≤ off then k else -k, rate := if 0 ≤ off then k else -k })
  if s.time.st = 1 then
    (if s.time.meas.length < 4 then
       let m := s.time.meas ++ [off]
       let s := setTime s { s.time with meas := m }
       if m.length < 4 then s
       else
         let s := setTime s { s.time with ft := (((s.time.ft : Int) + off).toNat) % 2 ^ 64, epoch := (s.time.epoch + 1) % 65536, good := 0 }
         note s 12 0 0 0x16 none none 0 1
     else
       let g := if off.natAbs ≤ 5 then s.time.good + 1 else 0
       if 8 ≤ g then setFtState slewed 2 else setTime slewed { slewed.time with good := g })
  else
    let b := if 1000 < off.natAbs then s.time.bad + 1 else 0
    if 2 ≤ b then setFtState s 1 else setTime slewed { slewed.time with bad := b }

/-- The servo's turn, every 1 ms. -/
def servo (s : State) : State :=
  if s.time.gm then s
  else if isMaster s then takeMaster s
  else match chooseParent s with
    | some n => servoStep s n
    | none =>
      let s := timeLink s
      if s.time.st = 3 then setErrest (setTime s { s.time with slew := s.time.rate }) (s.time.errest + 1) else s

/-- The unit runs: rails are up and firmware with them. -/
def timeUp (s : State) : Bool := (s.pow.power == .active && decide (2 ≤ s.pow.svc)) || s.pow.power == .idle

/-- A turn that the Ringmaster cannot take while it restarts or serves tier 1: FT goes on at the last rate, and ERREST grows (R355, R356). -/
def skipTurn (s : State) : State :=
  let s := { s with rm := { s.rm with tskip := (s.rm.tskip + 1) % 2 ^ 64 } }
  if s.time.gm || s.time.st == 0 then s else setErrest (setTime s { s.time with slew := s.time.rate }) (s.time.errest + 1)
def execServoUpdate (s : State) : Res := .next (if !timeUp s then s else if s.rm.up && s.rm.tier != 1 then servo s else skipTurn s)

/-- The next candidate becomes grandmaster; this chip takes the role when it is that candidate and has a link in service. What its peers
said of the one before no longer counts. -/
def nextMaster (s : State) : State :=
  let s := setTime s { s.time with cand := (s.time.cand + 1) % (gms s.fab.plan).length, lastMeas := s.time.nsRun }
  let s := (upTo 0 32).foldl (fun s n => if (port s n).parentOk then setPort s n { port s n with parentOk := false } else s) s
  if isMaster s then takeMaster s else timeLink s

/-- No measurement that descends from the grandmaster came for 10 ms. -/
def masterSilent (s : State) : Bool := decide (s.time.lastMeas + 10000000 ≤ s.time.nsRun)
def execGrandmasterTimeout (s : State) : Res :=
  .next (if timeUp s && !s.time.gm && chipNo s != 0xFFFF && masterSilent s then nextMaster s else s)

/-- The times of a measurement: delay and the peer's offset (R270). -/
def measDelay (t1 t2 t3 t4 : Nat) : Int := (((t4 : Int) - t1) - ((t3 : Int) - t2)) / 2
def measOffset (t1 t2 t3 t4 : Nat) : Int := (((t2 : Int) - t1) - ((t4 : Int) - t3)) / 2

/-- A port measured itself: what the peer reports, and XPRT_LOOP. The delay between the link layers holds the cable's and 40 ns of PHY and
FEC, so that the loop of R235 is twice the delay and 64 ns (R266, R270). -/
def measure (s : State) (n : Nat) (d off : Int) (locked : Bool) (hops errest : Nat) : State :=
  let p := port s n
  let s := if locked ∧ p.inService then setTime s { s.time with lastMeas := s.time.nsRun } else s
  timeLink (setPort s n { p with parentOk := locked, phops := hops, perrest := errest, delay := d.toNat, offset := off
                                 loopNs := (2 * d.toNat + 64) % 65536 })
def execLinkMeasurement (n t1 t2 t3 t4 : Nat) (locked : Bool) (hops errest : Nat) (s : State) : Res :=
  .next (if s.sku.port n && timeUp s && ((port s n).lstate == 2 || (port s n).lstate == 3)
         then measure s n (measDelay t1 t2 t3 t4) (measOffset t1 t2 t3 t4) locked hops errest else s)

/-- A PTM dialogue completed; the host has enabled PTM on port 0 and its link is up (R274, R296). -/
def execPtmDialogue (ht ft : Nat) (s : State) : Res :=
  .next (if timeUp s && linkUp s 0 && cfgVal s 0 5 == 1 then setTime s { s.time with ptmHt := ht % 2 ^ 64, ptmFt := ft % 2 ^ 64, ptmSeq := (s.time.ptmSeq + 1) % 2 ^ 32 } else s)

end Sys2Proof.Machine
end

