-- ==== Sys2Proof/Machine/Pages.lean ====
section
/-! DEFINITION. Which function reaches which register page (R297, R298, R301, R303). Function 0 is PF0, 1 + n virtual function n,
9 is PF1. -/

namespace Sys2Proof.Machine

/-- Register pages answer: from the end of start-up step 3 on, and in Idle (R378, R383). -/
def pagesUp (s : State) : Bool := s.pow.power == .idle || (s.pow.power == .active && decide (2 ≤ s.pow.svc))

/-- The function reaches the page; every function reaches page 0. -/
def reaches (s : State) (fn page : Nat) : Bool :=
  fn == 0 || page == 0 || match pageOwner s page with
    | some p => if fn = 9 then s.pow.linkMode == 1 && decide (4 ≤ p) else fn == p + 1
    | none => false

/-- A write of a function to a page: discarded where the function does not reach it, ignored where the page is absent. -/
def pageWrite (s : State) (fn page : Nat) (f : State → State) : State :=
  if !pagesUp s then s
  else if !reaches s fn page then dropped s
  else if (blkAt s.sku page).isNone then s
  else f s

end Sys2Proof.Machine
end

