-- ==== Sys2Proof/Machine/Engines.lean ====
section
/-! DEFINITION. What the two engines of a core share: heads of their queues, the order between them, the stream tiles and load
grants of the tile mover, faults of commands (R50, R121, R188, R193). -/

namespace Sys2Proof.Machine

/-- Record an event of the matrix engine (sub 1) or the tile mover (sub 2) of a core for a group (R400). -/
def noteEngine (s : State) (c sub event gs arg : Nat) : State :=
  note s 1 c sub event (corePart s c) (some (grp s c gs).ctx) (grp s c gs).tag arg

/-! ## Streams seen by a core (R186, R188) -/

/-- Position of a core in the stream's set. -/
def Stream.place (x : Stream) (c : Nat) : Option Nat := (upTo 0 x.ncores).find? (fun p => x.first + p * x.cstride == c)

/-- The i-th tile dealt to the core at position `p`; none past the last. -/
def Stream.dealt (x : Stream) (p i : Nat) : Option Nat :=
  let t := (i / x.deal * x.ncores + p) * x.deal + i % x.deal
  if t < x.tiles' then some t else none

/-- Number of tiles dealt to the core at position `p`. -/
def Stream.share (x : Stream) (p : Nat) : Nat :=
  let whole := x.tiles' / (x.deal * x.ncores)
  let rest := x.tiles' % (x.deal * x.ncores)
  whole * x.deal + min x.deal (rest - p * x.deal)

/-- A STREAM command of the context for the slot has been fetched and has not started. -/
def streamPending (s : State) (c slot : Nat) : Bool :=
  (queuesOf s c).any (fun q => (queue s q).cmds.any (fun x => x.isWaiting && pkOp x.bytes == 2 && leAt x.bytes 16 1 == slot))

/-- What becomes of a TM.GET.S (R188). -/
inductive GetCase | fault (kind : Nat) | wait | take (tile : Nat)
  deriving DecidableEq, Repr

/-- The tile is in the Loft on every die. -/
def Stream.isReady (x : Stream) (t : Nat) : Bool := x.tiles.any (fun y => y.t == t && y.ready)

/-- The first case of R188 that applies. -/
def getCase (s : State) (c : Nat) (k : TmCmd) : GetCase :=
  let g := grp s c k.gslot
  let slot := k.b.toNat % 64
  let x := stream s slot
  let mine := x.live && x.ctx == g.ctx
  let next := match x.place c with | some p => x.dealt p (SMap.get 0 x.taken c) | none => none
  if !slotIn s (ctx s g.ctx).part slot then .fault 2
  else match (if mine then next else none) with
    | some t => if x.isReady t then .take t else .wait
    | none =>
      if streamPending s g.ctx slot then .wait
      else if mine && (x.place c).isNone then .fault 2
      else if x.live && !mine then .fault 2
      else .fault 1

/-- A command is a TM.GET.S. -/
def TmCmd.isStream (k : TmCmd) : Bool := !k.put && bit k.mod 0

/-! ## Heads (R121, R211) -/

/-- The earlier ST.T of the command's group have landed. -/
def landed (s : State) (c gs order : Nat) : Bool :=
  (grp s c gs).sb.all (fun e => !(e.dest == .tile && decide (e.id < order)))

/-- The team of a group issues and its commands start. -/
def teamRuns (s : State) (c gs : Nat) : Bool := let g := grp s c gs; g.occ && !(tm s c g.tslot).preempt

/-- The head of the tile-mover queue could start but for the matrix engine. -/
def tmHead (s : State) (c : Nat) : Option TmCmd :=
  match (core s c).tmq with
  | [] => none
  | k :: _ =>
    if teamRuns s c k.gslot && landed s c k.gslot k.order
        && (!k.isStream || (match getCase s c k with | .fault _ => true | .wait => false | .take _ => (core s c).grant))
    then some k else none

/-- Two ranges of tile memory meet. -/
def tileMeet (l m : List (Nat × Nat)) : Bool := l.any (fun a => m.any (fun b => overlaps a.1 a.2 b.1 b.2))

/-- Both engines of the core are idle. -/
def enginesIdle (s : State) (c : Nat) : Bool := (core s c).mxRuns.isEmpty && (core s c).tmRun.isNone

/-! ## Load grants (R193) -/

/-- The core's head is a TM.GET.S whose tile is ready. -/
def headReady (s : State) (c : Nat) : Bool :=
  match (core s c).tmq with
  | [] => false
  | k :: _ => k.isStream && (match getCase s c k with | .take _ => true | _ => false)

/-- The core's head is a TM.GET.S. -/
def headStream (s : State) (c : Nat) : Bool := match (core s c).tmq with | [] => false | k :: _ => k.isStream

/-- The head waits for its tile. -/
def headWaits (s : State) (c : Nat) : Bool := match (core s c).tmq with | [] => false | k :: _ => k.isStream && getCase s c k == .wait

/-- A core asks for a grant when a TM.GET.S is at its head and its matrix engine is idle; one that released a grant because the tile was
not ready asks again once it is (R193). -/
def asks (s : State) (c : Nat) : Bool :=
  let k := core s c
  headStream s c && k.mxRuns.isEmpty && !k.grant && !s.box.grantReq.contains c && (headReady s c || (headWaits s c && !k.parked))

/-- After the tile-mover queue or a tile changed: release a grant that is not kept, and ask for one. -/
def grants (s : State) (c : Nat) : State :=
  let k := core s c
  let gs := match k.tmq with | [] => 0 | x :: _ => x.gslot
  let s := if k.grant && !headReady s c then
      noteEngine (setCore s c { k with grant := false, parked := headStream s c }) c 2 0x0A gs
        (match k.tmq with | [] => 0 | x :: _ => x.b.toNat % 64)
    else if headStream s c then s else setCore s c { k with parked := false }
  if asks s c then
    let s := setCore s c { core s c with parked := false }
    { s with box := { s.box with grantReq := s.box.grantReq ++ [c] } }
  else s

/-! ## Faults of commands (R50) -/

/-- A command of a group faults: it has no effect, and the group's later commands are discarded. -/
def engineFault (s : State) (c gs kind : Nat) (pc addr : W64) (mask order : Nat) : State :=
  let k := core s c
  let s := setCore s c { k with mxq := k.mxq.filter (fun x => x.gslot != gs || decide (x.order < order))
                                tmq := k.tmq.filter (fun x => x.gslot != gs || decide (x.order < order)) }
  takeFault s c gs pc [(0, kind, some addr)] true mask 0

end Sys2Proof.Machine
end

