-- ==== Sys2Proof/Machine/Matrix.lean ====
section
/-! DEFINITION. The matrix array (chapter 04, R94, R95, R98, R131, R132): the four instructions, the claim, and the commands. -/

namespace Sys2Proof.Machine

/-! ## Words (R95, R107) -/

/-- Element bytes of a format. -/
def mxSize (fmt : Nat) : Nat := if fmt ≤ 1 then 2 else 1
/-- The value of an element (R102, R130): 0 bfloat16, 1 binary16, 2 E4M3, 3 E5M2, 4 INT8, 5 UINT8. -/
def mxVal (fmt x : Nat) : FV :=
  if fmt = 0 then bfloat16.dec x else if fmt = 1 then binary16.dec x else if fmt = 2 then e4m3.dec x
  else if fmt = 3 then e5m2.dec x
  else let v := intVal 8 (fmt == 4) x; .fin (decide (v < 0)) v.natAbs 0

/-- Fields of the shape word. -/
def shapeM (w : Nat) : Nat := bits w 6 0 + 1
def shapeN (w : Nat) : Nat := bits w 14 8 + 1
def shapeFmt (w : Nat) : Nat := bits w 18 16
def shapeOk (w : Nat) : Bool := !bit w 7 && !bit w 15 && bits w 63 19 == 0 && decide (shapeFmt w ≤ 5)
/-- Fields of the run word. -/
def runK (w : Nat) : Nat := bits w 15 0
def runT (w : Nat) : Bool := bit w 16
def runAcc (w : Nat) : Bool := bit w 17
def runFmt (w : Nat) : Nat := bits w 20 18
def runOk (w : Nat) : Bool := bits w 63 21 == 0 && decide (runFmt w ≤ 5) && runK w != 0

/-- Bytes that a command reads, and the result bytes it writes, from uA and uB (R107). -/
def mxReads (k : MxCmd) : List (Nat × Nat) :=
  match k.kind with
  | .loadw => [(k.a.toNat, shapeM k.b.toNat * 128 * mxSize (shapeFmt k.b.toNat))]
  | .run => (k.a.toNat, runK k.c.toNat * 128 * mxSize (runFmt k.c.toNat))
      :: (if runAcc k.c.toNat then [(k.b.toNat, 512 * runK k.c.toNat)] else [])
  | _ => []
def mxWrites (k : MxCmd) : List (Nat × Nat) := match k.kind with | .run => [(k.b.toNat, 512 * runK k.c.toNat)] | _ => []

/-! ## The claim (R103 to R105) -/

/-- Some other group waits for the claim. -/
def othersWait (k : Core) (gs : Nat) : Bool := k.groups.any (fun p => p.2.mxWait && p.1 != gs)

/-- The group may enqueue a matrix command: it holds the claim, or takes it now; and the queue has room (R94, R106). -/
def mxCan (k : Core) (gs : Nat) : Bool :=
  (k.claim == some gs || (k.claim.isNone && !othersWait k gs))
    && decide (k.mxq.length + k.mxRuns.length
        + (match (SMap.get Group.empty k.groups gs).mxBack with | some b => b.cmds.length | none => 0) < 16)

/-- A group that held the claim last, without holding it when its team was saved, keeps its sets only while no other group holds the claim
(R105). -/
def loseBack (s : State) (c : Nat) : State :=
  let lost := fun (g : Group) => match g.mxBack with | some b => if b.held then g else { g with mxBack := none } | none => g
  let s := setCore s c { core s c with groups := (core s c).groups.map (fun (p : Nat × Group) => (p.1, lost p.2)) }
  { s with box := { s.box with saved := s.box.saved.map (fun x => if x.core = c then { x with groups := x.groups.map lost } else x) } }

/-- A group takes the claim; the sets are cleared unless it was the last holder, and a restored group gets its queue and its sets back. -/
def takeClaim (s : State) (c gs : Nat) : State :=
  if (core s c).claim = some gs then s else
  let g := grp s c gs
  let s := if (core s c).last = some gs then s else loseBack s c
  let k := core s c
  let k := if k.last = some gs then k else { k with active := WSet.zero, shadow := WSet.zero }
  let k := { k with claim := some gs, last := some gs }
  let k := match g.mxBack with
    | some b => { k with mxq := b.cmds, reload := some (b.active, b.shadow) }
    | none => k
  noteEngine (setGrp (setCore s c k) c gs { g with mxWait := false, mxBack := none }) c 1 7 gs gs

/-- The claim ends, and with it a reload that is still due; the sets keep their contents until the next one. -/
def endClaim (s : State) (c gs : Nat) : State :=
  if (core s c).claim = some gs then noteEngine (setCore s c { core s c with claim := none, reload := none }) c 1 8 gs gs else s

/-! ## Weight sets -/

/-- A set from the bytes of its block: cells outside the block hold 0 (R109). -/
def loadSet (d : List Byte) (a shape : W64) (bad : Bool) : WSet :=
  let m := shapeM shape.toNat
  let n := shapeN shape.toNat
  let f := shapeFmt shape.toNat
  let e := mxSize f
  let cells := (upTo 0 m).flatMap (fun i => (upTo 0 n).map (fun j => (128 * i + j, BitVec.ofNat 16 (leAt d ((128 * i + j) * e) e))))
  { fmt := f, m := m, n := n, w := cells.filter (fun x => x.2 != 0), src := some (a, shape), poison := bad }

/-- The set that a recorded block holds now (R122); no block is a cleared set. -/
def blockSet (s : State) (c gs : Nat) (b : Option (W64 × W64)) : WSet :=
  match b with
  | none => WSet.zero
  | some (a, sh) =>
    let ts := (grp s c gs).tslot
    let n := shapeM sh.toNat * 128 * mxSize (shapeFmt sh.toNat)
    loadSet (tileRead s c ts a.toNat n) a sh (tileBad s c ts a.toNat n)

/-- The reload that a restored holder's next command waits for (R122). -/
def doReload (s : State) (c gs : Nat) : State :=
  match (core s c).reload with
  | none => s
  | some (x, y) => setCore s c { core s c with active := blockSet s c gs x, shadow := blockSet s c gs y, reload := none }

/-! ## Issue (R74, R94, R103) -/

def shMx (n : Nat) : Shape :=
  ⟨.un, if n = 0 then .un else .u, if n = 0 then .un else .u, if n = 3 then .u else .un, .none, 0, .gu⟩

/-- Enqueue a command of the holder. -/
def enqueueMx (s : State) (x : Issue) (set : List Nat) (old : Group) (kind : MxKind) : State :=
  let s := takeClaim s x.core x.gslot
  let k := core s x.core
  let cmd : MxCmd := { kind := kind, gslot := x.gslot, pc := x.pc, mask := maskOf set, a := old.u x.f.srca.toNat
                       b := old.u x.f.srcb.toNat, c := old.u x.f.srcc.toNat, order := k.order }
  noteEngine (setCore s x.core { k with mxq := k.mxq ++ [cmd], order := k.order + 1 }) x.core 1 1 x.gslot
    (match kind with | .loadw => 0x0D01 | .swap => 0x0D02 | .run => 0x0D03 | .drain => 0x0D04)

/-- A matrix instruction that waits for the claim is remembered as waiting. -/
def markWait (s : State) (sh : Shape) (x : Issue) : State :=
  match pre sh true true (poisonedReads sh x.f) x s with
  | .go _ _ => if (core s x.core).claim = some x.gslot then s
               else setGrp s x.core x.gslot { grp s x.core x.gslot with mxWait := true }
  | _ => s

/-- Issue a matrix instruction. -/
def mxExec (n : Nat) (extra : Bool) (x : Issue) (s : State) (f : State → List Nat → State) : Res :=
  let sh := shMx n
  if mxCan (core s x.core) x.gslot then issue sh true extra x s (fun s set _ => f s set)
  else match pre sh true true (poisonedReads sh x.f) x s with
    | .go _ _ => .next (markWait s sh x)
    | _ => issue sh true false x s (fun s set _ => f s set)

def execMxLoadw (x : Issue) (s : State) : Res :=
  mxExec 2 true x s (fun s' set => enqueueMx s' x set (grp s x.core x.gslot) .loadw)
def execMxSwap (x : Issue) (s : State) : Res :=
  mxExec 0 true x s (fun s' set => enqueueMx s' x set (grp s x.core x.gslot) .swap)
def execMxRun (x : Issue) (s : State) : Res :=
  mxExec 3 true x s (fun s' set => enqueueMx s' x set (grp s x.core x.gslot) .run)

/-- MX.DRAIN issues once the group's earlier commands have completed (R95), so that its command, which takes an entry of the queue (R106),
completes at once (R116): the entry leaves again, the group reports to its streams and the claim ends (R104, R195). -/
def drainMx (s : State) (x : Issue) (set : List Nat) (old : Group) : State :=
  let s := doReload (enqueueMx s x set old .drain) x.core x.gslot
  let s := setCore s x.core { core s x.core with mxq := (core s x.core).mxq.dropLast }
  let s := noteEngine (noteEngine s x.core 1 2 x.gslot 0x0D04) x.core 1 3 x.gslot 0
  let g := grp s x.core x.gslot
  endClaim (reportGroup s x.core (g.ident (tm s x.core g.tslot))) x.core x.gslot
def execMxDrain (x : Issue) (s : State) : Res :=
  mxExec 0 (mxPending (core s x.core) x.gslot == 0) x s
    (fun s' set => drainMx s' x set (grp s x.core x.gslot))

/-- The first waiting group after the last holder in round-robin order of slot (R103). -/
def nextHolder (k : Core) : Option Nat :=
  let from' := match k.last with | some g => g + 1 | none => 0
  ((upTo from' 64).map (fun g => g % 64)).find? (fun g =>
    let x := SMap.get Group.empty k.groups g; x.occ && x.mxWait)
def execClaimTake (c : Nat) (s : State) : Res :=
  .next (if running s && (core s c).claim.isNone then
    (match nextHolder (core s c) with | some g => takeClaim s c g | none => s) else s)

/-! ## Commands (R108 to R120) -/

/-- The check of a command when it starts: the kind and address of its fault (R98, R108, R177). Of several faults ILLEGAL goes before
MISALIGNED, and MISALIGNED before ADDRESS, the first range of the command decides, and a range past the allocation is recorded with its
first byte outside: the manual gives neither the order nor that address (DESIGN CHOICE, assumption 107). -/
def mxCheck (s : State) (c : Nat) (k : MxCmd) : Option (Nat × Nat) :=
  let ts := (grp s c k.gslot).tslot
  let size := tileSize (tm s c ts)
  let ranges := mxReads k ++ mxWrites k
  if (k.kind == .loadw && !shapeOk k.b.toNat) || (k.kind == .run && !runOk k.c.toNat) then some (4, 0)
  else match ranges.find? (fun r => r.1 % 256 != 0) with
    | some r => some (3, r.1)
    | none => match ranges.find? (fun r => decide (size < r.1 + r.2)) with
      | some r => some (1, max r.1 size)
      | none => match (mxReads k).find? (fun r => tileBad s c ts r.1 r.2) with
        | some r => some (8, 32 * (((sectorsOf r.1 r.2).find? (fun i => tileBad s c ts (32 * i) 32)).getD 0))
        | none => if k.kind == .run && (core s c).active.poison then some (8, 0) else none

/-- A matrix command faults; the holder's later commands go and the claim ends (R124). -/
def mxFault (s : State) (c : Nat) (k : MxCmd) (kind addr : Nat) : State :=
  endClaim (engineFault s c k.gslot kind k.pc (BitVec.ofNat 64 addr) k.mask k.order) c k.gslot

/-- Start the head: a swap takes effect at once, a load or run reads its ranges and is in progress. -/
def mxBegin (s : State) (c : Nat) (k : MxCmd) : State :=
  let s := doReload s c k.gslot
  let s := setCore s c { core s c with mxq := (core s c).mxq.tail }
  match mxCheck s c k with
  | some (kind, addr) => mxFault s c k kind addr
  | none =>
    let s := noteEngine s c 1 2 k.gslot (match k.kind with | .loadw => 0x0D01 | .swap => 0x0D02 | .run => 0x0D03 | .drain => 0x0D04)
    let ts := (grp s c k.gslot).tslot
    let get := fun (r : Nat × Nat) => tileRead s c ts r.1 r.2
    match k.kind with
    | .swap => release (noteEngine (setCore s c { core s c with active := (core s c).shadow, shadow := (core s c).active }) c 1 3 k.gslot 0)
        c k.gslot
    | .drain => s
    | _ =>
      let r : MxRun := { cmd := k, input := ((mxReads k).take 1).flatMap get, old := (mxWrites k).flatMap get, w := (core s c).active }
      setCore s c { core s c with mxRuns := (core s c).mxRuns ++ [r] }

/-- The head need not wait for the matrix commands in progress: a swap waits for every load and a load for an earlier load (R109, R116);
a load waits for the runs that write its block (R115). A run and a swap may follow a run whose results are still on their way: its
vectors have entered the array (R110, R111, R116; the cycles between are out, assumption 115). -/
def mxClear (k : Core) (m : MxCmd) : Bool :=
  match m.kind with
  | .swap => k.mxRuns.all (fun r => r.cmd.kind != .loadw)
  | .loadw => k.mxRuns.all (fun r => r.cmd.kind != .loadw && !tileMeet (mxReads m) (mxWrites r.cmd))
  | .run => true
  | .drain => k.mxRuns.isEmpty

/-- The head of the matrix queue could start but for the tile mover. -/
def mxHead (s : State) (c : Nat) : Option MxCmd :=
  match (core s c).mxq with
  | [] => none
  | k :: _ =>
    if (core s c).claim == some k.gslot && teamRuns s c k.gslot && landed s c k.gslot k.order && mxClear (core s c) k then some k else none

/-- The matrix engine starts its head when the tile mover is not busy and no tile-mover command that can start was issued earlier
(R121). -/
def mxStarts (s : State) (c : Nat) : Option MxCmd :=
  if running s && (core s c).tmRun.isNone then
    match mxHead s c with
    | none => none
    | some k => match tmHead s c with
      | some t => if t.order < k.order then none else some k
      | none => some k
  else none
def execMatrixCommandStart (c : Nat) (s : State) : Res :=
  match mxStarts s c with
  | some k => .next (mxBegin s c k)
  | none => .next s

/-- Rows of a set: 128 lists of 128 values. -/
def denseFrom : Nat → Nat → SMap W16 → List Nat
  | 0, _, _ => []
  | n + 1, k, [] => 0 :: denseFrom n (k + 1) []
  | n + 1, k, (j, v) :: t => if j = k then v.toNat :: denseFrom n (k + 1) t else 0 :: denseFrom n (k + 1) ((j, v) :: t)
def WSet.rows (w : WSet) : List (List FV) :=
  let l := (denseFrom 16384 0 w.w).map (mxVal w.fmt)
  (upTo 0 w.m).map (fun i => (l.drop (128 * i)).take w.n)

/-- Products added one at a time in ascending order (R132). -/
def dot : PS → List FV → List FV → PS
  | p, a :: t, b :: u => dot (p.add (cellProd a b)) t u
  | p, _, _ => p

/-- Outputs of one vector: one entry for each of 128; none where the output lies outside the block (R112 to R114). -/
def mxVector (rows : List (List FV)) (m n : Nat) (tr : Bool) (x : List FV) (start : Nat → PS) : List (Option Nat) :=
  (upTo 0 128).map (fun i =>
    if tr then (if i < n then some (dot (start i) (rows.map (fun r => nthD .nan r i)) (x.take m)).bits else none)
    else (if i < m then some (dot (start i) (nthD [] rows i) (x.take n)).bits else none))

/-- Compute vector `v` of a run and write its results. Words that changed since the start are old or new (R119). -/
def mxVec (s : State) (c ts : Nat) (w : WSet) (rows : List (List FV)) (r : MxRun) (v : Nat) : State :=
  let rw' := r.cmd.c.toNat
  let f := runFmt rw'
  let e := mxSize f
  let a := r.cmd.a.toNat + 128 * e * v
  let b := r.cmd.b.toNat + 512 * v
  let x := mixBytes s (32 * e) (32 * e * v) ((r.input.drop (128 * e * v)).take (128 * e)) (tileRead s c ts a (128 * e))
  let was := (r.old.drop (512 * v)).take 512
  let cur := tileRead s c ts b 512
  let mixed := mixBytes s 128 (2 ^ 24 + 128 * v) was cur
  let start := fun i => if runAcc rw' then PS.start (leAt mixed (4 * i) 4) else .fin false 0 0
  let y := mxVector rows w.m w.n (runT rw') ((upTo 0 128).map (fun j => mxVal f (leAt x (e * j) e))) start
  let word := fun i => match nthD none y i with
    | some n => toLE 4 n
    | none => if runAcc rw' then (cur.drop (4 * i)).take 4 else toLE 4 0
  let out := (upTo 0 128).flatMap (fun i =>
    let w := (was.drop (4 * i)).take 4
    let u := (cur.drop (4 * i)).take 4
    if w != u && freshBit s (2 ^ 25 + 128 * v + i) then u else word i)
  tileWrite s c ts b out (fun _ => false)

/-- The first `n` vectors of a run, with its counts (R404: fixed counter 2, event 0x0A). -/
def mxVecs (s : State) (c : Nat) (r : MxRun) (n : Nat) : State :=
  let gs := r.cmd.gslot
  let ts := (grp s c gs).tslot
  let w := r.w
  let s := count (pmcG s c gs 0x0A n) (rkey (pgCore c) 0x390) (w.m * w.n * n)
  useFree ((upTo 0 n).foldl (fun s v => mxVec s c ts w w.rows r v) s)

/-- A later command in progress reads the words of a run's results after the run has written them (R115). -/
def refresh (s : State) (c : Nat) (r : MxRun) : State :=
  let seen := fun (m : MxRun) (a : Nat) (l : List Byte) =>
    (mxWrites r.cmd).foldl (fun l w => overlay a l w.1 (tileRead s c (grp s c m.cmd.gslot).tslot w.1 w.2)) l
  setCore s c { core s c with mxRuns := (core s c).mxRuns.map (fun m =>
    { m with input := seen m m.cmd.a.toNat m.input, old := seen m m.cmd.b.toNat m.old }) }

/-- The oldest command in progress completes. -/
def mxEnd (s : State) (c : Nat) (r : MxRun) : State :=
  let gs := r.cmd.gslot
  let ts := (grp s c gs).tslot
  let s := match r.cmd.kind with
    | .loadw =>
      let n := r.input.length
      let d := mixBytes s (n / 4) 0 r.input (tileRead s c ts r.cmd.a.toNat n)
      useFree (setCore s c { core s c with shadow := loadSet d r.cmd.a r.cmd.b false })
    | .run => mxVecs s c r (runK r.cmd.c.toNat)
    | _ => s
  let s := setCore s c { core s c with mxRuns := (core s c).mxRuns.tail }
  let s := noteEngine (if r.cmd.kind = .run then refresh s c r else s) c 1 3 gs 0
  grants (release s c gs) c
def execMatrixCommandComplete (c : Nat) (s : State) : Res :=
  match (core s c).mxRuns with
  | r :: _ => .next (if s.dbg.quiet then s else mxEnd s c r)
  | [] => .next s

/-- A run stopped after one or more frames of 128 vectors, and what is left of it (R53, R122); which frame is the next preemption
point is open. -/
def mxStop (s : State) (c : Nat) (r : MxRun) : State × Option MxCmd :=
  let rw' := r.cmd.c.toNat
  let k := runK rw'
  let n := min k (128 * (freshNat s 0 % ceilDiv k 128 + 1))
  if r.cmd.kind ≠ .run ∨ n = k then (mxEnd s c r, none) else
  let s := mxVecs s c r n
  let e := mxSize (runFmt rw')
  (setCore s c { core s c with mxRuns := (core s c).mxRuns.tail },
   some { r.cmd with a := r.cmd.a + BitVec.ofNat 64 (128 * e * n), b := r.cmd.b + BitVec.ofNat 64 (512 * n)
                     c := BitVec.ofNat 64 (rw' - n) })

/-- The commands in progress stop: the older ones complete, the newest stops at its next preemption point. -/
def mxHalt : Nat → State → Nat → State × Option MxCmd
  | 0, s, _ => (s, none)
  | n + 1, s, c =>
    match (core s c).mxRuns with
    | [] => (s, none)
    | [r] => mxStop s c r
    | r :: _ => mxHalt n (mxEnd s c r) c

end Sys2Proof.Machine
end

