-- ==== Sys2Proof/Machine/TileMover.lean ====
section
/-! DEFINITION. The tile mover (R53, R96 to R98, R121, R128, R177, R187, R188, R193, R440). -/

namespace Sys2Proof.Machine

/-! ## Issue -/

def shTm : Shape := ⟨.un, .u, .u, .u, .none, 0x3F, .gu⟩
def shTmPut : Shape := ⟨.un, .u, .u, .u, .none, 0, .gu⟩

/-- Commands a tile-mover queue holds. The manual gives the queue no depth; 16 as the matrix queue (DESIGN CHOICE, assumption
19). -/
def tmDepth : Nat := 16
def tmRoom (k : Core) : Bool := decide (k.tmq.length + (if k.tmRun.isSome then 1 else 0) < tmDepth)

/-- Enqueue one command for the issue. -/
def enqueueTm (s : State) (x : Issue) (set : List Nat) (old : Group) (put : Bool) : State :=
  let k := core s x.core
  let cmd : TmCmd := { put := put, gslot := x.gslot, pc := x.pc, mask := maskOf set, a := old.u x.f.srca.toNat
                       b := old.u x.f.srcb.toNat, c := old.u x.f.srcc.toNat, mod := x.f.opmod.toNat, order := k.order, moved := 0 }
  let s := setCore s x.core { k with tmq := k.tmq ++ [cmd], order := k.order + 1 }
  grants (noteEngine s x.core 2 1 x.gslot (if put then 0x0E02 else 0x0E01)) x.core

/-- UNPACK 7 to 15 are reserved (R96). -/
def execTmGet (x : Issue) (s : State) : Res :=
  issue shTm (decide (bits x.f.opmod.toNat 4 1 ≤ 6)) (tmRoom (core s x.core)) x s
    (fun s' set _ => enqueueTm s' x set (grp s x.core x.gslot) false)
def execTmPut (x : Issue) (s : State) : Res :=
  issue shTmPut true (tmRoom (core s x.core)) x s (fun s' set _ => enqueueTm s' x set (grp s x.core x.gslot) true)

/-- TM.WAIT is the one group-uniform instruction with IC = 1 (R74, R97). -/
def waitOk (f : Fields) : Bool := f.dst == 0xFF && f.ua && f.ub && f.ic && f.srca == 0xFF && f.srcb == 0xFF && !f.ge
def execTmWait (x : Issue) (s : State) : Res :=
  issue shNone (waitOk x.f) (decide (tmPending (core s x.core) x.gslot ≤ x.f.srcc.toNat)) x s (fun s _ _ => s)

/-! ## Shape word and sizes (R96, R128) -/

def tmRow (w : Nat) : Nat := bits w 23 0
def tmRows (w : Nat) : Nat := bits w 39 24
def tmStride (w : Nat) : Nat := bits w 63 40 * 32
def TmCmd.unpack (k : TmCmd) : Nat := bits k.mod 4 1
def TmCmd.out (k : TmCmd) : Fmt := if bit k.mod 5 then binary16 else bfloat16

/-- Tile-memory bytes for packed bytes. -/
def TmCmd.size (k : TmCmd) (n : Nat) : Nat := if k.unpack = 0 then n else n / mxGroup k.unpack * 2048
/-- Packed bytes for tile-memory bytes already moved. -/
def TmCmd.skip (k : TmCmd) : Nat := if k.unpack = 0 then k.moved else k.moved / 2048 * mxGroup k.unpack

/-- Unpack groups. -/
def unpackAll (u : Nat) (f : Fmt) : Nat → List Byte → List Byte
  | 0, _ => []
  | n + 1, l => (mxUnpack u f (l.take (mxGroup u))).flatMap (toLE 2) ++ unpackAll u f n (l.drop (mxGroup u))
def TmCmd.image (k : TmCmd) (d : List Byte) : List Byte :=
  if k.unpack = 0 then d else unpackAll k.unpack k.out (d.length / mxGroup k.unpack) d

/-! ## Start -/

/-- A command faults: it leaves the engine, its requests are forgotten, and the group's later commands go. -/
def tmFault (s : State) (c : Nat) (k : TmCmd) (kind addr : Nat) : State :=
  let s := dropOwner (setCore s c { core s c with tmRun := none }) (.tm c)
  grants (engineFault s c k.gslot kind k.pc (BitVec.ofNat 64 addr) k.mask k.order) c

/-- The check of a global copy when it starts (R98, R128). -/
def tmCheck (s : State) (c : Nat) (k : TmCmd) : Option (Nat × Nat) :=
  let w := k.c.toNat
  let size := tileSize (tm s c (grp s c k.gslot).tslot)
  if tmRow w = 0 ∨ tmRow w % 32 ≠ 0 ∨ tmRows w = 0 ∨ (k.unpack ≠ 0 ∧ tmRow w % mxGroup k.unpack ≠ 0) then some (4, 0)
  else if k.b.toNat % 32 ≠ 0 then some (3, k.b.toNat)
  else if size < k.a.toNat + k.size (tmRow w * tmRows w) then some (1, max k.a.toNat size)
  else none

/-- The pieces of a global copy that are still to be moved. -/
def tmPieces (k : TmCmd) : List Piece :=
  let total := tmRow k.c.toNat * tmRows k.c.toNat
  pieces k.b.toNat (tmStride k.c.toNat) (tmRow k.c.toNat) (total / 32 + 1) k.skip total

/-- A packed range is covered by pieces that have been read. -/
def haveAll (l : List (Piece × Spot)) (lo hi : Nat) : Bool :=
  (upTo (lo / 4) ((hi + 3) / 4 - lo / 4)).all (fun i => l.any (fun q => q.1.pos ≤ 4 * i && 4 * i < q.1.pos + q.1.len))

/-- Which words of the destination a stopped TM.GET wrote is open, but none whose source lies in the faulting page (R440). -/
def getPartial (s : State) (c : Nat) (k : TmCmd) (l : List (Piece × Spot)) : State :=
  let ts := (grp s c k.gslot).tslot
  let total := tmRow k.c.toNat * tmRows k.c.toNat
  let img := k.image ((upTo 0 (total - k.skip)).flatMap (fun i =>
    match l.find? (fun q => q.1.pos ≤ k.skip + i && k.skip + i < q.1.pos + q.1.len) with
    | some q => ((pieceBytes s q).drop (k.skip + i - q.1.pos)).take 1
    | none => [0]))
  let g := mxGroup k.unpack
  let at' := k.a.toNat + k.moved
  useFree ((wordParts at' img.length).foldl (fun s' w =>
    let i := w.1 - at'
    let lo := k.skip + (if k.unpack = 0 then i else i / 2048 * g)
    let hi := if k.unpack = 0 then lo + w.2 else k.skip + ((i + w.2 - 1) / 2048 + 1) * g
    if haveAll l lo hi && freshBit s (w.1 / 4) then
      tileWrite s' c ts w.1 ((img.drop i).take w.2) (fun _ => false) else s') s)

/-- Which words of the destination a stopped TM.PUT wrote is open (R440). -/
def putPartial (s : State) (c : Nat) (k : TmCmd) (l : List (Piece × Spot)) : State :=
  let ts := (grp s c k.gslot).tslot
  useFree (l.foldl (fun s' q => match q.2 with
    | .mem p => (upTo 0 (q.1.len / 4)).foldl (fun s' i =>
        if freshBit s (q.1.pos / 4 + i) then writeOk s' (p + 4 * i) (tileRead s c ts (k.a.toNat + q.1.pos + 4 * i) 4) else s') s'
    | _ => s') s)

/-- Total length of the host pieces, in order. -/
def hostPieces (skip : Nat) (l : List (Piece × Spot)) : List (Nat × Nat) :=
  l.filterMap (fun q => match q.2 with | .host _ => some (q.1.pos - skip, q.1.len) | _ => none)

/-- Start a TM.GET on global addresses. -/
def getBegin (s : State) (c : Nat) (k : TmCmd) : State :=
  let cx := (grp s c k.gslot).ctx
  let l := spots s cx false (tmPieces k)
  match firstFault l with
  | some (kind, addr) => tmFault (getPartial s c k (aside addr l)) c k kind addr
  | none =>
    let bad := (l.flatMap (pieceBad s)).map (fun r => (r.1 - k.skip, r.2))
    match (if k.unpack = 0 then none else l.find? (fun q => !(pieceBad s q).isEmpty)) with
    | some q => tmFault s c k 8 q.1.addr
    | none =>
      let src := l.flatMap (pieceBytes s)
      let s := touchPieces s cx l
      let r := sendReads s cx (.tm c) (remotes l)
      let s := (l.foldl (fun s q => match q.2 with | .host b => emitHost s (ctx s cx).part (.hostRead b q.1.len) | _ => s) r.1)
      let run : TmRun := { cmd := k, tile := none, src := src, bad := bad, puts := []
                           wait := r.2.map (fun x => (x.1, x.2.1 - k.skip, x.2.2)), host := hostPieces k.skip l }
      setCore s c { core s c with tmRun := some run }

/-- Start a TM.PUT: remote pieces are sent, local ones are written at completion. -/
def putBegin (s : State) (c : Nat) (k : TmCmd) : State :=
  let cx := (grp s c k.gslot).ctx
  let ts := (grp s c k.gslot).tslot
  let l := spots s cx true (tmPieces k)
  match firstFault l with
  | some (kind, addr) => tmFault (putPartial s c k (aside addr l)) c k kind addr
  | none =>
    let total := tmRow k.c.toNat * tmRows k.c.toNat
    let src := tileRead s c ts (k.a.toNat + k.skip) (total - k.skip)
    let bad := (sectorsOf (k.a.toNat + k.skip) (total - k.skip)).filterMap (fun i =>
      if tileBad s c ts (32 * i) 32 then some (32 * i - (k.a.toNat + k.skip), 32) else none)
    let puts := l.filterMap (fun q => match q.2 with
      | .mem p => some (p, q.1.pos - k.skip, q.1.len, false) | .host b => some (b, q.1.pos - k.skip, q.1.len, true) | _ => none)
    let rem := (remotes l).map (fun q => ({ q.1 with pos := q.1.pos - k.skip }, q.2))
    let r := sendWrites (noteSpots s cx l) cx (.tm c) src bad rem
    let run : TmRun := { cmd := k, tile := none, src := src, bad := bad, puts := puts, wait := r.2, host := [] }
    setCore r.1 c { core r.1 c with tmRun := some run }

/-- A tile's bytes in the Loft, and its damaged sectors. -/
def tileOf (x : Stream) (t : Nat) : List Byte × List (Nat × Nat) :=
  match x.tiles.find? (fun y => y.t == t) with
  | none => ([], [])
  | some y => (SMap.getList 0 y.bytes 0 (x.rowBytes * x.rows), y.poison.map (fun p => (32 * p.1, 32)))

/-- Start a TM.GET.S whose tile is `t` (R98, R128, R177, R181). -/
def streamBegin (s : State) (c : Nat) (k : TmCmd) (t : Nat) : State :=
  let slot := k.b.toNat % 64
  let x := stream s slot
  let d := tileOf x t
  let size := tileSize (tm s c (grp s c k.gslot).tslot)
  if k.unpack ≠ 0 ∧ d.1.length % mxGroup k.unpack ≠ 0 then tmFault s c k 4 0
  else if size < k.a.toNat + k.size d.1.length then tmFault s c k 1 (max k.a.toNat size)
  else if k.unpack ≠ 0 ∧ !d.2.isEmpty then tmFault s c k 8 0
  else
    let s := setStream s slot { x with taken := SMap.put 0 x.taken c (SMap.get 0 x.taken c + 1) }
    let run : TmRun := { cmd := k, tile := some t, src := d.1, bad := d.2, puts := [], wait := [], host := [] }
    setCore s c { core s c with tmRun := some run }

/-- Start the head (R98: its checks first). A TM.GET.S with a uC of 0 or not waits as R188 says and is checked when it starts; whether a
fault of R188 or ILLEGAL is reported when both hold is open, and a free value decides (assumption 107). -/
def tmBegin (s : State) (c : Nat) (k : TmCmd) : State :=
  let s := setCore s c { core s c with tmq := (core s c).tmq.tail }
  let s := noteEngine s c 2 2 k.gslot (if k.put then 0x0E02 else 0x0E01)
  if k.isStream then
    match getCase s c k with
    | .fault kind => tmFault (useFree s) c k (if k.c ≠ 0 ∧ freshBit s 0 then 4 else kind) 0
    | .wait => s
    | .take t => if k.c ≠ 0 then tmFault s c k 4 0 else streamBegin s c k t
  else match tmCheck s c k with
    | some (kind, addr) => tmFault s c k kind addr
    | none => if k.put then putBegin s c k else getBegin s c k

/-- The tile mover starts its head when neither engine is busy and no matrix command that can start was issued earlier (R121). -/
def tmStarts (s : State) (c : Nat) : Option TmCmd :=
  if running s && enginesIdle s c then
    match tmHead s c with
    | none => none
    | some k => match mxHead s c with
      | some m => if m.order < k.order then none else some k
      | none => some k
  else none
def execTileMoverCommandStart (c : Nat) (s : State) : Res :=
  match tmStarts s c with
  | some k => .next (tmBegin s c k)
  | none => .next s

/-! ## Completion -/

/-- The bytes that came from the host, put in their places. -/
def fillHost : List (Nat × Nat) → List Byte → List Byte → List Byte
  | [], _, src => src
  | (pos, n) :: t, d, src => fillHost t (d.drop n) (splice src pos (d.take n))

/-- Write the tile-memory image of packed bytes; each sector takes the mark of the bytes it receives (R177). Words that a
thread wrote meanwhile are old or new. -/
def writeImage (s : State) (c : Nat) (r : TmRun) (img : List Byte) : State :=
  let ts := (grp s c r.cmd.gslot).tslot
  let off := r.cmd.a.toNat + r.cmd.moved
  tileWrite s c ts off img (fun i =>
    let lo := max off (32 * i)
    let hi := min (off + img.length) (32 * i + 32)
    r.cmd.unpack == 0 && badIn r.bad (lo - off) (hi - lo))

/-- Write the first `n` packed bytes of a TM.PUT to their places. -/
def writePuts (s : State) (c : Nat) (r : TmRun) (n : Nat) : State :=
  let ts := (grp s c r.cmd.gslot).tslot
  let part := (ctx s (grp s c r.cmd.gslot).ctx).part
  let now := tileRead s c ts (r.cmd.a.toNat + r.cmd.skip) r.src.length
  let d := mixAt s 0 (r.cmd.a.toNat + r.cmd.skip) r.src now
  useFree (r.puts.foldl (fun s p =>
    let m := min p.2.2.1 (n - p.2.1)
    if m = 0 then s
    else if p.2.2.2 then emitHost s part (.hostWrite p.1 ((d.drop p.2.1).take m) (badIn r.bad p.2.1 m))
    else putBytes s p.1 p.2.1 ((d.drop p.2.1).take m) r.bad) s)

/-- Bytes moved count (R404: fixed counter 3, event 0x0C). -/
def countMoved (s : State) (c gs n : Nat) : State := count (pmcG s c gs 0x0C n) (rkey (pgCore c) 0x398) n

/-- A stream's tile is consumed (R187, R188): its place is free, and a stream without DRAIN ends with its last tile. -/
def consume (s : State) (c gs slot t : Nat) : State :=
  let x := stream s slot
  if !x.live then s else
  let s := countBank s x.part 0xA0 1
  let g := grp s c gs
  let last := match x.place c with | some p => decide (SMap.get 0 x.taken c = x.share p) | none => false
  let x := { x with
    tiles := x.tiles.filter (fun y => y.t != t), consumed := insertNat x.consumed t
    takers := if last then SMap.put 0 x.takers c (g.ident (tm s c g.tslot)) else x.takers }
  let s := setStream s slot x
  if !x.drain && decide (x.tiles' ≤ x.consumed.length) then stopStream s slot 0 0 else s

/-- The command in progress completes. -/
def tmEnd (s : State) (c : Nat) (r : TmRun) (host : List Byte) : State :=
  let k := r.cmd
  let src := fillHost r.host host r.src
  let img := k.image src
  let s := if k.put then writePuts s c r r.src.length else writeImage s c r img
  let s := countMoved s c k.gslot (if k.put then src.length else img.length)
  let s := match r.tile with | some t => consume s c k.gslot (k.b.toNat % 64) t | none => s
  let s := noteEngine (setCore s c { core s c with tmRun := none }) c 2 3 k.gslot 0
  grants (release s c k.gslot) c

/-- The command may complete: every remote part is answered and the host's bytes are there. A stream tile is gathered from every die, and
waits for a port that retrains (R22). -/
def tmReady (r : TmRun) (host : List Byte) : Bool :=
  r.wait.isEmpty && host.length == (r.host.map Prod.snd).foldl (· + ·) 0
def execTileMoverCommandComplete (c : Nat) (host : List Byte) (s : State) : Res :=
  match (core s c).tmRun with
  | some r => .next (if tmReady r host && !s.dbg.quiet && !(r.tile.isSome && s.sku.dies.any (d2dBusy s)) then tmEnd s c r host else s)
  | none => .next s

/-- A copy stopped after some 4 KiB of tile memory, and what is left of it (R53); which 4 KiB is the next preemption point is
open. A stream tile completes whole. -/
def tmStop (s : State) (c : Nat) (r : TmRun) : State × Option TmCmd :=
  let k := r.cmd
  let img := k.image r.src
  let size := if k.put then r.src.length else img.length
  let n := min size (4096 * (freshNat s 0 % (ceilDiv size 4096 + 1)))
  if r.tile.isSome ∨ n = size then (tmEnd s c r [], none) else
  let s := if k.put then writePuts s c r n else useFree (writeImage s c r (img.take n))
  (countMoved (setCore s c { core s c with tmRun := none }) c k.gslot n, some { k with moved := k.moved + n })

/-! ## Load grants (R193) -/

/-- Cores that hold a grant, and the most that may. -/
def grantCount (s : State) : Nat := (s.cores.filter (fun (p : Nat × Core) => p.2.grant)).length
def grantMax (s : State) : Nat := max 1 (min 144 (reg s 8 0x100 % 256))

/-- The first request in order is granted; a core whose tile is not ready releases the grant at once. -/
def grantFirst (s : State) : State :=
  match s.box.grantReq with
  | [] => s
  | c :: t =>
    let s := { s with box := { s.box with grantReq := t } }
    if !headReady s c then setCore s c { core s c with parked := headStream s c } else
      let k := core s c
      noteEngine (setCore s c { k with grant := true }) c 2 9 (match k.tmq with | [] => 0 | x :: _ => x.gslot)
        (match k.tmq with | [] => 0 | x :: _ => x.b.toNat % 64)
def execLoadGrant (s : State) : Res :=
  .next (if running s && decide (grantCount s < grantMax s) then grantFirst s else s)

end Sys2Proof.Machine
end

