-- ==== Sys2Proof/Machine/Teams.lean ====
section
/-! DEFINITION. Admission, preemption, saving and restoring of teams (R30 to R33, R42, R53 to R56, R62, R122, R197, R326, R332). -/

namespace Sys2Proof.Machine

/-! ## Resources of a core (R42) -/

/-- `n` of the `size` numbers that `free` accepts, in an order that starts anywhere: which slot a team gets is open (assumption 1). -/
def pickFree (b size n : Nat) (free : Nat → Bool) : List Nat :=
  (((upTo 0 size).map (fun i => (b + i) % size)).filter free).take n

def freeGroupSlots (s : State) (c : Nat) : Nat := 64 - ((core s c).groups.filter (fun (p : Nat × Group) => p.2.occ)).length
def freeTeamSlots (s : State) (c : Nat) : Nat := 16 - ((core s c).teams.filter (fun (p : Nat × Team) => p.2.occ)).length
def usedRegs (s : State) (c : Nat) : Nat :=
  ((core s c).groups.map (fun (p : Nat × Group) => if p.2.occ then 32 * p.2.nreg else 0)).foldl (· + ·) 0
def usedGrans (s : State) (c : Nat) : List Nat := (core s c).teams.flatMap (fun (p : Nat × Team) => if p.2.occ then p.2.tgran else [])

/-- The core has room for a team of `g` groups, `r` registers per thread (a multiple of 8) and `t` granules. -/
def fits (s : State) (c g r t : Nat) : Bool :=
  decide (1 ≤ freeTeamSlots s c) && decide (g ≤ freeGroupSlots s c) && decide (usedRegs s c + 32 * r * g ≤ 131072)
    && decide ((usedGrans s c).length + t ≤ 512) && blkState s (pgCore c) != 7 && blkState s (pgCore c) != 6

/-- Slots and granules for a team: team slot, group slots, granules. -/
def places (s : State) (c g t : Nat) : Nat × List Nat × List Nat :=
  let used := usedGrans s c
  (nthD 0 (pickFree (freshNat s 10 % 16) 16 1 (fun i => !(tm s c i).occ)) 0,
   pickFree (freshNat s 11 % 64) 64 g (fun i => !(grp s c i).occ),
   pickFree (freshNat s 12 % 512) 512 t (fun i => !used.contains i))

/-- A held HALT request applies to the group that now occupies the slot (R62). -/
def applyHold (s : State) (c gs : Nat) : State :=
  if SMap.get false (core s c).hold gs then
    let k := core s c
    setGrp (setCore s c { k with hold := SMap.put false k.hold gs false }) c gs { grp s c gs with haltReq := true }
  else s

/-! ## Admission (R31, R42, R197, R332) -/

/-- Groups of a launch's team, and registers as allocated. -/
def Launch.groups (l : Launch) : Nat := ceilDiv l.threads 32
def Launch.regs (l : Launch) : Nat := roundUp l.nreg 8

/-- The launch of a partition that admits next: highest priority, then order of start. -/
def nextLaunch (s : State) (part : Nat) : Option Launch :=
  (s.box.launches.filter (fun l => (ctx s l.ctx).part == part && l.status == 0 && decide (l.next < l.teams))).foldl
    (fun (b : Option Launch) l => match b with
      | none => some l
      | some x => if x.prio < l.prio then some l else b) none

/-- A core on which fill places teams first (R197). -/
def fillCore (s : State) (part c : Nat) : Bool :=
  (upTo 0 64).any (fun k => let x := stream s k
    x.live && x.drain && x.part == part && x.reported.contains c)
  || (match (core s c).tmq with | [] => false | k :: _ => k.isStream && getCase s c k == .wait)

/-- Of cores, the one with the most free group slots, ties to the lowest. -/
def roomiest (s : State) (l : List Nat) : Option Nat :=
  l.foldl (fun (b : Option Nat) c => match b with
    | none => some c
    | some x => if freeGroupSlots s x < freeGroupSlots s c then some c else b) none

/-- The core for the launch's next team. -/
def placeFor (s : State) (part : Nat) (l : Launch) : Option Nat :=
  let ok := (upTo 0 144).filter (fun c => coreIn s part c && fits s c l.groups l.regs l.tmem)
  let fill := if bit (reg s 8 0x100) 8 then ok.filter (fillCore s part) else []
  roomiest s (if fill.isEmpty then ok else fill)

/-- A fresh group of a team (R30, R31). -/
def newGroup (l : Launch) (ts gid : Nat) : Group :=
  let live := l.threads - 32 * gid
  { Group.empty with
    occ := true, ctx := l.ctx, tag := l.tag, tslot := ts, gid := gid, team := l.next, nreg := l.regs
    threads := lanes.map (fun t => { pc := l.entry, stat := if t < live then .running else .exited, preds := 0, mark := false, age := 0 })
    ureg := (upTo 0 l.u.length).foldl (fun m i => SMap.put 0 m i (nthD 0 l.u i)) [] }

/-- Admit the next team of a launch to a core. -/
def admitTeam (s : State) (c : Nat) (l : Launch) : State :=
  let (ts, gl, tg) := places s c l.groups l.tmem
  let t : Team := { Team.empty with
    occ := true, ctx := l.ctx, part := (ctx s l.ctx).part, tag := l.tag, q := l.q, idx := l.idx, team := l.next, prio := l.prio
    gslots := gl, tgran := tg, ranSince := s.time.nsRun }
  let s := setTm (useFree s) c ts t
  let s := (upTo 0 gl.length).foldl (fun s i => applyHold (setGrp s c (nthD 0 gl i) (newGroup l ts i)) c (nthD 0 gl i)) s
  updLaunch s l.q l.idx (fun l => { l with next := l.next + 1 })

def execTeamAdmit (part : Nat) (s : State) : Res :=
  .next (if !running s then s else
    match nextLaunch s part with
    | none => s
    | some l => match placeFor s part l with
      | none => s
      | some c => admitTeam s c l)

/-! ## Preemption (R54, R326, R332) -/

/-- Bytes of a team's registers and tile memory. -/
def stateBytes (nregs : List Nat) (t : Nat) : Nat := (nregs.map (fun r => 128 * r + 512)).foldl (· + ·) 0 + 4096 * t
def teamBytes (s : State) (c : Nat) (t : Team) : Nat := stateBytes (t.gslots.map (fun g => (grp s c g).nreg)) t.tgran.length
def Saved.bytes (x : Saved) : Nat := stateBytes (x.groups.map (fun g => g.nreg)) x.team.tgran.length

/-- The context's save area has room for the team beside what it holds or awaits (R326). -/
def saveRoom (s : State) (c : Nat) (t : Team) : Bool :=
  let held := ((s.box.saved.filter (fun x => x.team.ctx == t.ctx)).map Saved.bytes).foldl (· + ·) 0
  let due := (s.cores.flatMap (fun (p : Nat × Core) => p.2.teams.map (fun (q : Nat × Team) =>
    if q.2.occ && q.2.preempt && !q.2.discard && q.2.ctx == t.ctx then teamBytes s p.1 q.2 else 0))).foldl (· + ·) 0
  decide (held + due + teamBytes s c t ≤ (ctx s t.ctx).saveLen)

/-- BOXO_QUANTUM in ns. -/
def quantum (s : State) : Nat := reg s 8 0x104 % 65536 * 1000

/-- Priorities of the teams of a partition that have waited the quantum for admission, or for a restore. -/
def overdue (s : State) (part : Nat) : List Nat :=
  if quantum s = 0 then [] else
  (s.box.launches.filter (fun l => (ctx s l.ctx).part == part && l.status == 0 && decide (l.next < l.teams)
      && decide (l.since + quantum s ≤ s.time.nsRun))).map (fun l => l.prio)
  ++ (s.box.saved.filter (fun x => x.team.part == part && decide (x.team.ranSince + quantum s ≤ s.time.nsRun))).map (fun x => x.team.prio)

/-- The resident teams of a partition that may be preempted, with their core and slot. -/
def residents (s : State) (part : Nat) : List (Nat × Nat × Team) :=
  (s.cores.flatMap (fun (p : Nat × Core) => p.2.teams.map (fun (q : Nat × Team) => (p.1, q.1, q.2)))).filter
    (fun x => x.2.2.occ && x.2.2.part == part && !x.2.2.preempt && saveRoom s x.1 x.2.2)

/-- The team that has run longest. -/
def longest (l : List (Nat × Nat × Team)) : Option (Nat × Nat × Team) :=
  l.foldl (fun (b : Option (Nat × Nat × Team)) x => match b with
    | none => some x
    | some y => if x.2.2.ranSince < y.2.2.ranSince then some x else b) none

/-- The team that a waiting team of priority `p` preempts: a lower priority first, else an equal one that has run the quantum. -/
def victimFor (s : State) (part p : Nat) : Option (Nat × Nat × Team) :=
  let l := residents s part
  match longest (l.filter (fun x => decide (x.2.2.prio < p))) with
  | some x => some x
  | none => longest (l.filter (fun x => x.2.2.prio == p && decide (x.2.2.ranSince + quantum s ≤ s.time.nsRun)))

/-- The victim of a partition now: no preemption of it is under way, and its highest waiting team decides. -/
def victimOf (s : State) (part : Nat) : Option (Nat × Nat × Team) :=
  match overdue s part with
  | [] => none
  | a :: t => if anyTeam s (fun x => x.part == part && x.preempt && !x.discard) then none else victimFor s part (t.foldl max a)

/-- Issue stops for every group of the team (R54 step 1). -/
def preempt (s : State) (c ts : Nat) : State :=
  let t := tm s c ts
  pmc (setTm s c ts { t with preempt := true }) c 0x11 1 t.ctx t.tag

def execQuantumExpiry (part : Nat) (s : State) : Res :=
  .next (if !running s then s else match victimOf s part with | some x => preempt s x.1 x.2.1 | none => s)

/-- PREEMPT_TEAM for its reason. TAG_CANCEL and a loss stop their teams in the step of the cancel or loss itself. -/
def preemptDue (s : State) (c ts : Nat) (why : PreemptWhy) : Bool :=
  let t := tm s c ts
  t.occ && !t.preempt && match why with
    | .quantum | .priority => (match victimOf s t.part with | some x => x.1 == c && x.2.1 == ts | none => false)
    | .test => blkState s (pgCore c) == 7
    | .cancel | .loss => false
def execPreemptTeam (c ts : Nat) (why : PreemptWhy) (s : State) : Res :=
  .next (if (running s || why == .test) && preemptDue s c ts why then preempt s c ts else s)

/-! ## The save (R54 steps 2 to 5) -/

/-- No access of the team is outstanding and its tile-mover command has nothing on its way. -/
def teamQuiet (s : State) (c ts : Nat) : Bool :=
  let k := core s c
  (tm s c ts).gslots.all (fun g => (grp s c g).accs.isEmpty && (grp s c g).sb.isEmpty && (groupReqs s c g).isEmpty)
    && (match k.tmRun with | some r => !(tm s c ts).gslots.contains r.cmd.gslot || (r.wait.isEmpty && r.host.isEmpty) | none => true)

/-- Stop the engines' commands of the team; answers what is left of each. -/
def stopEngines (s : State) (c ts : Nat) : State × Option MxCmd × Option TmCmd :=
  let mine := fun g => (tm s c ts).gslots.contains g
  let (s, m) := match (core s c).mxRuns with
    | r :: _ => if mine r.cmd.gslot then mxHalt (core s c).mxRuns.length s c else (s, none)
    | [] => (s, none)
  match (core s c).tmRun with
  | some r => if mine r.cmd.gslot then let x := tmStop s c r; (x.1, m, x.2) else (s, m, none)
  | none => (s, m, none)

/-- Remove a group's commands, faults and claim from the core. -/
def clearGroup (s : State) (c gs : Nat) : State :=
  let s := endClaim s c gs
  let k := core s c
  setCore s c { k with mxq := k.mxq.filter (fun x => x.gslot != gs), tmq := k.tmq.filter (fun x => x.gslot != gs)
                       faults := k.faults.filter (fun r => r.gslot != gs) }

/-- The team is discarded: its slots are free (R54). -/
def discardTeam (s : State) (c ts : Nat) : State :=
  (tm s c ts).gslots.foldl (fun s gs => freeGroup (clearGroup s c gs) c gs) s

/-- What a group gets back of the matrix array when it claims it again: the sets that it filled as the last holder (R105), and as the
holder its queue too (R122). -/
def backOf (k : Core) (gs : Nat) (g : Group) (left : Option MxCmd) : Option MxBack :=
  if k.last = some gs then
    let held := k.claim == some gs
    let sets := match k.reload with | some r => if held then r else (k.active.src, k.shadow.src) | none => (k.active.src, k.shadow.src)
    some { cmds := if held then left.toList ++ k.mxq.filter (fun x => x.gslot == gs) else [], active := sets.1, shadow := sets.2, held := held }
  else g.mxBack

/-- The saved form of a team; group numbers in commands are positions in the team. -/
def savedOf (s : State) (c ts : Nat) (m : Option MxCmd) (t : Option TmCmd) : Saved :=
  let k := core s c
  let x := tm s c ts
  let at' := fun (gs : Nat) => ((upTo 0 x.gslots.length).find? (fun i => nthD 0 x.gslots i == gs)).getD 0
  let grps := x.gslots.map (fun gs => let g := grp s c gs
    { g with mxBack := backOf k gs g (if k.claim = some gs then m else none), mxWait := g.mxWait || k.claim == some gs })
  let cmds := (t.toList ++ k.tmq.filter (fun y => x.gslots.contains y.gslot)).map (fun y => { y with gslot := at' y.gslot })
  let n := x.tgran.length
  { core := c, team := { x with preempt := false, ranSince := s.time.nsRun }, groups := grps
    tmem := (upTo 0 n).flatMap (fun i => let b := 4096 * nthD 0 x.tgran i
      (k.tmem.filter (fun (p : Nat × Byte) => decide (b ≤ p.1) && decide (p.1 < b + 4096))).map (fun (p : Nat × Byte) => (4096 * i + (p.1 - b), p.2)))
    tpoison := (upTo 0 n).flatMap (fun i => let b := 128 * nthD 0 x.tgran i
      (k.tpoison.filter (fun (p : Nat × Bool) => decide (b ≤ p.1) && decide (p.1 < b + 128))).map (fun (p : Nat × Bool) => (128 * i + (p.1 - b), p.2)))
    tmq := cmds }

/-- Free a saved team's slots without an end of the work. -/
def leaveCore (s : State) (c ts : Nat) : State :=
  let s := (tm s c ts).gslots.foldl (fun s gs =>
    let s := clearGroup s c gs
    let k := (core s c).leaveMx gs
    setCore s c { k with groups := SMap.put Group.empty k.groups gs Group.empty }) s
  setTm s c ts Team.empty

/-- The core writes a team's state to the save area of its context (R54 step 4). The manual gives neither the layout nor the place in the area:
the bytes are open, and so is where they begin (assumption 126); the restore takes the state from `saved`. -/
def writeSave (s : State) (x : Saved) : State :=
  let cx := ctx s x.team.ctx
  let n := x.bytes
  if cx.saveLen < n then s else
  writeOk s (cx.savePa + 32 * (freshNat s 20 % ((cx.saveLen - n) / 32 + 1))) ((upTo 0 n).map (Config.saveByte s.free))

/-- The team leaves the core. A fault that still waits to be recorded is recorded first. -/
def saveTeam (s : State) (c ts : Nat) : State :=
  let t0 := tm s c ts
  let (s, m, t) := stopEngines s c ts
  let s := useFree s
  if !(tm s c ts).occ then s
  else if t0.discard then grants (discardTeam s c ts) c
  else
    let x := savedOf s c ts m t
    let s := note s 1 c 0 0x05 (some t0.part) (some t0.ctx) t0.tag ts
    let s := useFree (writeSave s x)
    grants (leaveCore { s with box := { s.box with saved := s.box.saved ++ [x] } } c ts) c

def canSave (s : State) (c ts : Nat) : Bool :=
  let t := tm s c ts
  t.occ && t.preempt && !s.dbg.raised && teamQuiet s c ts
    && (t.discard || (core s c).faults.all (fun r => !t.gslots.contains r.gslot))
def execTeamSaved (c ts : Nat) (s : State) : Res :=
  .next (if canSave s c ts then saveTeam s c ts else s)

/-! ## The restore (R32, R56, R62) -/

/-- Put a saved team back onto its core in free slots. -/
def restoreTeam (s : State) (x : Saved) : State :=
  let c := x.core
  let n := x.team.tgran.length
  let (ts, gl, tg) := places s c x.groups.length n
  let slot := fun i => nthD 0 gl i
  let s := setTm (useFree s) c ts { x.team with gslots := gl, tgran := tg, ranSince := s.time.nsRun }
  let s := (upTo 0 gl.length).foldl (fun s i =>
    let g := nthD Group.empty x.groups i
    let back := g.mxBack.map (fun b => { b with cmds := b.cmds.map (fun y => { y with gslot := slot i }) })
    applyHold (setGrp s c (slot i) { g with tslot := ts, mxBack := back }) c (slot i)) s
  let k := core s c
  let inNew := fun (p : Nat) => tg.contains (p / 4096)
  let k := { k with
    tmq := k.tmq ++ x.tmq.map (fun y => { y with gslot := slot y.gslot })
    tmem := x.tmem.foldl (fun m p => SMap.put 0 m (4096 * nthD 0 tg (p.1 / 4096) + p.1 % 4096) p.2) (SMap.keep (fun p => !inNew p) k.tmem)
    tpoison := x.tpoison.foldl (fun m p => SMap.put false m (128 * nthD 0 tg (p.1 / 128) + p.1 % 128) p.2)
      (SMap.keep (fun p => !inNew (32 * p)) k.tpoison) }
  grants (note (setCore s c k) 1 c 0 0x06 (some x.team.part) (some x.team.ctx) x.team.tag ts) c

/-- The saved team of an index, when it may return to its core. -/
def restorable (s : State) (c idx : Nat) : Option Saved :=
  match (s.box.saved.filter (fun x => x.core == c)).drop idx with
  | [] => none
  | x :: _ =>
    if running s && (ctx s x.team.ctx).st == 1 && fits s c x.groups.length ((x.groups.map (fun g => g.nreg)).foldl max 0) x.team.tgran.length
    then some x else none
def execTeamRestore (c idx : Nat) (s : State) : Res :=
  match restorable s c idx with
  | some x => .next (restoreTeam { s with box := { s.box with saved := dropFirst (fun y => y == x) s.box.saved } } x)
  | none => .next s

end Sys2Proof.Machine
end

