-- ==== Sys2Proof/Machine/CoreEvents.lean ====
section
/-! DEFINITION. Events of a core: instruction fetches, breakpoints, barrier watchdogs, the fault record, halting and stepping (R48 to
R52, R57 to R62, R83). -/

namespace Sys2Proof.Machine

/-! ## Instruction fetch (R83, R158) -/

/-- The fetch of the group's set at `pc` brings in its words, or faults at the fetched address for every thread of the set. -/
def fetchFor (s : State) (c gs : Nat) (pc : W64) : State :=
  let g := grp s c gs
  let set := g.setAt pc
  let l := fetchWords s g.ctx pc
  match l.find? (fun w => w.2.1 != 0) with
  | some w => takeFault s c gs pc (set.map (fun t => (t, w.2.1, some w.1))) false (maskOf set) 0
  | none => l.foldl (fun s w => icFill (l2Read (noteXlat s c g.ctx (vaOf w.1)) (w.2.2 / 128) 15) c (w.2.2 / 128)) s

/-- The set at `pc` is chosen and its word is fetched, but its opcode is reserved (R67). -/
def reservedNext (s : State) (c gs : Nat) (pc : W64) : Bool :=
  let x : Issue := { core := c, gslot := gs, pc := pc, f := decodeFields 0 0 }
  (gate s x).isSome && (match resident s c (grp s c gs).ctx pc with
    | some pa => reservedWord (BitVec.ofNat 64 (peekLE s pa 8)) x
    | none => false)

/-- The group fetches: it is resident and issues. -/
def fetches (s : State) (c gs : Nat) (pc : W64) : Bool :=
  let g := grp s c gs
  running s && s.sku.core c && decide (gs < 64) && g.occ && !g.stopped && !g.halted && !(tm s c g.tslot).preempt && !(g.setAt pc).isEmpty

/-- The fetch of a set. Where the word is there already and its opcode is reserved, no row of the table issues it, and this command is
its issue: ILLEGAL for every thread of the set (DESIGN CHOICE, assumption 118). -/
def execIcacheFill (c gs : Nat) (pc : W64) (s : State) : Res :=
  .next (if reservedNext s c gs pc then
      takeFault s c gs pc (((grp s c gs).setAt pc).map (fun t => (t, 4, none))) false (maskOf ((grp s c gs).setAt pc)) 0
    else if fetches s c gs pc then fetchFor s c gs pc else s)

/-! ## Halts (R58 to R62) -/

/-- The group halts with a cause; no breakpoint is to be passed. -/
def haltGroup (s : State) (c gs cause : Nat) : State :=
  setGrp s c gs { grp s c gs with halted := true, cause := cause, haltReq := false, passBp := none }

/-- The group halts at a breakpoint; the instruction there will be passed once (R61). -/
def haltAt (s : State) (c gs : Nat) (pc : W64) : State :=
  setGrp s c gs { grp s c gs with halted := true, cause := 3, haltReq := false, passBp := some pc }

def execBreakpointHalt (c gs : Nat) (pc : W64) (s : State) : Res :=
  .next (if fetches s c gs pc && bpHit s c (grp s c gs) pc then haltAt s c gs pc else s)

/-- GSLOT of CORE_DBG_CTL. -/
def selectGroup (s : State) (c gs : Nat) : State := setField s (pgCore c) 0x100 5 0 gs

/-- A write of CORE_DBG_CTL: ignored while debug is locked (R57). -/
def dbgWrite (s : State) (fn c gs : Nat) (f : State → State) : State :=
  pageWrite s fn (pgCore c) (fun s => if scopeBit s 0 && decide (gs < 64) then f (selectGroup s c gs) else s)

/-- A HALT request; one for an empty slot or a team that is being preempted is held (R62). -/
def requestHalt (s : State) (c gs : Nat) : State :=
  let g := grp s c gs
  if !g.occ || (tm s c g.tslot).preempt then
    let k := core s c
    setCore s c { k with hold := SMap.put false k.hold gs true }
  else if g.halted then s else setGrp s c gs { g with haltReq := true }
def execHalt (fn c gs : Nat) (s : State) : Res := .next (dbgWrite s fn c gs (fun s => requestHalt s c gs))

/-- The halting group's loads have returned and its stores have drained. -/
def haltReady (s : State) (c gs : Nat) : Bool :=
  let g := grp s c gs
  g.occ && g.haltReq && !g.halted && !g.stopped && g.accs.isEmpty && g.sb.isEmpty
def execGroupHalted (c gs : Nat) (s : State) : Res := .next (if haltReady s c gs then haltGroup s c gs 1 else s)

/-- The halted group issues again; from a breakpoint it passes the comparator once (R61). -/
def resumeGroup (s : State) (c gs : Nat) : State :=
  let g := grp s c gs
  if g.halted then
    release (setGrp s c gs { g with halted := false, cause := 0, stepReq := none, stepping := false, passBp := if g.cause = 3 then g.passBp else none }) c gs
  else s
def execResume (fn c gs : Nat) (s : State) : Res := .next (dbgWrite s fn c gs (fun s => resumeGroup s c gs))

/-- A step of the halted group: for the scheduler's set, or for the set at STEPPC; with no set there the step is done (R59). -/
def stepGroup (s : State) (c gs : Nat) (sel : Bool) : State :=
  let g := grp s c gs
  let at' : W64 := BitVec.ofNat 64 (reg s (pgCore c) 0x110)
  let s := setField s (pgCore c) 0x100 11 11 sel.toNat
  if !g.halted then s
  else if sel && (g.setAt at').isEmpty then stepDone s c
  else setGrp s c gs { g with stepReq := some (if sel then some at' else none) }
def execStep (fn c gs : Nat) (sel : Bool) (s : State) : Res := .next (dbgWrite s fn c gs (fun s => stepGroup s c gs sel))

/-- The stepped instruction's loads have returned and its stores have reached L1. -/
def stepQuiet (s : State) (c gs : Nat) : Bool :=
  let g := grp s c gs
  g.occ && g.halted && g.stepping && !g.stopped && g.accs.isEmpty && g.sb.isEmpty
def execStepRetire (c gs : Nat) (s : State) : Res :=
  .next (if stepQuiet s c gs then stepDone (setGrp s c gs { grp s c gs with stepping := false, cause := 2 }) c else s)

/-! ## Barrier watchdogs (R48) -/

/-- The watchdog count of a barrier has reached its limit and does not pause. -/
def watchFired (w : Option Watch) : Bool := match w with | some x => decide (x.limit ≤ x.count) | none => false
def barDue (s : State) (c : Nat) (team : Bool) (slot : Nat) : Bool :=
  !s.dbg.raised && (if team then
      let t := tm s c slot
      t.occ && !t.preempt && watchFired t.watch && t.gslots.all (fun g => !(grp s c g).halted)
    else
      let g := grp s c slot
      g.occ && !g.halted && !(tm s c g.tslot).preempt && watchFired g.watch)

/-- The groups with waiting threads, and what they wait at. -/
def barGroups (s : State) (c : Nat) (team : Bool) (slot : Nat) : List Nat :=
  (if team then (tm s c slot).gslots.foldl insertNat [] else [slot]).filter
    (fun g => !((grp s c g).waiting (if team then .barT else .barG)).isEmpty)

/-- Restart or end the count. -/
def setWatch (s : State) (c : Nat) (team : Bool) (slot : Nat) (w : Option Watch) : State :=
  if team then setTm s c slot { tm s c slot with watch := w } else setGrp s c slot { grp s c slot with watch := w }

/-- The waiting threads of one group fault with BARRIER_STARVED. The record's address is that of the barrier instruction of the lowest of
them, 8 below its program counter (DEDUCED, assumption 40). -/
def starve (s : State) (c : Nat) (team : Bool) (gs : Nat) : State :=
  let g := grp s c gs
  let w := g.waiting (if team then .barT else .barG)
  takeFault s c gs ((g.thr (nthD 0 w 0)).pc - 8) (w.map (fun t => (t, 5, none))) false (maskOf w) 0

/-- The watchdog fires: an ordinary context's waiting threads fault, a debug context's waiting groups halt. -/
def barFire (s : State) (c : Nat) (team : Bool) (slot : Nat) : State :=
  let l := barGroups s c team slot
  let gs := nthD 0 l 0
  let g := grp s c gs
  let s := note s 1 c 0 0x0B (corePart s c) (some g.ctx) g.tag gs
  if (ctx s g.ctx).debug then
    l.foldl (fun s gs => haltGroup s c gs 5) (setWatch s c team slot (some { count := 0, limit := barLimit s c }))
  else l.foldl (fun s gs => starve s c team gs) (setWatch s c team slot none)
def execBarrierWatchdogExpiry (c : Nat) (team : Bool) (slot : Nat) (s : State) : Res :=
  .next (if barDue s c team slot then barFire s c team slot else s)

/-! ## The fault record (R51, R52) -/

/-- CORE_FLT_INFO of a fault, with VALID. -/
def FaultRec.info (r : FaultRec) : Nat :=
  r.kind % 16 + r.gslot % 64 * 2 ^ 4 + r.tslot % 16 * 2 ^ 10 + r.engine.toNat * 2 ^ 14 + r.ctx % 4096 * 2 ^ 16 + 2 ^ 31

/-- VALID of a core's record. -/
def fltValid (s : State) (c : Nat) : Bool := bit (reg s (pgCore c) 0xC0) 31

/-- The first waiting fault, when the record is free, the faulting threads' earlier stores have drained (R49 step 3) and every other
access of the instruction has returned, so that the record holds every thread it faulted for (R52). -/
def faultReady (s : State) (c : Nat) : Option FaultRec :=
  if fltValid s c || s.dbg.raised then none else
  match (core s c).faults with
  | [] => none
  | r :: _ =>
    let g := grp s c r.gslot
    if r.engine || (g.sb.all (fun e => !r.mask.testBit e.th) && g.accs.all (fun a => r.ins != some a.ins)) then some r else none

/-- Write the record; in a debug context the group halts with cause 6. -/
def writeRecord (s : State) (c : Nat) (r : FaultRec) : State :=
  let p := pgCore c
  let s := setReg (setReg s p 0xC0 r.info) p 0xC4 r.mask
  let s := setReg (setReg s p 0xC8 r.pc.toNat) p 0xD0 r.addr.toNat
  let s := setReg s p 0xD8 (r.tag % 65536 + r.code % 65536 * 65536)
  let s := setCore s c { core s c with faults := (core s c).faults.tail }
  if (ctx s r.ctx).debug then
    setGrp s c r.gslot { grp s c r.gslot with stopped := false, halted := true, cause := 6, haltReq := false, passBp := none }
  else s
def execFaultRecordWrite (c : Nat) (s : State) : Res :=
  match faultReady s c with
  | some r => .next (writeRecord s c r)
  | none => .next s

/-- Completion status of a fault kind (R51). -/
def kindStatus (k : Nat) : Nat :=
  if k = 1 ∨ k = 3 then 5 else if k = 2 then 6 else if k = 5 then 7 else if k = 8 then 9 else 8

/-- Clear VALID. -/
def clearFlt (s : State) (c : Nat) : State := setReg s (pgCore c) 0xC0 (reg s (pgCore c) 0xC0 % 2 ^ 31)

/-- The Box Office takes a record: the context's fault state, VALID, and the loss of an ordinary context. -/
def copyRecord (s : State) (c : Nat) : State :=
  let p := pgCore c
  let info := reg s p 0xC0
  let cx := bits info 27 16
  let t := tm s c (bits info 13 10)
  let pc : W64 := BitVec.ofNat 64 (reg s p 0xC8)
  let addr : W64 := BitVec.ofNat 64 (reg s p 0xD0)
  let word : W64 := BitVec.ofNat 64 (info + reg s p 0xD8 * 2 ^ 32)
  let s := clearFlt s c
  let x := ctx s cx
  if x.debug then setCtx s cx { x with fltAddr := pc, fltData := addr, fltInfo := word }
  else loseCtx s cx (kindStatus (info % 16)) pc addr word (if t.occ && t.ctx == cx then some (t.q, t.idx) else none)
def execFaultRecordCopy (c : Nat) (s : State) : Res :=
  .next (if fltValid s c && !s.dbg.raised && s.pow.power == .active then copyRecord s c else s)

/-- FLT_INFO_CLEAR: W1C of VALID. -/
def execFltInfoClear (fn c : Nat) (s : State) : Res := .next (pageWrite s fn (pgCore c) (fun s => clearFlt s c))

end Sys2Proof.Machine
end

