-- ==== Sys2Proof/Machine/Ports.lean ====
section
/-! DEFINITION. The fabric ports (R234 to R239, R261 to R266, R413): states, training, the rigging check, the receive side of the link
layer, draining for a plan. -/

namespace Sys2Proof.Machine

/-! ## States -/

/-- A port changes LSTATE; one that leaves service sets DOWN, may abort the plan and may cost the time unit its parent. -/
def setLstate (s : State) (n st : Nat) : State :=
  let p := port s n
  if p.lstate = st then s else
  let s := note (setPort s n { p with lstate := st }) 11 n 0 0x11 none none 0 st
  if p.inService && !(port s n).inService then linkGone (planLink (raiseErr s (pgXprt n) 4) n) else s

/-- A rigging outcome; a change sets RIG_CHANGE. -/
def setRig (s : State) (n r : Nat) : State :=
  let p := port s n
  if p.rig = r then s else raiseErr (setPort s n { p with rig := r }) (pgXprt n) 1

/-- The ports may train: the rails are up and the Ringmaster has started fabric training. -/
def portsUp (s : State) : Bool := s.pow.power == .active && decide (2 ≤ s.pow.svc)

/-- The port is fitted, not held down and not under a pattern test, and the Ringmaster runs, which trains links (R356). -/
def mayTrain (s : State) (n : Nat) : Bool := portsUp s && s.rm.up && s.sku.port n && !(port s n).disable && (port s n).prbs == 0

/-! ## What a failed link leaves (R239) -/

def flitVc (f : List Byte) : Nat := bits (hdrOf f) 23 22
def flitLast (f : List Byte) : Bool := bit (hdrOf f) 41

/-- Cut flits of one channel into runs that end with the last flit of a packet; an unfinished run is dropped. -/
def packetRuns : List (List Byte) → List (List Byte) → List (List (List Byte))
  | _, [] => []
  | acc, f :: t => if flitLast f then (acc ++ [f]) :: packetRuns [] t else packetRuns (acc ++ [f]) t

/-- The packets of VC0 and VC1 that the port has not delivered whole, with their hop classes. -/
def unsent (p : Port) : List (Pkt × Nat) :=
  let l := p.sent ++ p.retry.map Prod.snd ++ p.queue.map Prod.snd
  [0, 1].flatMap (fun vc => (packetRuns [] (l.filter (fun f => flitVc f == vc))).map
    (fun r => (pktOf r, bits (hdrOf (nthD [] r 0)) 26 24)))

/-- Send a packet that is under way by a route; where none remains, a request is answered NO_ROUTE (R253). -/
def resend (s : State) (p : Pkt) (hclass : Nat) : State :=
  match (if vcOf p.kind = 3 then (minRoute s p.dst).map Prod.fst else if p.src = chipNo s then route s (vcOf p.kind) p.dst else onward s p.src p.dst) with
  | some m => sendOn s m p hclass
  | none => if vcOf p.kind = 0 then answer s p none 4 [] else s

/-- The port as full training leaves it: its plan entry, outcome and controls, a fresh link layer. -/
def Port.fresh (p : Port) : Port :=
  { Port.empty with lstate := p.lstate, rig := p.rig, loc := p.loc, pchip := p.pchip, pport := p.pport, pv := p.pv
                    disable := p.disable, prbs := p.prbs, newEnt := p.newEnt }

/-- The link goes to state `st` and its link layer starts anew: VC0 and VC1 packets go another way, the others are dropped. -/
def dropLink (s : State) (n st : Nat) : State :=
  let s := setLstate s n st
  let l := unsent (port s n)
  l.foldl (fun s x => resend s x.1 x.2) (setPort s n (port s n).fresh)

/-- Full training, where the port may train; otherwise it stays down. -/
def trainPort (s : State) (n : Nat) : State := dropLink s n (if mayTrain s n then 1 else 0)

/-- The entry that a plan change brought takes effect. -/
def Port.takeEnt (p : Port) : Port :=
  match p.newEnt with
  | some (l, c, q, v) => { p with loc := l, pchip := c, pport := q, pv := v, newEnt := none }
  | none => p
def takeEnt (s : State) (n : Nat) : State := setPort s n (port s n).takeEnt

/-- A port with a new plan entry or a pattern test stops taking packets (R263 step 1); one that carries nothing goes down at once. -/
def drainPort (s : State) (n : Nat) : State :=
  let st := (port s n).lstate
  if st = 2 ∨ st = 3 then setLstate s n 6
  else if st = 4 ∨ st = 6 then s
  else trainPort (takeEnt s n) n

/-! ## Fast retrains (R237, R239) -/

def startRetrain (s : State) (n : Nat) : State :=
  let naks := (port s n).naks
  let s := countPort (raiseErr (setLstate s n 4) (pgXprt n) 2) n 0xE0 1
  setPort (note s 11 n 0 0x12 none none 0 naks) n { port s n with naks := 0 }

/-- The port is up with packets flowing on some channel, or sending what it still has. -/
def flows (s : State) (n : Nat) : Bool :=
  s.sku.port n && ((port s n).lstate == 2 || (port s n).lstate == 3 || (port s n).lstate == 6)
def execAckTimeout (n : Nat) (s : State) : Res :=
  .next (if flows s n && !(port s n).retry.isEmpty then startRetrain s n else s)

/-- Send the retry buffer again, in order. -/
def resendRetry (s : State) (n : Nat) : State := (port s n).retry.foldl (fun s f => emit s (.flit n f.2)) s

/-- The state of a checked link. -/
def Port.served (p : Port) : Nat := if p.rig = 1 ∨ p.rig = 5 then 2 else 3

/-- A fast retrain ends: the link goes on, or drains when a change waits for it; a failed one leads to full training. -/
def endRetrain (s : State) (n : Nat) (ok : Bool) : State :=
  let p := port s n
  if ok then
    let s := setPort s n { p with naking := false }
    let s := resendRetry (setLstate s n (if p.newEnt.isSome || p.prbs != 0 then 6 else p.served)) n
    pump s n
  else trainPort (takeEnt s n) n
def execFastRetrainComplete (n : Nat) (ok : Bool) (s : State) : Res :=
  .next (if s.sku.port n && (port s n).lstate == 4 then endRetrain s n ok else s)

/-! ## The receive side (R236 to R238) -/

/-- Numbered flits up to `seq` that the neighbour has: those acknowledged, and those left. -/
def splitAck (seq : Nat) : List (Nat × List Byte) → Option (List (List Byte) × List (Nat × List Byte))
  | [] => none
  | (k, f) :: t => if k = seq then some ([f], t) else (splitAck seq t).map (fun r => (f :: r.1, r.2))

/-- Acknowledged flits whose packet is not all acknowledged. -/
def trimSent : List (List Byte) → List (List Byte)
  | [] => []
  | f :: t => if (f :: t).any (fun g => flitVc g == flitVc f && flitLast g) then trimSent t else f :: trimSent t

/-- The neighbour acknowledges flits up to a number. -/
def takeAck (s : State) (n seq : Nat) : State :=
  let p := port s n
  match splitAck seq p.retry with
  | some (l, rest) => setPort s n { p with retry := rest, sent := trimSent (p.sent ++ l), naks := 0 }
  | none => s

/-- A NAK: send everything after it again; 16 in a row without progress start a fast retrain. -/
def takeNak (s : State) (n : Nat) : State :=
  let s := setPort s n { port s n with naks := (port s n).naks + 1 }
  if 16 ≤ (port s n).naks ∧ flows s n then startRetrain s n else resendRetry s n

/-- A NULL flit from port `n` with an acknowledgement and the buffer places of channel `vc` that are free again. -/
def sendNull (s : State) (n : Nat) (nak : Bool) (vc freed : Nat) : State := emit s (.flit n (nullFlit (port s n) nak vc freed))

/-- Discard a flit; the first of a run sends NAK. -/
def refuseFlit (s : State) (n : Nat) : State :=
  let p := port s n
  if p.naking then s
  else countPort (sendNull (setPort s n { p with naking := true }) n true 0 0) n 0xD8 1

/-- The packet ends here: a management packet that names no chip, and a multicast packet, is for this one too. -/
def forHere (s : State) (p : Pkt) : Bool :=
  chipNo s == 0xFFFF || p.dst == chipNo s || p.kind == 7 || (vcOf p.kind == 3 && p.dst == 0xFFFF)

/-- A whole packet arrived: it goes to this chip's units, or on toward its destination (R240, R252). -/
def deliver (s : State) (n : Nat) (p : Pkt) (hclass : Nat) : State :=
  if forHere s p then emit s (.packet (some n) p)
  else if 4 ≤ hclass then countPort s n 0xF8 1
  else resend s p (hclass + 1)

/-- Acknowledge the flit just accepted, with the buffer places of channel `vc` that are free again. -/
def ackFlit (s : State) (n vc freed : Nat) : State := sendNull s n false vc freed

/-- Flits of a channel that wait for the rest of their packet, and the other channels' flits. -/
def heldOf (p : Port) (vc : Nat) : List (List Byte) := p.held.filter (fun f => flitVc f == vc)
def heldElse (p : Port) (vc : Nat) : List (List Byte) := p.held.filter (fun f => flitVc f != vc)

/-- A numbered flit in order. A reserved value, a flit without its first one, and a channel that a quarantined link does not carry
are discarded with their packet. A collective engine gives back the VC2 places of a packet for this chip when it takes it (R280). -/
def acceptFlit (s : State) (n : Nat) (f : List Byte) : State :=
  let p := port s n
  let h := hdrOf f
  let vc := flitVc f
  let s := countPort (setPort s n { p with rxExp := (p.rxExp + 1) % 1024, naking := false }) n 0xC8 1
  let p := port s n
  let run := if bit h 40 then [f] else heldOf p vc ++ [f]
  let k := (heldOf p vc).length + 1
  if hdrBad h || decide (vcOf (bits h 39 36) ≠ vc) then
    ackFlit (countPort (setPort s n { p with held := heldElse p vc }) n 0xF8 1) n vc k
  else if !carries p.lstate vc || !bit (hdrOf (nthD [] run 0)) 40 then ackFlit (setPort s n { p with held := heldElse p vc }) n vc k
  else if bit h 41 then
    let q := pktOf run
    deliver (ackFlit (setPort s n { p with held := heldElse p vc }) n vc (if vc = 2 && forHere s q then 0 else k)) n q (bits h 26 24)
  else ackFlit (setPort s n { p with held := heldElse p vc ++ run }) n vc (k - run.length)

/-- A received flit. -/
def takeFlit (s : State) (n : Nat) (f : List Byte) : State :=
  if crc32c (f.take 252) ≠ leAt f 252 4 then refuseFlit (countPort s n 0xD0 1) n else
  let h := hdrOf f
  let s := if bit h 20 then takeAck s n (bits h 19 10) else s
  let s := if bits h 35 29 ≤ 64 then setPort s n (giveCredits (port s n) (bits h 28 27) (bits h 35 29)) else s
  let s := if bit h 21 then takeNak s n else s
  let s := if bits h 39 36 = 0 then (if hdrBad h then countPort s n 0xF8 1 else s)
    else if bits h 9 0 = (port s n).rxExp then acceptFlit s n f else refuseFlit s n
  pump s n
def execFlitReceive (n : Nat) (f : List Byte) (s : State) : Res :=
  .next (if s.sku.port n && f.length == 256 && [2, 3, 6].contains (port s n).lstate then takeFlit s n f else s)

/-! ## Training and the rigging check (R235, R261, R265) -/

/-- The lanes come up: a skew of more than 10 ns fails the training and a loop beyond 944 ns keeps the port down; otherwise it announces
its chip and port number, the protocol version 2.1 and its troupe kind (the layout of that VC3 packet is not given). -/
def lanesUp (s : State) (n loop skew : Nat) : State :=
  if 10 < skew then setLstate s n 0
  else if 944 < loop then setLstate s n 7
  else
    let s := setLstate s n 1
    emit (setPort s n { port s n with loopNs := loop }) (.announce n (chipNo s) 2 1 s.fab.plan.members)

/-- The port trains: in TRAINING, or down and dark with a training every second. -/
def trains (s : State) (n : Nat) : Bool :=
  mayTrain s n && ((port s n).lstate == 1 || ((port s n).lstate == 0 && (port s n).rig == 4))
def execPortTrainingComplete (n : Nat) (x : Trained) (s : State) : Res := .next (if trains s n then lanesUp s n x.loop x.skew else s)

/-- The outcome of an announcement against the plan: MATCH, SWAPPED or UNPLANNED. -/
def checkRig (s : State) (p : Port) (chip q members : Nat) : Nat :=
  if members ≠ s.fab.plan.members ∨ !p.pv ∨ chipNo s = 0xFFFF then 3
  else if p.pchip = chip ∧ p.pport = q then 1
  else if s.fab.plan.ends.contains (chip, q) then 2
  else 3

/-- A peer's announcement; the versions are checked first, minors settle on the lower. -/
def announced (s : State) (n chip q major minor members : Nat) : State :=
  let p := { port s n with achip := chip % 65536, aport := q % 32, amaj := major % 16, amin := minor % 16, amem := members }
  let s := setPort s n p
  if major ≠ 2 then raiseErr (setLstate (setRig s n 0) n 5) (pgXprt n) 8
  else
    let r := checkRig s p chip q members
    let s := setRig (setPort s n { p with minor := min minor 1 }) n r
    setLstate s n (if r = 1 then 2 else 3)
def execRiggingAnnouncement (n chip q major minor members : Nat) (s : State) : Res :=
  .next (if mayTrain s n && (port s n).lstate == 1 && (port s n).loopNs != 0 then announced s n chip q major minor members else s)

/-- No signal from the peer within 1 s: DARK and down; training repeats. -/
def execRiggingDarkTimeout (n : Nat) (s : State) : Res :=
  .next (if mayTrain s n && (port s n).lstate == 1 then dropLink (setRig s n 4) n 0 else s)

/-- A link loses its signal: it retrains and is checked again; while the Ringmaster is down it stays down (R356). -/
def execLinkSignalLoss (n : Nat) (s : State) : Res :=
  .next (if portsUp s && s.sku.port n && !(port s n).disable && (port s n).prbs == 0 && 2 ≤ (port s n).lstate
         then trainPort (takeEnt s n) n else s)

/-! ## Plan changes (R263, R264) -/

/-- A port's entry in a plan. -/
def planEntry (p : Plan) (n : Nat) : Bool × Nat × Nat × Bool :=
  match p.ports.find? (fun x => x.1 == n) with
  | some (_, l, c, q) => (l, c, q, true)
  | none => (false, 0xFFFF, 0, false)

/-- The entry a port has. -/
def Port.entry (p : Port) : Bool × Nat × Nat × Bool := (p.loc, p.pchip, p.pport, p.pv)

/-- A change of this chip's number clears what counts packets between chips (R264). -/
def clearPairs (s : State) : State :=
  { s with fab := { s.fab with pseq := [], expect := [], reorder := [], hist := [], reqs := [] } }

/-- A quarantined link is compared with the plan again; one that now matches enters service (R262). -/
def recheck (s : State) (n : Nat) : State :=
  let p := port s n
  if p.lstate ≠ 3 then s else
  let r := checkRig s p p.achip p.aport p.amem
  let s := setRig s n r
  if r = 1 then setLstate s n 2 else s

/-- A plan takes effect: its entries replace the old ones, and each port whose entry changes drains; so does every port when the chip's
own number changes, but not when it gets a first one (R263, R264). -/
def applyPlan (s : State) (p : Plan) : State :=
  let moved := decide (s.fab.plan.chip ≠ p.chip ∧ s.fab.plan.chip ≠ 0xFFFF)
  let s := if moved then clearPairs s else s
  let s := { s with fab := { s.fab with plan := p, pending := none, down := [] }
                    time := { s.time with cand := 0, lastMeas := s.time.nsRun, gm := s.time.gm && (gms p).contains p.chip } }
  let s := (upTo 0 32).foldl (fun s n =>
    if s.sku.port n && (moved || (port s n).entry != planEntry p n)
    then drainPort (setPort s n { port s n with newEnt := some (planEntry p n) }) n else if s.sku.port n then recheck s n else s) s
  timeLink s

/-- Ten microseconds later a draining port goes down; it trains against its new entry unless a pattern test runs. -/
def portDown (s : State) (n : Nat) : State :=
  let s := takeEnt (dropLink s n 0) n
  if mayTrain s n then setLstate s n 1 else s
def execPlanPortDown (n : Nat) (s : State) : Res :=
  .next (if s.sku.port n && (port s n).lstate == 6 then portDown s n else s)

/-! ## XPRT_CTL and XPRT_PRBS -/

def execRetrain (fn n : Nat) (s : State) : Res :=
  .next (if !s.sku.port n then s else pageWrite s fn (pgXprt n) (fun s => if mayTrain s n then trainPort s n else s))

/-- DISABLE holds the port down; its release trains the port. -/
def setDisable (s : State) (n : Nat) (b : Bool) : State :=
  if (port s n).disable = b then s else trainPort (takeEnt (setPort s n { port s n with disable := b }) n) n
def execDisable (fn n : Nat) (b : Bool) (s : State) : Res :=
  .next (if !s.sku.port n then s else pageWrite s fn (pgXprt n) (fun s => setDisable s n b))

/-- ACCEPT takes a SWAPPED link into service with the announced peer (R262). -/
def acceptLink (s : State) (n : Nat) : State :=
  if (port s n).rig = 2 ∧ (port s n).lstate = 3 then setLstate (setRig s n 5) n 2 else s
def execAccept (fn n : Nat) (s : State) : Res :=
  .next (if !s.sku.port n then s else pageWrite s fn (pgXprt n) (fun s => acceptLink s n))

/-- A write of MODE clears the error counts; a pattern takes the port out of service, 0 trains it (R413). -/
def setPrbs (s : State) (n mode : Nat) : State :=
  let s := (upTo 0 4).foldl (fun s k => setReg s (pgXprt n) (0xA4 + 4 * k) 0) s
  let was := (port s n).prbs
  let s := setPort s n { port s n with prbs := mode }
  if mode = 0 then trainPort (takeEnt s n) n else if was = 0 then drainPort s n else s
def execPrbsModeWrite (fn n mode : Nat) (s : State) : Res :=
  .next (if !s.sku.port n then s else pageWrite s fn (pgXprt n) (fun s => if mode % 4 = 3 then s else setPrbs s n (mode % 4)))

end Sys2Proof.Machine
end

