-- ==== Sys2Proof/Machine/Idle.lean ====
section
/-! DEFINITION. Leaving Idle (R383 to R385). -/

namespace Sys2Proof.Machine

/-- Every fitted port trains. -/
def trainAll (s : State) : State := (upTo 0 32).foldl (fun s n => if s.sku.port n then trainPort s n else s) s

/-- The exit: SERVICE, RESULT 5, the event in WHY, REQ 0; the ports train. -/
def leaveIdle (s : State) (why : Nat) : State :=
  let s := { s with pow := { s.pow with power := .active, svc := 3, psState := 0, psResult := 5, psWhy := why, exitReq := 0 } }
  trainAll (setField s 4 0x9C 1 0 0)

/-- An exit event: Idle ends; during the entry it waits for the entry's end (R385). -/
def exitEvent (s : State) (why : Nat) : State :=
  if s.dbg.fatal then s
  else if s.pow.power = .idle then leaveIdle s why
  else if s.pow.psState = 1 then { s with pow := { s.pow with exitReq := if s.pow.exitReq = 0 then why else s.pow.exitReq } }
  else s

end Sys2Proof.Machine
end

