-- ==== Sys2Proof/Machine/Queues.lean ====
section
/-! DEFINITION. The queues of the Box Office: doorbells, fetching, what lets a command start, completion (R312, R327 to R337, R341,
R348, R352). -/

namespace Sys2Proof.Machine

/-! ## The carve-out and the host as a queue sees them -/

/-- Byte `off` of partition `p`'s carve-out, its ranges in ascending address (R313). -/
def carveAddr (s : State) (p off : Nat) : Option Nat :=
  let l := carveOf s p
  if off / 2 ^ 30 < l.length then some (nthD 0 l (off / 2 ^ 30) * 2 ^ 30 + off % 2 ^ 30) else none

/-- The page through which partition `p` commands the Box Office, and an error bit of it. -/
def boxErr (s : State) (p bits : Nat) : State := raiseErr s (pgBoxo p) bits

/-- Write bytes to a ring: host memory, or the partition's carve-out. Writes that reach neither are discarded. -/
def ringWrite (s : State) (p : Nat) (ring : W64) (off : Nat) (d : List Byte) : State :=
  let a := ring.toNat / 4096 * 4096 + off
  if ring.getLsbD 0 then emitHost s p (.hostWrite a d false)
  else match carveAddr s p a with | some pa => writeOk s pa d | none => s

/-! ## Doorbells (R312, R328) -/

/-- The function that a doorbell page is assigned to: 0 PF0, 1 + n virtual function n. -/
def bellOwner (s : State) (q : Nat) : Nat :=
  let v := reg s 6 (0x100 + 4 * (q / 512 / 8)) / 16 ^ (q / 512 % 8) % 16
  if bit v 3 then v % 8 + 1 else 0

/-- Packets of a queue's ring. -/
def Queue.slots (x : Queue) : Nat := 2 ^ (x.size + 6)
def sub32 (a b : Nat) : Nat := (a + 2 ^ 32 - b % 2 ^ 32) % 2 ^ 32

/-- The write reaches the queue. -/
def bellReaches (s : State) (fn q : Nat) : Bool :=
  let x := queue s q
  x.bound && (fn == 0 || (fn == bellOwner s q && fn == (ctx s x.ctx).part + 1))

/-- A doorbell write of a tail. -/
def doorbell (s : State) (q t : Nat) : State :=
  let x := queue s q
  if sub32 t x.c ≤ x.slots ∧ sub32 t x.h ≤ sub32 t x.c then exitEvent (setQueue s q { x with t := t, halted := false }) 2
  else dropped (boxErr s (ctx s x.ctx).part 2)

/-- Doorbells count from SERVICE on (R378), and in Idle. -/
def bellsUp (s : State) : Bool := s.pow.power == .idle || (s.pow.power == .active && decide (3 ≤ s.pow.svc))
def execDoorbellWrite (fn q : Nat) (value : W64) (s : State) : Res :=
  .next (if s.pow.power = .dormant ∨ s.pow.power = .off then s
    else if bellsUp s && bellReaches s fn q then doorbell s q (value.toNat % 2 ^ 32) else dropped s)

/-! ## Fetching (R329, R334) -/

/-- The packet after the oldest that has not started. -/
def Queue.oldest (x : Queue) : Nat := match x.cmds.find? (fun c => c.isWaiting) with | some c => c.idx | none => x.h

/-- The queue has a packet to fetch; after the loss of its context it fetches from the next accepted doorbell on (R349). -/
def Queue.fetches (x : Queue) : Bool := x.bound && x.stopped.isNone && !x.halted && x.h != x.t && decide (sub32 x.h x.oldest ≤ 16)

/-- The handles of a packet, and whether each is required (R337). -/
def pkHandles (b : List Byte) : List (Nat × Bool) :=
  let h := fun off => leAt b off 4
  match pkOp b with
  | 1 => [(h 24, true), (h 40, decide (0 < leAt b 47 1))]
  | 2 => [(h 32, true), (h 36, true)]
  | 3 => [(h 32, false), (h 36, false)]
  | 4 => [(h 24, false)]
  | 5 => [(h 32, true), (h 36, true)]
  | 8 => if leAt b 32 1 = 6 then [(h 40, true)] else []
  | 10 => [(h 16, true)]
  | 11 => [(h 32, true), (h 36, true)]
  | _ => []

def pkTimed (b : List Byte) : Bool := bit (pkFlags b) 2
def pkBarrier (b : List Byte) : Bool := bit (pkFlags b) 3
/-- Opcodes that may be timed (R336). -/
def mayTime (op : Nat) : Bool := [1, 2, 3, 4, 6, 7, 11].contains op
/-- The valid fence slots of a packet. -/
def pkSlots (b : List Byte) : List Nat :=
  (if bit (pkFlags b) 0 then [pkWf b] else []) ++ (if bit (pkFlags b) 1 then [pkSf b] else [])

/-- The first handle that fails: required and 0, or not live. -/
def handleCheck (s : State) (c : Nat) : List (Nat × Bool) → Option Nat
  | [] => none
  | (h, req) :: t =>
    if h = 0 then (if req then some 0xC else handleCheck s c t)
    else if (objOf s c h).isNone then some 2 else handleCheck s c t

/-- The checks at fetch, in order: the status with which the packet ends. -/
def fetchCheck (s : State) (c : Nat) (b : List Byte) : Option Nat :=
  if (ctx s c).st ≠ 1 then some 1
  else if pkOp b = 0 ∨ 0xE ≤ pkOp b ∨ 16 ≤ pkFlags b ∨ (pkTimed b ∧ !mayTime (pkOp b)) then some 0xC
  else if (pkSlots b).any (fun k => decide (262143 < k)) then some 0xC
  else if (pkSlots b).any (fun k => !slotMine s c k) then some 6
  else handleCheck s c (pkHandles b)

/-- A Box Office event of a command (R400). -/
def noteBox (s : State) (c ev : Nat) (b : List Byte) (arg : Nat) : State :=
  note s 14 0 0 ev (some (ctx s c).part) (some c) (pkTag b) arg

/-- A fetched packet joins its queue; statuses 2 and 6 lose the context. -/
def accept (s : State) (q : Nat) (b : List Byte) : State :=
  let x := queue s q
  let r := fetchCheck s x.ctx b
  let c : Cmd := { idx := x.h, bytes := b, st := (match r with | some st => .ended st 0 | none => .waiting)
                   pins := ((pkHandles b).map Prod.fst).filter (fun h => h != 0), fired := false, stale := false, gate := none, armed := none
                   since := 0, wait := [], buf := [], bad := [] }
  let s := noteBox (setQueue s q { x with h := (x.h + 1) % 2 ^ 32, cmds := x.cmds ++ [c] }) x.ctx 1 b (pkOp b)
  if r = some 2 ∨ r = some 6 then loseCtx s x.ctx (r.getD 0) 0 0 0 (some (q, x.h)) else s

/-- Fetch the packet at H: from host memory, where its bytes are the operand, or from the carve-out. A fetch that fails loses the
context. -/
def fetch (s : State) (q : Nat) (host : Option (List Byte)) : State :=
  let x := queue s q
  let p := (ctx s x.ctx).part
  let a := x.ring.toNat / 4096 * 4096 + 64 * (x.h % x.slots)
  let lost := fun (s : State) => loseCtx s x.ctx 5 0 (BitVec.ofNat 64 a) 0 none
  if x.ring.getLsbD 0 then
    (match host with
     | some b => if linkUp s (hostPort s p) then (if b.length = 64 then accept (emit s (.hostRead a 64)) q b else s) else lost s
     | none => lost s)
  else match carveAddr s p a with
    | some pa => if poisonIn s pa 64 then lost (touchRange s pa 64) else accept (touchRange s pa 64) q (peek s pa 64)
    | none => lost s
def execPacketFetch (q : Nat) (host : Option (List Byte)) (s : State) : Res :=
  .next (if running s && (queue s q).fetches && ((ctx s (queue s q).ctx).st == 1 || (ctx s (queue s q).ctx).st == 2)
         then fetch s q host else s)

/-! ## Starting (R330) -/

/-- Every command before `idx` has started, and the one at `idx` has not. -/
def turn : List Cmd → Nat → Bool
  | [], _ => false
  | c :: t, idx => if c.idx = idx then c.isWaiting else !c.isWaiting && turn t idx

/-- The wait of a command has ended: the slot is signalled or has been in its turn. -/
def gateOpen (s : State) (c : Cmd) : Bool :=
  match pkWait c.bytes with
  | none => true
  | some k => c.gate.isSome || (fence s k).sig
/-- The wait ended with the error flag. -/
def gateErr (s : State) (c : Cmd) : Bool :=
  match pkWait c.bytes with
  | none => false
  | some k => c.gate.getD (fence s k).err

/-- It is the turn of the command of opcode `op`: what R330 asks holds, but for its wait fence and its own conditions. -/
def inTurn (s : State) (q idx op : Nat) : Option Cmd :=
  let x := queue s q
  match cmdAt s q idx with
  | some c =>
    if running s && s.pow.psState == 0 && (ctx s x.ctx).st == 1 && pkOp c.bytes == op && turn x.cmds idx && (!pkTimed c.bytes || c.fired)
        && (!pkBarrier c.bytes || (match x.cmds with | [] => false | d :: _ => d.idx == idx))
    then some c else none
  | none => none

/-- The command of opcode `op` may start, its own conditions aside. -/
def startable (s : State) (q idx op : Nat) : Option Cmd :=
  match inTurn s q idx op with
  | some c => if gateOpen s c then some c else none
  | none => none

/-- Start a command: a stale one loses its context, one whose wait ended with the error flag does not run; the others do `f` in the
running state. `ok` are the opcode's own conditions. -/
def start (s : State) (q idx op : Nat) (ok : Cmd → Bool) (f : State → Nat → Cmd → State) : State :=
  let cx := (queue s q).ctx
  match startable s q idx op with
  | none => s
  | some c =>
    if c.stale then loseCtx (endCmd s q idx 2 0) cx 2 0 0 0 (some (q, idx))
    else if gateErr s c then endCmd s q idx 4 0
    else if !ok c then s
    else f (noteBox (updCmd s q idx (fun c => { c with st := .running, since := s.time.nsRun })) cx 2 c.bytes op) cx c

/-- A running command ends with INVALID_CMD and no effect. -/
def invalid (s : State) (q idx : Nat) : State := endCmd s q idx 0xC 0

/-- A running command faults: its context is lost with the status and the address. -/
def cmdFault (s : State) (q idx cx status addr : Nat) : State :=
  loseCtx s cx status 0 (BitVec.ofNat 64 addr) 0 (some (q, idx))

/-- Payload bytes outside the listed (first, last) ranges are 0; the timing word belongs to the timed flag (R335, R337). -/
def resOk (b : List Byte) (l : List (Nat × Nat)) : Bool :=
  (upTo 16 48).all (fun i => l.any (fun r => decide (r.1 ≤ i) && decide (i ≤ r.2)) || (pkTimed b && decide (56 ≤ i)) || leAt b i 1 == 0)

/-! ## Completion (R331, R352) -/

/-- An access translated through [va, va + n) of context `c` is under way: of a thread, or of a tile mover's copy in progress (R157). -/
def busyRange (s : State) (c va n : Nat) : Bool :=
  s.cores.any (fun (k : Nat × Core) =>
    k.2.groups.any (fun (p : Nat × Group) => p.2.occ && p.2.ctx == c
      && (p.2.accs.any (fun a => isLocal a.addr && overlaps (vaOf a.addr) a.size va n)
          || p.2.sb.any (fun e => e.dest != .tile && isLocal e.addr && overlaps (vaOf e.addr) e.size va n)))
    || (match k.2.tmRun with
        | some r => !r.cmd.isStream && (SMap.get Group.empty k.2.groups r.cmd.gslot).ctx == c
            && (tmPieces r.cmd).any (fun p => isLocal (BitVec.ofNat 64 p.addr) && overlaps (p.addr % 2 ^ 48) p.len va n)
        | none => false))

/-- Two commands end by what others do. A TAG_CANCEL ends when what it cancelled has ended (R345); its `wait` names those commands. An
UNMAP ends when the accesses that used the mapping have completed (R157). -/
def settled (s : State) (c : Cmd) (cx : Nat) : Cmd :=
  if c.st = .running ∧ pkOp c.bytes = 9 ∧ !busyRange s cx (leAt c.bytes 16 6) (leAt c.bytes 24 8) then { c with st := .ended 0 0 } else
  if c.st = .running ∧ pkOp c.bytes = 12 ∧ c.wait.all (fun w => match cmdAt s w.1 w.2.1 with | some d => d.hasEnded | none => true)
  then { c with st := .ended 0 0 } else c

/-- Post a management command's result (R324). -/
def postPage (s : State) (page status detail : Nat) : State :=
  raiseErr (setReg s page 0x84 (bits (reg s page 0x84) 2 2 * 4 + 2 + status * 2 ^ 8 + detail * 2 ^ 16)) page 1

/-- The queue's last command has completed: a queue that is being destroyed or discarded is free. -/
def closeQueue (s : State) (q : Nat) : State :=
  let x := queue s q
  if !x.cmds.isEmpty then s else
  match x.stopped with
  | some page => if page = 0xFFFF then setQueue s q Queue.empty else postPage (setQueue s q Queue.empty) page 0 0
  | none => s

/-- The completion record of packet `idx`: 16 B, the word at bytes 4 to 7 last. -/
def writeRecordOf (s : State) (q idx : Nat) (b : List Byte) (status result : Nat) : State :=
  let x := queue s q
  let p := (ctx s x.ctx).part
  let off := 16 * (idx % x.slots)
  let s := ringWrite s p x.cring off (toLE 4 (pkSeq b))
  let s := ringWrite s p x.cring (off + 8) (toLE 8 result)
  ringWrite s p x.cring (off + 4) (toLE 1 status ++ toLE 1 ((idx / x.slots + 1) % 2) ++ toLE 2 (pkTag b))

/-- The message of a completion, unless the previous one is less than 1 µs old. -/
def sendMsg (s : State) (q : Nat) : State :=
  let x := queue s q
  if x.ien && (match x.lastMsg with | some t => decide (t + 1000 ≤ s.time.ft) | none => true)
  then setQueue (emitMsg s (bellOwner s q) x.vec) q { x with lastMsg := some s.time.ft } else s

/-- An ended command leaves its queue: fence, record, C, message. -/
def completeCmd (s : State) (q : Nat) (c : Cmd) (status result : Nat) : State :=
  let p := (ctx s (queue s q).ctx).part
  let s := if bit (pkFlags c.bytes) 1 && decide (pkSf c.bytes < 262144) && slotMine s (queue s q).ctx (pkSf c.bytes)
           then signal s (pkSf c.bytes) (status != 0) else s
  let s := writeRecordOf s q c.idx c.bytes status result
  let s := noteBox s (queue s q).ctx 3 c.bytes status
  let x := queue s q
  let cmds := x.cmds.filter (fun d => d.idx != c.idx)
  let s := setQueue s q { x with cmds := cmds, c := (match cmds with | [] => x.h | d :: _ => d.idx) }
  let s := if status = 3 then countBank s p 0xE8 1 else s
  closeQueue (sendMsg s q) q
def execCommandCompletion (q idx : Nat) (s : State) : Res :=
  match (cmdAt s q idx).map (fun c => settled s c (queue s q).ctx) with
  | some c => .next (match c.st with
      | .ended status result => if s.pow.power == .active && s.pow.svc == 3 && !s.dbg.fatal then completeCmd s q c status result else s
      | _ => s)
  | none => .next s

end Sys2Proof.Machine
end

