-- ==== Sys2Proof/Machine/Commands.lean ====
section
/-! DEFINITION. Commands that run work and move data: LAUNCH, COPY, FILL, PACK, SIGNAL, WAIT, TAG_CANCEL, NOP (R203, R204, R334 to
R337, R345, R348, R440). -/

namespace Sys2Proof.Machine

def w64 (n : Nat) : W64 := BitVec.ofNat 64 n

/-! ## Reading operands -/

/-- Host bytes that the pieces need. -/
def hostLen (l : List (Piece × Spot)) : Nat := ((hostPieces 0 l).map Prod.snd).foldl (· + ·) 0

/-- The operand holds the host bytes that a read of `n` bytes at `a` needs. -/
def hostFits (s : State) (c a n : Nat) (host : List Byte) : Bool :=
  decide (host.length = hostLen (spots s c false (pieces a 0 n (n / 32 + 2) 0 n)))

/-- `n` bytes at a context address as the Box Office reads them; on the left the fault kind and address. -/
def readRange (s : State) (c a n : Nat) (host : List Byte) : (Nat × Nat) ⊕ (State × List Byte) :=
  let l := spots s c false (pieces a 0 n (n / 32 + 2) 0 n)
  match firstFault l with
  | some r => .inl r
  | none =>
    match l.find? (fun q => !(pieceBad s q).isEmpty) with
    | some q => .inl (8, q.1.addr)
    | none => .inr (touchPieces s c l, fillHost (hostPieces 0 l) host (l.flatMap (pieceBytes s)))

/-! ## LAUNCH (R42, R337) -/

def launchOk (s : State) (c : Nat) (b : List Byte) : Bool :=
  resOk b [(16, 49)] && decide (1 ≤ leAt b 28 4) && decide (leAt b 32 8 % 8 = 0) && decide (1 ≤ leAt b 44 2)
    && decide (leAt b 44 2 ≤ 1024) && decide (1 ≤ leAt b 46 1) && decide (leAt b 47 1 ≤ 64) && decide (leAt b 48 2 ≤ 512)
    && covered s c (leAt b 24 4) (w64 (leAt b 16 8)) 8
    && (leAt b 47 1 == 0 || covered s c (leAt b 40 4) (w64 (leAt b 32 8)) (8 * leAt b 47 1))

/-- The values of u0 to u(NU - 1). -/
def words64 : Nat → List Byte → List W64
  | 0, _ => []
  | n + 1, l => w64 (leAt l 0 8) :: words64 n (l.drop 8)

def launchCmd (host : List Byte) (q idx : Nat) (s : State) (cx : Nat) (c : Cmd) : State :=
  let b := c.bytes
  if !launchOk s cx b then invalid s q idx else
  match readRange s cx (leAt b 32 8) (8 * leAt b 47 1) host with
  | .inl (k, a) => cmdFault s q idx cx (kindStatus k) a
  | .inr (s, d) =>
    let l : Launch := { q := q, idx := idx, ctx := cx, tag := pkTag b, prio := (queue s q).prio, entry := w64 (leAt b 16 8)
                        teams := leAt b 28 4, threads := leAt b 44 2, nreg := leAt b 46 1, tmem := leAt b 48 2
                        u := words64 (leAt b 47 1) d, next := 0, ended := 0, since := s.time.nsRun, status := 0 }
    { s with box := { s.box with launches := s.box.launches ++ [l] } }
def launchStart (q idx : Nat) (host : List Byte) (s : State) : State :=
  start s q idx 1 (fun c => !launchOk s (queue s q).ctx c.bytes
      || hostFits s (queue s q).ctx (leAt c.bytes 32 8) (8 * leAt c.bytes 47 1) host) (launchCmd host q idx)

/-! ## COPY and FILL (R260, R337, R440) -/

/-- A local address carries a handle that covers the range, a system address none. -/
def endOk (s : State) (c h a n : Nat) : Bool := if isLocal (w64 a) then h != 0 && covered s c h (w64 a) n else h == 0

def copyOk (s : State) (c : Nat) (b : List Byte) : Bool :=
  resOk b [(16, 47)] && decide (leAt b 40 8 % 4 = 0) && decide (leAt b 16 8 % 4 = 0) && decide (leAt b 24 8 % 4 = 0)
    && endOk s c (leAt b 32 4) (leAt b 16 8) (leAt b 40 8) && endOk s c (leAt b 36 4) (leAt b 24 8) (leAt b 40 8)
def fillOk (s : State) (c : Nat) (b : List Byte) : Bool :=
  resOk b [(16, 27), (32, 47)] && decide (leAt b 32 8 % 8 = 0) && decide (leAt b 16 8 % 8 = 0)
    && endOk s c (leAt b 24 4) (leAt b 16 8) (leAt b 32 8)

/-- The pieces of a command's source or destination. -/
def rangeSpots (s : State) (c : Nat) (wr : Bool) (a n : Nat) : List (Piece × Spot) :=
  spots s c wr (pieces a 0 n (n / 4096 + 2) 0 n)

/-- Destination and length of a COPY or FILL. -/
def dstOf (b : List Byte) : Nat × Nat := if pkOp b = 3 then (leAt b 24 8, leAt b 40 8) else (leAt b 16 8, leAt b 32 8)

/-- Which words of the destination a stopped COPY or FILL wrote is open, but none in the faulting page (R440). -/
def copyPartial (s : State) (l : List (Piece × Spot)) (d : List Byte) (have_ : Nat → Bool) : State :=
  useFree (l.foldl (fun s' x => match x.2 with
    | .mem p => (upTo 0 (x.1.len / 4)).foldl (fun s' i =>
        if have_ (x.1.pos + 4 * i) && freshBit s (x.1.pos / 4 + i)
        then writeOk s' (p + 4 * i) ((d.drop (x.1.pos + 4 * i)).take 4) else s') s'
    | _ => s') s)

/-- Every write of the command is done. -/
def copyDone (s : State) (q idx : Nat) : State := endCmd (updCmd s q idx (fun c => { c with buf := [], bad := [] })) q idx 0 0

/-- Write the data of a COPY or FILL: local places at once, remote ones with requests that are answered. -/
def copyWrite (s : State) (q idx cx : Nat) (b d : List Byte) (bad : List (Nat × Nat)) : State :=
  let l := rangeSpots s cx true (dstOf b).1 (dstOf b).2
  match firstFault l with
  | some (k, a) => cmdFault (copyPartial s (aside a l) d (fun _ => true)) q idx cx (kindStatus k) a
  | none =>
    let s := noteSpots s cx l
    let s := l.foldl (fun s x => match x.2 with
      | .mem p => putBytes s p x.1.pos ((d.drop x.1.pos).take x.1.len) bad
      | .host h => emitHost s (ctx s cx).part (.hostWrite h ((d.drop x.1.pos).take x.1.len) (badIn bad x.1.pos x.1.len))
      | _ => s) s
    let r := sendWrites s cx (.cmd q idx) d bad (remotes l)
    if r.2.isEmpty then copyDone r.1 q idx else updCmd r.1 q idx (fun c => { c with wait := r.2 })

def copyCmd (host : List Byte) (q idx : Nat) (s : State) (cx : Nat) (c : Cmd) : State :=
  let b := c.bytes
  if !copyOk s cx b then invalid s q idx else
  let l := rangeSpots s cx false (leAt b 16 8) (leAt b 40 8)
  let m := rangeSpots s cx true (dstOf b).1 (dstOf b).2
  let d := fillHost (hostPieces 0 l) host (l.flatMap (pieceBytes s))
  match firstFault l, firstFault m with
  | some (k, a), _ => cmdFault (copyPartial s m d (fun i => haveAll (aside a l) i (i + 4))) q idx cx (kindStatus k) a
  | none, some (k, a) => cmdFault (copyPartial s (aside a m) d (fun i => haveAll (aside 0 l) i (i + 4))) q idx cx (kindStatus k) a
  | none, none =>
    let bad := l.flatMap (pieceBad s)
    let r := sendReads (touchPieces s cx l) cx (.cmd q idx) (remotes l)
    if r.2.isEmpty then copyWrite r.1 q idx cx b d bad
    else updCmd r.1 q idx (fun c => { c with wait := r.2, buf := d, bad := bad })

/-- The operand holds the host bytes of the source. -/
def copyReady (s : State) (c : Nat) (b host : List Byte) : Bool :=
  !copyOk s c b || decide (host.length = hostLen (rangeSpots s c false (leAt b 16 8) (leAt b 40 8)))
def copyStart (q idx : Nat) (host : List Byte) (s : State) : State :=
  start s q idx 3 (fun c => copyReady s (queue s q).ctx c.bytes host) (copyCmd host q idx)

/-- The pattern, repeated over `n` bytes. -/
def patternBytes (b : List Byte) (n : Nat) : List Byte := (upTo 0 (n / 8)).flatMap (fun _ => (b.drop 40).take 8)
def fillCmd (q idx : Nat) (s : State) (cx : Nat) (c : Cmd) : State :=
  if !fillOk s cx c.bytes then invalid s q idx
  else copyWrite s q idx cx c.bytes (patternBytes c.bytes (leAt c.bytes 32 8)) []
def fillStart (q idx : Nat) (_host : List Byte) (s : State) : State :=
  start s q idx 4 (fun _ => true) (fillCmd q idx)

/-! ## PACK (R201, R203, R204, R414) -/

/-- The page whose index block is at `ix` is listed in THAT_BYP. -/
def bypassed (s : State) (ix : Nat) : Bool :=
  (upTo 0 16).any (fun k => let v := reg s pgThat0 (0x100 + 8 * k); bit v 0 && bits v 51 16 == ix / 65536)

/-- Source and destination pages of one bundle pass the checks at start. -/
def packPages (s : State) (c src dst : Nat) : Bool :=
  (match access s c .load (vaOf (w64 src)) with | .mem _ => true | .host _ => true | _ => false)
    && (match access s c .pack (vaOf (w64 dst)) with | .thatch _ _ => true | _ => false)

def packOk (s : State) (c : Nat) (b : List Byte) : Bool :=
  let src := leAt b 16 8
  let dst := leAt b 24 8
  let n := leAt b 40 8
  resOk b [(16, 50)] && decide (src % 4096 = 0) && decide (dst % 4096 = 0) && decide (n ≠ 0) && decide (n % 4096 = 0)
    && decide (leAt b 48 1 ≤ 2) && decide (leAt b 49 1 ≤ thParamMax (leAt b 48 1)) && decide (leAt b 50 1 ≤ 1)
    && covered s c (leAt b 32 4) (w64 src) n && covered s c (leAt b 36 4) (w64 dst) n
    && (upTo 0 (n / 4096)).all (fun i => packPages s c (src + 4096 * i) (dst + 4096 * i))

/-- Source bytes of a bundle: from memory, or the next of the host's. -/
def packSource (s : State) (c src : Nat) (host : List Byte) : Option Nat × List Byte × List Byte :=
  match access s c .load (vaOf (w64 src)) with
  | .mem p => (some p, peek s p 4096, host)
  | _ => (none, host.take 4096, host.drop 4096)

/-- What one bundle came to. -/
inductive Packed | done (s : State) (host : List Byte) | poison | full
  deriving DecidableEq, Repr

/-- Encode one bundle: granules, then the index entry; the old granules wait for their readers. -/
def packOne (s : State) (c : Nat) (b : List Byte) (src dst : Nat) (host : List Byte) : Packed :=
  match access s c .pack (vaOf (w64 dst)) with
  | .thatch ix off =>
    let x := packSource s c src host
    if (match x.1 with | some p => poisonIn s p 4096 | none => false) then .poison else
    let e := thEncode (leAt b 48 1) (leAt b 49 1) (leAt b 50 1 == 1) (bypassed s ix) (freshNat s) x.2.1
    match takeRun s c (thNg e.1) x.1 with
    | none => .full
    | some (s, a) =>
      let at' := ix + off / 4096 * 8
      let old := peekLE s at' 8
      let s := writeOk (useFree s) a e.2
      let s := writeOk s at' (toLE 8 (e.1 + a / 256))
      .done (if thV old then setCtx s c { ctx s c with oldGrans := (thAddr old, 256 * thNg old) :: (ctx s c).oldGrans } else s) x.2.2
  | _ => .done s host

/-- Bundles in ascending order; a poisoned source or a full arena stops the command. -/
def packAll (b : List Byte) (q idx cx : Nat) : Nat → Nat → State → List Byte → State
  | 0, _, s, _ => endCmd s q idx 0 0
  | n + 1, i, s, host =>
    match packOne s cx b (leAt b 16 8 + 4096 * i) (leAt b 24 8 + 4096 * i) host with
    | .done s host => packAll b q idx cx n (i + 1) s host
    | .poison => cmdFault s q idx cx 9 (leAt b 16 8 + 4096 * i)
    | .full => invalid s q idx
def packCmd (host : List Byte) (q idx : Nat) (s : State) (cx : Nat) (c : Cmd) : State :=
  if !packOk s cx c.bytes then invalid s q idx
  else match firstFault (rangeSpots s cx false (leAt c.bytes 16 8) (leAt c.bytes 40 8)) with
    | some (k, a) => cmdFault s q idx cx (kindStatus k) a
    | none => packAll c.bytes q idx cx (leAt c.bytes 40 8 / 4096) 0 s host
def packReady (s : State) (c : Nat) (b host : List Byte) : Bool :=
  !packOk s c b || decide (host.length = hostLen (rangeSpots s c false (leAt b 16 8) (leAt b 40 8)))
def packStart (q idx : Nat) (host : List Byte) (s : State) : State :=
  start s q idx 5 (fun c => packReady s (queue s q).ctx c.bytes host) (packCmd host q idx)

/-- Old granules go back to the arena once no read that began with them is under way (R203 step 5). -/
def returnGranule (s : State) (c pa : Nat) : State :=
  let x := ctx s c
  if x.oldGrans.any (fun g => g.1 == pa) then
    arenaGive (setCtx s c { x with oldGrans := dropFirst (fun g => g.1 == pa) x.oldGrans }) c pa
  else s
def execPackGranuleReturn (c pa : Nat) (s : State) : Res := .next (returnGranule s c pa)

/-! ## SIGNAL, WAIT, NOP (R337, R346 to R348) -/

def signalCmd (q idx : Nat) (s : State) (cx : Nat) (c : Cmd) : State :=
  let ref := w64 (leAt c.bytes 16 8)
  let act := leAt c.bytes 24 1
  if !resOk c.bytes [(16, 24)] || decide (2 < act) then invalid s q idx else
  match fref ref with
  | .bad => cmdFault s q idx cx 5 ref.toNat
  | .loc k =>
    if act = 2 then (if (fence s k).owner = some cx then endCmd (resetFence s k) q idx 0 0 else cmdFault s q idx cx 6 ref.toNat)
    else if slotMine s cx k then endCmd (signal s k (act == 1)) q idx 0 0 else cmdFault s q idx cx 6 ref.toNat
  | .sys chip _ =>
    if act = 2 then cmdFault s q idx cx 6 ref.toNat
    else if sysFault s .sigf ref ≠ 0 then cmdFault s q idx cx (kindStatus (sysFault s .sigf ref)) ref.toNat
    else
      let r := request s (mkPkt 4 chip ref.toNat act [] 0) cx (.cmd q idx)
      if r.2.2 then updCmd r.1 q idx (fun c => { c with wait := [(r.2.1, 0, 0)] }) else cmdFault s q idx cx 5 ref.toNat
def signalStart (q idx : Nat) (s : State) : State :=
  start s q idx 6 (fun _ => true) (signalCmd q idx)

/-- A WAIT starts when its slot is signalled (R330), and ends at once. -/
def waitCmd (q idx : Nat) (s : State) (_ : Nat) (c : Cmd) : State :=
  if (pkWait c.bytes).isNone || !resOk c.bytes [(16, 19)] then invalid s q idx else endCmd s q idx 0 0

/-- A WAIT whose turn comes before the signal waits, and its timeout counts from then (DESIGN CHOICE, assumption 127). -/
def armWait (s : State) (q idx : Nat) : State :=
  match inTurn s q idx 7 with
  | some c => if c.armed.isNone then updCmd s q idx (fun c => { c with armed := some s.time.nsRun }) else s
  | none => s
def waitStart (q idx : Nat) (s : State) : State :=
  if (startable s q idx 7).isSome then start s q idx 7 (fun _ => true) (waitCmd q idx) else armWait s q idx

/-- TIMEOUT microseconds have passed; the count pauses under the Curtain (R395). -/
def waitOver (s : State) (c : Cmd) : Bool :=
  let t := leAt c.bytes 16 4
  c.isWaiting && pkOp c.bytes == 7 && t != 0 && match c.armed with | some a => decide (a + 1000 * t ≤ s.time.nsRun) | none => false
def execWaitTimeout (q idx : Nat) (s : State) : Res :=
  match cmdAt s q idx with
  | some c => .next (if waitOver s c then endCmd s q idx 4 0 else s)
  | none => .next s

def nopStart (q idx : Nat) (s : State) : State :=
  start s q idx 13 (fun _ => true) (fun s _ c => if resOk c.bytes [] then endCmd s q idx 0 0 else invalid s q idx)

/-! ## TAG_CANCEL (R345) -/

/-- The fetched commands of a context with a tag that have not ended, but for one. -/
def tagged (s : State) (cx tag q idx : Nat) : List (Nat × Nat × Nat) :=
  (queuesOf s cx).flatMap (fun p => ((queue s p).cmds.filter (fun c =>
    pkTag c.bytes == tag && !c.hasEnded && !(p == q && c.idx == idx))).map (fun c => (p, c.idx, 0)))

def cancelCmd (q idx : Nat) (s : State) (cx : Nat) (c : Cmd) : State :=
  if !resOk c.bytes [(16, 17)] then invalid s q idx else
  let tag := leAt c.bytes 16 2
  let l := tagged s cx tag q idx
  updCmd (killWork s cx (fun t => t == tag) 3) q idx (fun c => { c with wait := l })
def cancelStart (q idx : Nat) (s : State) : State :=
  start s q idx 12 (fun _ => true) (cancelCmd q idx)

end Sys2Proof.Machine
end

