-- ==== Sys2Proof/Machine/Mapping.lean ====
section
/-! DEFINITION. Commands on memory objects: MAP, UNMAP, RELEASE (R339 to R344, R436). -/

namespace Sys2Proof.Machine

/-! ## MAP (R339) -/

/-- Operands of MAP. -/
def mapSize (b : List Byte) : Nat := leAt b 24 8
def mapKind (b : List Byte) : Nat := leAt b 32 1
def mapR (b : List Byte) : Bool := bit (leAt b 33 1) 0
def mapW (b : List Byte) : Bool := bit (leAt b 33 1) 1
def mapX (b : List Byte) : Bool := bit (leAt b 33 1) 2
def mapPsz (b : List Byte) : Nat := if leAt b 34 1 = 0 then 2 ^ 16 else if leAt b 34 1 = 1 then 2 ^ 21 else 2 ^ 30
def mapTarget (b : List Byte) : Nat := leAt b 40 8

/-- The physical address of byte `off` of a list of runs, when `n` bytes follow in its run. -/
def paAt : List (Nat × Nat) → Nat → Nat → Option Nat
  | [], _, _ => none
  | (a, len) :: t, off, n => if off < len then (if off + n ≤ len then some (a + off) else none) else paAt t (off - len) n

/-- A new object with a handle; none when the table is exhausted. -/
def issueObj (s : State) (c : Nat) (o : Obj) : Option (State × Nat) :=
  match newIndex (ctx s c) (freshNat s 13) with
  | some i => let o := { o with index := i, gen := SMap.get 0 (ctx s c).gens i }; some (addObj (useFree s) c o, o.handle)
  | none => none

/-- Map an object's pages at `va` and note the mapping. -/
def mapObj (s : State) (c h va size psz : Nat) (f : Nat → Nat) : Option State :=
  (mapLeaves c psz f (size / psz) 0 va s).map (fun s =>
    updObj s c h (fun o => { o with maps := o.maps ++ [{ va := va, size := size, psz := psz }] }))

def blankObj (b : List Byte) : Obj :=
  { index := 0, gen := 0, kind := mapKind b, size := mapSize b, target := 0, perm := leAt b 33 1, backing := [], maps := [], region := 0
    blocks := [], grans := [], dead := false }

/-- The region number of a new heap object (R343). -/
def newRegion (x : Ctx) : Option Nat := (upTo 0 16).find? (fun r => (heaps x).all (fun o => o.region != r))

/-- MEM and HEAP. -/
def mapMem (s : State) (c : Nat) (b : List Byte) (va : Nat) : Option (State × Nat) :=
  let psz := mapPsz b
  let size := mapSize b
  let heap := mapKind b == 1
  let region := newRegion (ctx s c)
  if heap && !(decide (2 ^ 21 ≤ size) && decide (size ≤ 2 ^ 39) && decide (size = 2 ^ log2 size) && decide (va % size = 0) && region.isSome)
  then none
  else if mapX b && (heap || mapW b) then none
  else match takePages s (ctx s c).part psz (size / psz) with
    | none => none
    | some (s, runs) =>
      let s := if heap then runs.foldl (fun s r => zeroRun s r.1 r.2) s else s
      let leaf := fun i => mkLeaf (mapR b) (mapW b) (mapX b) false false false ((paAt runs (i * psz) psz).getD 0)
      match issueObj s c { blankObj b with backing := runs, target := (if heap then va else 0), region := region.getD 0 } with
      | none => none
      | some (s, h) => (mapObj s c h va size psz leaf).map (fun s =>
          (if !heap && mapX b then runs.foldl (fun s r => dropIcache s r.1 r.2) s else s, h))

/-- ARENA. -/
def mapArena (s : State) (c : Nat) (b : List Byte) : Option (State × Nat) :=
  if mapSize b = 0 ∨ mapSize b % 4096 ≠ 0 then none else
  match takePages s (ctx s c).part 4096 (mapSize b / 4096) with
  | none => none
  | some (s, runs) => issueObj s c { blankObj b with backing := runs }

/-- Index blocks for `n` thatched pages, every entry V = 0. -/
def indexBlocks (c psz : Nat) : Nat → State → List (Nat × Nat) → Option (State × List (Nat × Nat))
  | 0, s, l => some (s, l)
  | n + 1, s, l => match takeIndex s c (psz / 512) psz with
    | none => none
    | some (s, a) => indexBlocks c psz n (writeOk s a ((upTo 0 (psz / 512)).map (fun _ => 0))) (l ++ [(a, psz / 512)])

/-- THATCHED. -/
def mapThatched (s : State) (c : Nat) (b : List Byte) (va : Nat) : Option (State × Nat) :=
  let psz := mapPsz b
  if !mapR b || mapW b || mapX b then none else
  match indexBlocks c psz (mapSize b / psz) s [] with
  | none => none
  | some (s, blocks) => match issueObj s c { blankObj b with backing := blocks } with
    | none => none
    | some (s, h) => (mapObj s c h va (mapSize b) psz (fun i => mkLeaf true false false true false false (nthD (0, 0) blocks i).1)).map
        (fun s => (s, h))

/-- HOST. -/
def mapHost (s : State) (c : Nat) (b : List Byte) (va : Nat) : Option (State × Nat) :=
  let t := mapTarget b
  if mapX b ∨ t % mapPsz b ≠ 0 ∨ 2 ^ 52 < t + mapSize b then none else
  match issueObj s c { blankObj b with target := t } with
  | none => none
  | some (s, h) => (mapObj s c h va (mapSize b) (mapPsz b) (fun i => mkLeaf (mapR b) (mapW b) false false false true (t + i * mapPsz b))).map
      (fun s => (s, h))

/-- A register page that a context of partition `p` may map: absent, or owned by the partition (R436). -/
def pageMappable (s : State) (p page : Nat) : Bool := !ioForeign s p (4096 * page)

/-- IO. -/
def mapIo (s : State) (c : Nat) (b : List Byte) (va : Nat) : Option (State × Nat) :=
  let t := mapTarget b
  let n := mapSize b / 4096
  if mapPsz b ≠ 2 ^ 16 ∨ t % 16 ≠ 0 ∨ 16384 < t + n ∨ mapX b ∨ !((upTo t n).all (pageMappable s (ctx s c).part)) then none else
  match issueObj s c { blankObj b with target := t } with
  | none => none
  | some (s, h) => (mapObj s c h va (mapSize b) (2 ^ 16) (fun i => mkLeaf (mapR b) (mapW b) false false true false (4096 * t + i * 2 ^ 16))).map
      (fun s => (s, h))

/-- The leaf of page `i` of another mapping of an object; none where its memory does not allow one. -/
def aliasLeaf (o : Obj) (b : List Byte) (i : Nat) : Option Nat :=
  let psz := mapPsz b
  if o.kind ≤ 1 then
    (match paAt o.backing (i * psz) psz with
     | some pa => if pa % psz ≠ 0 ∨ (mapW b ∧ mapX b) then none else some (mkLeaf (mapR b) (mapW b) (mapX b) false false false pa)
     | none => none)
  else if o.kind = 3 then
    (if mapW b ∨ mapX b ∨ !mapR b ∨ o.backing.length ≤ i ∨ (nthD (0, 0) o.backing i).2 * 512 ≠ psz then none
     else some (mkLeaf true false false true false false (nthD (0, 0) o.backing i).1))
  else if o.kind = 4 then
    (if mapX b ∨ o.target % psz ≠ 0 then none else some (mkLeaf (mapR b) (mapW b) false false false true (o.target + i * psz)))
  else if o.kind = 5 then
    (if mapX b ∨ psz ≠ 2 ^ 16 then none else some (mkLeaf (mapR b) (mapW b) false false true false (4096 * o.target + i * psz)))
  else none

/-- ALIAS. -/
def mapAlias (s : State) (c : Nat) (b : List Byte) (va : Nat) : Option (State × Nat) :=
  let h := mapTarget b % 2 ^ 32
  match objAny s c h with
  | none => none
  | some o =>
    if o.size < mapSize b ∨ !((upTo 0 (mapSize b / mapPsz b)).all (fun i => (aliasLeaf o b i).isSome)) then none else
    (mapObj s c h va (mapSize b) (mapPsz b) (fun i => (aliasLeaf o b i).getD 0)).map (fun s =>
      (if mapX b && decide (o.kind ≤ 1) then o.backing.foldl (fun s r => dropIcache s r.1 r.2) s else s, h))

/-- HEAPBLK: any region that can supply the class may serve (R343; assumption 1); 0 when none can. -/
def mapBlock (s : State) (c : Nat) (b : List Byte) : State × Nat :=
  let n := mapSize b
  let cls := blockClass n
  let able := (upTo 0 16).filter (fun r => (regionPick (ctx s c) r cls).isSome)
  if n = 0 ∨ 2 ^ 30 < n ∨ able.isEmpty then (countAllocF s c, 0)
  else match heapTake s c (nthD 0 able (freshNat s 3 % able.length)) cls with
    | some (s, va) => (useFree s, (ctxAddr va).toNat)
    | none => (countAllocF s c, 0)

/-- What a MAP does, with its RESULT; none where a rule forbids it or a resource is exhausted. -/
def mapTry (s : State) (c : Nat) (b : List Byte) : Option (State × Nat) :=
  let a := leAt b 16 8
  let va := vaOf (w64 a)
  let kind := mapKind b
  if !resOk b [(16, 34), (40, 47)] || decide (8 ≤ leAt b 33 1) || decide (7 < kind) || decide (2 < leAt b 34 1) then none
  else if kind = 2 then (if a ≠ 0 ∨ leAt b 34 1 ≠ 0 then none else mapArena s c b)
  else if kind = 7 then (if a ≠ 0 ∨ leAt b 34 1 ≠ 0 ∨ leAt b 33 1 ≠ 0 then none else some (mapBlock s c b))
  else if !isLocal (w64 a) || decide (va % mapPsz b ≠ 0) || decide (mapSize b = 0) || decide (mapSize b % mapPsz b ≠ 0)
      || decide (2 ^ 48 < va + mapSize b) || !rangeFree (ctx s c) va (mapSize b) then none
  else if kind ≤ 1 then mapMem s c b va
  else if kind = 3 then mapThatched s c b va
  else if kind = 4 then mapHost s c b va
  else if kind = 5 then mapIo s c b va
  else mapAlias s c b va

/-- A MAP that lacks memory waits while ranges of its carve-out are scrubbed (R381). -/
def mapReady (s : State) (c : Nat) (b : List Byte) : Bool :=
  (mapTry s c b).isSome || !((carveOf s (ctx s c).part).any (scrubbing s))
def mapCmd (q idx : Nat) (s : State) (cx : Nat) (c : Cmd) : State :=
  match mapTry s cx c.bytes with
  | some (s, r) => endCmd s q idx 0 r
  | none => invalid s q idx
def mapStart (q idx : Nat) (s : State) : State :=
  start s q idx 8 (fun c => mapReady s (queue s q).ctx c.bytes) (mapCmd q idx)

/-! ## UNMAP (R342) -/

/-- The object that has exactly this mapping. -/
def mappedBy (x : Ctx) (va n : Nat) : Option Obj := x.objs.find? (fun o => o.maps.any (fun m => m.va == va && m.size == n))

def unmapCmd (q idx : Nat) (s : State) (cx : Nat) (c : Cmd) : State :=
  let b := c.bytes
  let a := leAt b 16 8
  let n := leAt b 24 8
  let va := vaOf (w64 a)
  if !resOk b [(16, 32)] || decide (1 < leAt b 32 1) then invalid s q idx
  else if leAt b 32 1 = 1 then
    (if a = 0 then endCmd s q idx 0 0
     else if isLocal (w64 a) && (blockAt (ctx s cx) va).isSome then endCmd (heapFree s cx va) q idx 0 0 else invalid s q idx)
  else match (if isLocal (w64 a) then mappedBy (ctx s cx) va n else none) with
    | none => invalid s q idx
    | some o =>
      let m := (o.maps.find? (fun m => m.va == va && m.size == n)).getD { va := va, size := n, psz := 2 ^ 16 }
      let s := updObj (unmapRange s cx m) cx o.handle (fun o => { o with maps := o.maps.filter (fun m => !(m.va == va && m.size == n)) })
      if busyRange s cx va n then s else endCmd s q idx 0 0
def unmapStart (q idx : Nat) (s : State) : State :=
  start s q idx 9 (fun _ => true) (unmapCmd q idx)

/-! ## RELEASE (R340, R341, R343) -/

/-- An arena whose granules hold an index block or a bundle of a live THATCHED object. -/
def arenaHeld (s : State) (c : Nat) (o : Obj) : Bool :=
  let inside := fun pa => o.backing.any (fun b => decide (b.1 ≤ pa) && decide (pa < b.1 + b.2))
  (ctx s c).objs.any (fun t => t.kind == 3 && !t.dead && t.backing.any (fun b => inside b.1 ||
    (upTo 0 (b.2 / 8)).any (fun i => let e := peekLE s (b.1 + 8 * i) 8; thV e && inside (thAddr e))))

/-- Later packets of the queue that name the handle are stale. -/
def markStale (h : Nat) (idx : Nat) : Bool → List Cmd → List Cmd
  | _, [] => []
  | past, c :: t => (if past && c.pins.contains h then { c with stale := true } else c) :: markStale h idx (past || c.idx == idx) t

/-- The handle dies; its index's GEN rises; every block of a heap object ends. -/
def killHandle (s : State) (c h : Nat) (o : Obj) : State :=
  let s := updObj s c h (fun o => { o with dead := true, blocks := [] })
  setCtx s c { ctx s c with gens := SMap.put 0 (ctx s c).gens o.index (o.gen + 1) }

def releaseCmd (q idx : Nat) (s : State) (cx : Nat) (c : Cmd) : State :=
  let h := leAt c.bytes 16 4
  if !resOk c.bytes [(16, 19)] then invalid s q idx else
  match objOf s cx h with
  | none => endCmd s q idx 0 0
  | some o =>
    if o.kind = 2 ∧ arenaHeld s cx o then invalid s q idx else
    let s := killHandle s cx h o
    let x := queue s q
    endCmd (setQueue s q { x with cmds := markStale h idx false x.cmds }) q idx 0 0
def releaseStart (q idx : Nat) (s : State) : State :=
  start s q idx 10 (fun _ => true) (releaseCmd q idx)

end Sys2Proof.Machine
end

