-- ==== Sys2Proof/Machine/Manage.lean ====
section
/-! DEFINITION. Management commands of the BOXO pages, and the teardown of contexts and partitions (R250, R324 to R327, R341, R347,
R350, R351, R388). -/

namespace Sys2Proof.Machine

/-! ## Teardown (R350) -/

/-- A discarded queue, or one that Q_DESTROY or a teardown stopped, is free once its last command has completed. -/
def discardQueue (s : State) (q : Nat) : State :=
  let x := queue s q
  closeQueue (setQueue s q { x with bound := false, stopped := some (x.stopped.getD 0xFFFF) }) q

/-- Steps 1 and 2; work ends with the status. Steps 3 to 5 follow once it has (R350). -/
def tearStart (s : State) (c status : Nat) : State :=
  let qs := queuesOf s c
  let s := setCtx s c { ctx s c with st := 3, due := true }
  let s := killWork s c (fun _ => true) status
  endSteps (qs.foldl discardQueue s) c

/-- An export entry of the context still closes. -/
def closing (s : State) (c : Nat) : Bool :=
  (upTo 0 1024).any (fun i => let v := reg s (expPage i) (expOff i); bit v 0 && bit v 6 && bit v 52 && bits v 51 40 == c)

/-- No work of the context is left: no team, no saved team, no remote request, no queue, no access of an agent. -/
def ctxQuiet (s : State) (c : Nat) : Bool :=
  !anyTeam s (fun t => t.ctx == c) && s.box.saved.all (fun x => x.team.ctx != c) && s.box.launches.all (fun l => l.ctx != c)
    && s.fab.reqs.all (fun r => r.ctx != c) && (queuesOf s c).isEmpty

/-- Step 8 of this teardown runs. -/
def ctxScrub (s : State) (c : Nat) : Bool := s.mem.scrubs.any (fun x => x.1 == 0 && x.2.1 == c)
def addScrub (s : State) (what n arg : Nat) : State := { s with mem := { s.mem with scrubs := s.mem.scrubs ++ [(what, n, arg)] } }
def endScrub (s : State) (what n : Nat) : State :=
  { s with mem := { s.mem with scrubs := s.mem.scrubs.filter (fun x => !(x.1 == what && x.2.1 == n)) } }

/-- The carve-out runs that the context holds: tables, save area, objects. -/
def ctxRuns (x : Ctx) : List Nat := x.tables ++ x.objs.flatMap (fun o => if o.kind ≤ 2 then o.backing.map (fun b => b.1) else [])

/-- The kill command of a context, if a page waits for it. -/
def killPage (s : State) (c : Nat) : Option Nat := (s.box.mg.find? (fun (x : Nat × (Nat × Nat)) => x.2 == (2, c))).map (fun x => x.1)

/-- The context reads FREE and the page of its CTX_KILL posts OK; the last loss stays (R351). -/
def freeCtx (s : State) (c : Nat) : State :=
  let x := ctx s c
  let s := (ownedSlots s c).foldl (fun s k => setFence s k { fence s k with owner := none }) s
  let s := dropShares s (fun e => e.2 == c)
  let s := giveBack s (ctxRuns x)
  let s := setCtx s c { Ctx.free with lastLoss := x.lastLoss, fltAddr := x.fltAddr, fltData := x.fltData, fltInfo := x.fltInfo }
  let s := endScrub s 0 c
  match killPage s c with
  | some p => postPage { s with box := { s.box with mg := SMap.put (0, 0) s.box.mg p (0, 0) } } p 0 0
  | none => s

/-- The scrub of the memory that a context held. -/
def scrubCtx (s : State) (c : Nat) : State :=
  (s.box.alloc.filter (fun r => (ctxRuns (ctx s c)).contains r.1)).foldl (fun s r => zeroRun s r.1 r.2) s

/-- Every other context of the partition is done but for the scrub: the carve-out's scrub begins (R351). -/
def partScrub (s : State) (p : Nat) : State :=
  if s.pow.flr.contains p && !s.mem.scrubs.any (fun x => x.1 == 1 && x.2.1 == p && x.2.2 == 1)
      && s.box.ctxs.all (fun (x : Nat × Ctx) => !(x.2.st != 0 && x.2.part == p) || ctxScrub s x.1)
  then addScrub s 1 p 1 else s

/-- Steps 3 to 8 as far as they can go: mappings and translations go once windows are closed, work has ended and pins have drained. -/
def tearNext (s : State) (c : Nat) : State :=
  let s := endSteps s c
  let x := ctx s c
  if x.st ≠ 3 ∨ x.due ∨ ctxScrub s c ∨ closing s c ∨ !ctxQuiet s c then s else
  let s := setCtx (dropXlat s c 0 (2 ^ 48)) c { x with root := none, tables := ctxRuns x, objs := [], oldGrans := [] }
  if s.pow.flr.contains x.part then partScrub (addScrub s 0 c 1) x.part
  else if bit (reg s 8 (0x230 + 0x40 * x.part)) 1 then addScrub s 0 c 0
  else freeCtx s c

/-- Every loss and teardown goes on, and every partition reset without contexts left. -/
def tearAll (s : State) : State :=
  s.pow.flr.foldl partScrub (s.box.ctxs.foldl (fun s (x : Nat × Ctx) => if x.2.st = 3 ∨ x.2.due then tearNext s x.1 else s) s)

/-! ## Submission (R324) -/

/-- A command on a BOXO page: one while PENDING sets OVR; before SERVICE, and while the partition's reset runs, BUSY. -/
def mgmt (s : State) (fn page : Nat) (f : State → State) : State :=
  pageWrite s fn page (fun s =>
    match blkOf page with
    | some (.boxo0, _) | some (.boxo, _) =>
      let v := reg s page 0x84
      if bit v 0 then setReg s page 0x84 (v ||| 4)
      else
        let s := setReg s page 0x84 (v % 2 ^ 32 / 2 * 2 + 1)
        if s.pow.power = .active ∧ s.pow.svc < 3 then postPage s page 0xD 0
        else if page ≠ 8 ∧ s.pow.flr.contains ((page - 0x40) / 16) then postPage s page 0xD 0
        else f (exitEvent s 4)
    | _ => s)

/-- The partition that a page of the command interface acts on: none for BOXO_0. -/
def pagePart (page : Nat) : Option Nat := if page = 8 then none else some ((page - 0x40) / 16)
/-- Number `x` is in the page's reach: in its partition's range, or in some partition's. -/
def pageRange (s : State) (page off x : Nat) : Bool :=
  match pagePart page with | some p => inRange s off p x | none => (rangePart s off x).isSome

def parg (s : State) (page i : Nat) : Nat := reg s page (0x88 + 8 * i)
def setParg (s : State) (page i v : Nat) : State := setReg s page (0x88 + 8 * i) v
def setPres (s : State) (page v : Nat) : State := setReg s page 0xA8 v
/-- INVALID_CMD with a detail. -/
def refuse (s : State) (page detail : Nat) : State := postPage s page 0xC detail

/-- The partition's reset or scrub runs, or a scrub of it was interrupted: no new context there (R351, R412, R320). -/
def noNewCtx (s : State) (p : Nat) : Bool := s.pow.flr.contains p || s.mem.scrubs.any (fun x => x.1 == 1 && x.2.1 == p)

/-! ## CTX_CREATE, CTX_KILL, CTX_QUERY -/

def ctxCreate (s : State) (page : Nat) : State :=
  let c := parg s page 0 % 4096
  let debug := bit (parg s page 0) 16
  let save := parg s page 1
  match ctxPart s c with
  | none => refuse s page 2
  | some p =>
    if !pageRange s page 0x218 c then refuse s page 2
    else if (ctx s c).st ≠ 0 ∨ !bit (reg s 8 (0x230 + 0x40 * p)) 0 ∨ noNewCtx s p then refuse s page 3
    else if debug ∧ !scopeBit s 0 then refuse s page 5
    else if save % 4096 ≠ 0 then refuse s page 1
    else match takePages s p 4096 (save / 4096) with
      | none => refuse s page 4
      | some (s, runs) =>
        let x := { Ctx.free with st := 1, part := p, debug := debug, saveLen := save, savePa := (nthD (0, 0) runs 0).1
                                 tables := runs.map (fun r => r.1) }
        postPage (setCtx s c x) page 0 0
def execCtxCreate (fn page : Nat) (s : State) : Res := .next (mgmt s fn page (fun s => ctxCreate s page))

def ctxKill (s : State) (page : Nat) : State :=
  let c := parg s page 0 % 4096
  if !pageRange s page 0x218 c then refuse s page 2
  else if (ctx s c).st ≠ 1 ∧ (ctx s c).st ≠ 2 then refuse s page 3
  else tearNext (tearStart { s with box := { s.box with mg := SMap.put (0, 0) s.box.mg page (2, c) } } c 1) c
def execCtxKill (fn page : Nat) (s : State) : Res := .next (mgmt s fn page (fun s => ctxKill s page))

def ctxQuery (s : State) (page : Nat) : State :=
  let c := parg s page 0 % 4096
  if !pageRange s page 0x218 c then refuse s page 2
  else
    let x := ctx s c
    let s := setParg (setParg (setParg s page 1 x.fltAddr.toNat) page 2 x.fltData.toNat) page 3 x.fltInfo.toNat
    postPage (setPres s page (x.st + x.lastLoss * 2 ^ 8)) page 0 0
def execCtxQuery (fn page : Nat) (s : State) : Res := .next (mgmt s fn page (fun s => ctxQuery s page))

/-! ## Q_CREATE, Q_DESTROY (R327) -/

/-- Highest vector number plus one of a function (R296). -/
def fnVectors (fn : Nat) : Nat := if fn = 0 ∨ fn = 9 then 2048 else 256

def qCreate (s : State) (page : Nat) : State :=
  let w := parg s page 2
  let q := w % 65536
  let c := bits w 27 16
  let vec := bits w 44 34
  if !pageRange s page 0x218 c || !pageRange s page 0x220 q then refuse s page 2
  else if 10 < bits w 31 28 then refuse s page 1
  else if (queue s q).inUse ∨ (ctx s c).st ≠ 1 ∨ queuePart s q ≠ some (ctx s c).part then refuse s page 3
  else if bit w 45 ∧ (vec = 0 ∨ fnVectors (bellOwner s q) ≤ vec) then refuse s page 1
  else
    let x : Queue := { Queue.empty with
      bound := true, ctx := c, ring := w64 (parg s page 0), cring := w64 (parg s page 1), size := bits w 31 28
      prio := bits w 33 32, vec := vec, ien := bit w 45 }
    postPage (setQueue s q x) page 0 0
def execQCreate (fn page : Nat) (s : State) : Res := .next (mgmt s fn page (fun s => qCreate s page))

/-- Fetch stops; the result is posted when the last fetched command has completed. -/
def qDestroy (s : State) (page : Nat) : State :=
  let q := parg s page 0 % 65536
  if !pageRange s page 0x220 q then refuse s page 2
  else if !(queue s q).bound ∨ (queue s q).stopped.isSome then refuse s page 3
  else closeQueue (setQueue s q { queue s q with stopped := some page }) q
def execQDestroy (fn page : Nat) (s : State) : Res := .next (mgmt s fn page (fun s => qDestroy s page))

/-! ## FEN_ASSIGN, FEN_SHARE, FEN_UNSHARE (R346, R347) -/

def fenAssign (s : State) (page : Nat) : State :=
  let a := parg s page 0
  let c := parg s page 1 % 4096
  let l := upTo (a % 2 ^ 18) (bits a 50 32)
  if !pageRange s page 0x218 c || !(l.all (fun k => pageRange s page 0x228 k)) then refuse s page 2
  else if (ctx s c).st ≠ 1 ∨ l.any (fun k => (fence s k).owner.isSome || slotPart s k != some (ctx s c).part) then refuse s page 3
  else postPage (l.foldl (fun s k => setFence s k { owner := some c, sig := false, err := false }) s) page 0 0
def execFenAssign (fn page : Nat) (s : State) : Res := .next (mgmt s fn page (fun s => fenAssign s page))

def fenShare (s : State) (page : Nat) : State :=
  let k := parg s page 0 % 2 ^ 18
  let c := parg s page 1 % 4096
  if !pageRange s page 0x228 k || !pageRange s page 0x218 c then refuse s page 2
  else if (fence s k).owner.isNone ∨ (ctx s c).st ≠ 1 then refuse s page 3
  else match (upTo 0 65536).find? (fun i => (SMap.get none s.box.shares i).isNone) with
    | none => refuse s page 4
    | some i =>
      postPage (setPres { s with box := { s.box with shares := SMap.put none s.box.shares i (some (k, c)) } } page i) page 0 0
def execFenShare (fn page : Nat) (s : State) : Res := .next (mgmt s fn page (fun s => fenShare s page))

def fenUnshare (s : State) (page : Nat) : State :=
  let i := parg s page 0 % 65536
  match SMap.get none s.box.shares i with
  | none => refuse s page 3
  | some (k, _) =>
    if !pageRange s page 0x228 k then refuse s page 2
    else postPage { s with box := { s.box with shares := SMap.put none s.box.shares i none } } page 0 0
def execFenUnshare (fn page : Nat) (s : State) : Res := .next (mgmt s fn page (fun s => fenUnshare s page))

/-! ## Events of a teardown -/

/-- The 2 ms of a closing window have passed: V and CLOSING clear (R250). -/
def windowClosed (s : State) (i : Nat) : State :=
  let v := reg s (expPage i) (expOff i)
  if i < 1024 ∧ bit v 6 then
    tearNext (setReg s (expPage i) (expOff i) (setBits (setBits v 6 6 0) 0 0 0)) (bits v 51 40)
  else s
def execWindowCloseExpiry (entry : Nat) (s : State) : Res := .next (windowClosed s entry)

/-- A released object without pins: its mappings go, and its backing once no access uses them (R341 step 4, R157). -/
def pinDrop (s : State) (c h : Nat) : State :=
  match objAny s c h with
  | none => s
  | some o =>
    if !o.dead || pinned s c h || ((ctx s c).st != 1 && (ctx s c).st != 2) then s else
    let s' := o.maps.foldl (fun s m => unmapRange s c m) s
    if o.maps.any (fun m => busyRange s c m.va m.size) then s' else dropObj s' c o
def execPinDrop (ctx handle : Nat) (s : State) : Res := .next (pinDrop s ctx handle)

/-! ## Partition reset (R351, R386, R388) -/

/-- Fetched commands of the context that have not completed get PARTITION_RESET, whatever their work had come to (R351). -/
def resetCmds (s : State) (c : Nat) : State :=
  let s := { s with box := { s.box with launches := s.box.launches.map (fun l => if l.ctx = c then { l with status := 0xA } else l) } }
  (queuesOf s c).foldl (fun s q => setQueue s q { queue s q with
    cmds := (queue s q).cmds.map (fun x => match x.st with | .ended _ _ => { x with st := .ended 0xA 0 } | _ => x) }) s

/-- A virtual function's FLR: every context of its partition is lost with PARTITION_RESET and torn down, and the carve-out is
scrubbed. -/
def partReset (s : State) (p : Nat) : State :=
  let s := exitEvent s 7
  let s := if s.pow.flr.contains p then s else { s with pow := { s.pow with flr := s.pow.flr ++ [p] } }
  let l := (s.box.ctxs.filter (fun (x : Nat × Ctx) => x.2.st != 0 && x.2.part == p)).map (fun (x : Nat × Ctx) => x.1)
  let s := l.foldl (fun s c =>
    let x := ctx s c
    let s := if x.st = 1 then countBank s p 0xE0 1 else s
    let s := resetCmds (setCtx s c { x with lastLoss := 0xA }) c
    if x.st = 3 then endSteps (killWork s c (fun _ => true) 0xA) c else tearStart s c 0xA) s
  l.foldl tearNext (partScrub s p)
/-- The chip takes a function's reset in Active with service, or in Idle. -/
def canReset (s : State) : Bool := s.pow.power == .idle || (s.pow.power == .active && s.pow.svc == 3)
def execVfFlr (n : Nat) (s : State) : Res := .next (if n < 8 ∧ canReset s then partReset s n else s)

/-- The partition that a partition-class error is charged to: of a queue, a slot or a share entry. -/
def chargedTo (s : State) (kind number : Nat) : Option Nat :=
  if kind = 0 then queuePart s number
  else if kind = 1 then slotPart s number
  else match SMap.get none s.box.shares number with | some (k, _) => slotPart s k | none => none
def execPartitionError (kind number : Nat) (s : State) : Res :=
  .next (match chargedTo s kind number with
    | some p => if canReset s then partReset (raiseErr s 0xA 2) p else s
    | none => s)

/-! ## Ends of scrubs (R350 step 8, R351, R381, R412) -/

/-- The whole carve-out of a partition is zero; its contexts are FREE. -/
def partScrubbed (s : State) (p : Nat) : State :=
  let s := (carveOf s p).foldl (fun s r => zeroRun s (r * 2 ^ 30) (2 ^ 30)) s
  let s := s.box.ctxs.foldl (fun s (x : Nat × Ctx) => if x.2.st = 3 && x.2.part == p && ctxScrub s x.1 then freeCtx s x.1 else s) s
  endScrub { s with pow := { s.pow with flr := s.pow.flr.filter (fun x => x != p) } } 1 p
def hasScrub (s : State) (what n arg : Nat) : Bool := s.mem.scrubs.contains (what, n, arg)
def scrubEnds (s : State) (what n : Nat) : State :=
  if what = 0 then (if hasScrub s 0 n 0 then freeCtx (scrubCtx s n) n else s)
  else if what = 1 then (if hasScrub s 1 n 1 then partScrubbed s n else s)
  else if what = 2 then (if scrubbing s n then endScrub (zeroRun s (n * 2 ^ 30) (2 ^ 30)) 2 n else s)
  else s
def execScrubComplete (what n : Nat) (s : State) : Res := .next (scrubEnds s what n)

end Sys2Proof.Machine
end

