-- ==== Sys2Proof/Machine/Streams.lean ====
section
/-! DEFINITION. Barker streams: the STREAM command, reading tiles, read tags, readiness, boundary events (R24, R180 to R191, R195,
R196). -/

namespace Sys2Proof.Machine

/-! ## Descriptors (R183, R185, R186) -/

/-- A 64-bit field read as a signed number. -/
def sg64 (n : Nat) : Int := if n < 2 ^ 63 then (n : Int) else (n : Int) - 2 ^ 64

/-- The stream that a descriptor describes, before it has an allocation. -/
def streamOf (q idx cx part tag : Nat) (d : List Byte) : Stream :=
  let w := leAt d 32 8
  let x := leAt d 40 8
  { Stream.empty with
    live := true, ctx := cx, part := part, tag := tag, q := q, idx := idx, src := leAt d 0 8, stride1 := leAt d 8 8, stride2 := leAt d 16 8
    n1 := leAt d 24 4, n2 := leAt d 28 4, rowBytes := bits w 23 0, rows := bits w 39 24, rowStride := bits w 63 40 * 32
    lead := bits x 3 0, th := bit x 4, drain := bit x 5, first := bits x 15 8, ncores := bits x 23 16, cstride := bits x 31 24
    deal := bits x 47 32, bfence := leAt d 48 8 }

/-- Tile size, and tiles that may be read but not consumed. -/
def Stream.tileBytes (x : Stream) : Nat := x.rowBytes * x.rows
def Stream.ahead (x : Stream) : Nat := x.lead + 1

/-- Granules of the allocation on each slice (R186). -/
def Stream.granules (x : Stream) (dies : Nat) : Nat := max (ceilDiv (ceilDiv (x.ahead * x.tileBytes) dies) 4096) (x.tileBytes / 4096)

/-- Byte offset of tile `t` from SRC. -/
def Stream.tileAt (x : Stream) (t : Nat) : Int := ((t % x.n1 : Nat) : Int) * sg64 x.stride1 + ((t / x.n1 : Nat) : Int) * sg64 x.stride2

/-- The pieces of tile `t`: rows packed in order, none across a 4 KiB boundary (R185). -/
def Stream.tilePieces (x : Stream) (t : Nat) : List Piece :=
  pieces (((x.src : Int) + x.tileAt t) % (2 ^ 64 : Int)).toNat x.rowStride x.rowBytes (x.tileBytes / 32 + 1) 0 x.tileBytes

/-- SRC_H covers every row of every tile of R185 (R337). -/
def streamCovered (s : State) (c h : Nat) (x : Stream) : Bool :=
  (upTo 0 (x.n1 * x.n2)).all (fun t => (upTo 0 x.rows).all (fun r =>
    let a := ((x.src % 2 ^ 48 : Nat) : Int) + x.tileAt t + ((r * x.rowStride : Nat) : Int)
    decide (0 ≤ a) && decide (a + x.rowBytes ≤ 2 ^ 48) && covered s c h (ctxAddr a.toNat) x.rowBytes))

/-- The checks of R184 on the descriptor alone. -/
def descOk (s : State) (d : List Byte) (x : Stream) : Bool :=
  let w := leAt d 40 8
  let mul := fun (n a : Nat) => decide (a % n = 0)
  decide (bits w 7 6 = 0) && !bit w 62 && decide (leAt d 56 8 = 0) && isLocal (w64 x.src)
    && decide (1 ≤ x.n1) && decide (1 ≤ x.n2) && decide (1 ≤ x.rowBytes) && mul 32 x.rowBytes && decide (1 ≤ x.rows)
    && decide (1 ≤ x.deal) && decide (1 ≤ x.ncores) && decide (x.ncores ≤ 144) && decide (x.cstride ≤ 143)
    && (decide (1 ≤ x.cstride) || x.ncores == 1)
    && decide (4096 ≤ x.tileBytes) && decide (x.tileBytes ≤ 262144) && mul 4096 x.tileBytes
    && (if x.th then mul 4096 x.src && mul 4096 x.stride1 && mul 4096 x.stride2 && mul 4096 x.rowBytes && mul 4096 x.rowStride
        else mul 32 x.src && mul 32 x.stride1 && mul 32 x.stride2)
    && x.coreSet.all (fun c => coreIn s x.part c)

/-! ## Loft quotas (R180, R186) -/

/-- A partition's quota, base and size in granules; none when the fitted slices differ. -/
def quota (s : State) (p : Nat) : Option (Nat × Nat) :=
  match s.sku.dies.map (fun e => let v := reg s (pgLoft e) (0xA0 + 4 * p); (bits v 14 0, bits v 30 16)) with
  | [] => none
  | a :: t => if t.all (fun b => b == a) then some a else none

/-- The range meets no live stream's. -/
def loftFree (s : State) (base n : Nat) : Bool :=
  (upTo 0 64).all (fun k => let y := stream s k; !y.live || !overlaps y.base y.len base n)

/-- The range that the Box Office chooses: any free one may serve; the model takes the lowest (assumption 20). -/
def loftPick (s : State) (b size n : Nat) : Option Nat :=
  let ends := (upTo 0 64).filterMap (fun k => let y := stream s k; if y.live then some (y.base + y.len) else none)
  ((b :: ends).filter (fun a => decide (b ≤ a) && decide (a + n ≤ b + size) && loftFree s a n)).foldl
    (fun (r : Option Nat) a => match r with | none => some a | some y => some (min a y)) none

/-! ## The STREAM command (R182 to R184, R188, R196) -/

/-- What becomes of a STREAM that could start. -/
inductive StreamDec | bad | wait | fault (status addr : Nat) | go (x : Stream)
  deriving DecidableEq, Repr

/-- BFENCE: 0, or a reference that the context may signal; the fault otherwise (R88, R184, R347). -/
def bfenceFault (s : State) (cx ref : Nat) : Option Nat :=
  if ref = 0 then none else
  match fref (w64 ref) with
  | .bad => some 1
  | .loc k => if slotMine s cx k then none else some 2
  | .sys _ _ => if sysFault s .sigf (w64 ref) = 0 then none else some (sysFault s .sigf (w64 ref))

/-- The descriptor has been read. -/
def descDecide (s : State) (h auto off : Nat) (d : List Byte) (x : Stream) (base size : Nat) : StreamDec :=
  let n := x.granules s.sku.dies.length
  if !descOk s d x || !streamCovered s x.ctx h x || decide (size < n) then .bad
  else if auto = 0 ∧ (size < off + n ∨ !loftFree s (base + off) n) then .bad
  else match bfenceFault s x.ctx x.bfence with
    | some k => .fault (kindStatus k) x.bfence
    | none =>
      match (if auto = 0 then some (base + off) else loftPick s base size n) with
      | none => .wait
      | some a =>
        let quiet := (upTo 0 x.ncores).filter (fun p => x.share p == 0)
        .go { x with base := a, len := n, reported := (quiet.map (fun p => x.first + p * x.cstride)).foldl insertNat [] }

/-- R196 first: nothing of a STREAM after a DRAIN stream of its queue happens before the boundary event. -/
def streamDecide (s : State) (q idx cx : Nat) (host b : List Byte) : StreamDec :=
  let slot := leAt b 16 1
  let x := stream s slot
  let part := (ctx s cx).part
  let desc := leAt b 24 8
  if (upTo 0 64).any (fun k => let y := stream s k; y.live && y.drain && y.q == q) then .wait
  else if !resOk b [(16, 16), (24, 39)] || decide (64 ≤ slot) || !slotIn s part slot || decide (desc % 64 ≠ 0)
      || !covered s cx (leAt b 32 4) (w64 desc) 64 then .bad
  else if x.live ∧ x.ctx ≠ cx then .bad
  else if x.live then .wait
  else match quota s part with
    | none => .bad
    | some (base, size) =>
      if !hostFits s cx desc 64 host then .wait else
      match readRange s cx desc 64 host with
      | .inl (k, a) => .fault (kindStatus k) a
      | .inr (_, d) =>
        let w := leAt d 40 8
        descDecide s (leAt b 36 4) (bits w 63 63) (bits w 61 48) d (streamOf q idx cx part (pkTag b) d) base size

/-- Record an event of a stream in every fitted Barker (R400). -/
def noteBark (s : State) (x : Stream) (ev slot : Nat) : State :=
  s.sku.dies.foldl (fun s e => note s 9 e 0 ev (some x.part) (some x.ctx) x.tag slot) s

/-- The cores of a partition decide again what their heads wait for. -/
def grantsAll (s : State) : State := s.cores.foldl (fun s (p : Nat × Core) => grants s p.1) s

def streamCmd (host : List Byte) (q idx : Nat) (s : State) (cx : Nat) (c : Cmd) : State :=
  let slot := leAt c.bytes 16 1
  grantsAll (match streamDecide s q idx cx host c.bytes with
  | .bad => invalid s q idx
  | .wait => s
  | .fault st a => cmdFault s q idx cx st a
  | .go x =>
    let s := match readRange s cx (leAt c.bytes 24 8) 64 host with | .inr (s, _) => s | .inl _ => s
    noteBark (setStream s slot x) x 2 slot)
def streamStart (q idx : Nat) (host : List Byte) (s : State) : State :=
  start s q idx 2 (fun c => streamDecide s q idx (queue s q).ctx host c.bytes != .wait) (streamCmd host q idx)

/-! ## Reading tiles (R24, R185, R187, R189, R190) -/

/-- Where a piece of a stream's source lies; a page whose THATCH bit differs from TH raises PERMISSION. -/
def streamSpot (s : State) (x : Stream) (a : Nat) : Spot :=
  if !isLocal (w64 a) then .fault 1 else
  match access s x.ctx .load (vaOf (w64 a)) with
  | .fault k => .fault k
  | .mem p => if x.th then .fault 2 else .mem p
  | .thatch i o => if x.th then .thatch i o else .fault 2
  | .host b => if x.th then .fault 2 else .host b
  | .io _ => .fault 2

/-- The pieces of tile `t` with their places. -/
def tileSpots (s : State) (x : Stream) (t : Nat) : List (Piece × Spot) := (x.tilePieces t).map (fun p => (p, streamSpot s x p.addr))

/-- Bytes of a tile that die `e` holds. -/
def tileShare (s : State) (e : Nat) (l : List (Piece × Spot)) : Nat :=
  ((l.filter (fun p => spotDie s p.2 == e)).map (fun p => p.1.len)).foldl (· + ·) 0

/-- Bytes of the die's ring in use. -/
def ringUsed (s : State) (x : Stream) (e : Nat) : Nat :=
  ((x.tiles.filter (fun y => y.dies.contains e)).map (fun y => tileShare s e (tileSpots s x y.t))).foldl (· + ·) 0

/-- Every tile up to `t` - L has been consumed. -/
def Stream.leadOk (x : Stream) (t : Nat) : Bool :=
  decide (t < x.ahead) || (x.consumed.filter (fun u => decide (u + x.ahead ≤ t))).length == t + 1 - x.ahead

/-- The die's slot may start tile `t`. -/
def tileStarts (s : State) (x : Stream) (e t : Nat) : Bool :=
  x.live && s.sku.die e && decide (t < x.tiles') && x.leadOk t
    && decide (ringUsed s x e + tileShare s e (tileSpots s x t) ≤ 4096 * x.len)

/-- Data of a piece; what host memory holds is open. -/
def streamBytes (s : State) (p : Piece × Spot) : List Byte :=
  match p.2 with
  | .host _ => (upTo 0 p.1.len).map (fun i => BitVec.ofNat 8 (freshNat s (16 + p.1.pos + i)))
  | _ => dieBytes s p

/-- The fault that the die meets in a tile: of any piece's translation, or damaged data of its own. -/
def tileFault (s : State) (e : Nat) (l : List (Piece × Spot)) : Option (Nat × Nat) :=
  match firstFault l with
  | some r => some r
  | none => (l.find? (fun p => spotDie s p.2 == e && !(dieBad s p).isEmpty)).map (fun p => (8, p.1.addr))

def newTile (t : Nat) : Tile := { t := t, dies := [], ready := false, fault := none, bytes := [], poison := [] }

/-- Change tile `t` of a stream, adding it when it is not there. -/
def Stream.setTile (x : Stream) (t : Nat) (f : Tile → Tile) : Stream :=
  if x.tiles.any (fun y => y.t == t) then { x with tiles := mapFirst (fun y => y.t == t) f x.tiles }
  else { x with tiles := x.tiles ++ [f (newTile t)] }

/-! ## Read tags (R191) -/

/-- Tags of a slot of a die, and the slot that received the die's last tag. -/
def tagKey (e slot : Nat) : Nat := e * 64 + slot % 64
def lastKey (e : Nat) : Nat := 1024 + e
def tagsOf (s : State) (e slot : Nat) : Nat := SMap.get 0 s.tags (tagKey e slot)
def setTags (s : State) (k n : Nat) : State := { s with tags := SMap.put 0 s.tags k n }

/-- The reads of a die's share of a tile that take a tag: each granule of a bundle, each 256 B block of index entries on the die's own
stacks, and each 256 B piece of a raw source. Host memory and other dies' index blocks are not read by the die's controllers. -/
def tagReads (s : State) (e : Nat) (l : List (Piece × Spot)) : Nat :=
  let at' := l.filterMap (fun p => match p.2 with | .thatch i o => some (i + o / 4096 * 8) | _ => none)
  ((((at'.filter (fun a => dieOf s.sku (a / 4096) == e)).map (fun a => a / 256)).foldl insertNat []).length)
    + (l.map (fun p => match p.2 with
        | .mem _ => ceilDiv p.1.len 256
        | .thatch i o => (let w := peekLE s (i + o / 4096 * 8) 8; if thV w && thOk s.sku w then thNg w else 0)
        | _ => 0)).foldl (· + ·) 0

/-- The die's slot has received a tag for every read of its share of tile `t`. -/
def tagsDone (s : State) (x : Stream) (e t : Nat) : Bool :=
  decide (tagReads s e ((tileSpots s x t).filter (fun p => spotDie s p.2 == e)) ≤ SMap.get 0 x.asked e)

/-- Die `e` reads its parts of the next tile; the data has entered Thatch or the Loft, and the tags are given back. -/
def readTile (s : State) (e slot : Nat) (x : Stream) (t : Nat) : State :=
  let l := tileSpots s x t
  let mine := l.filter (fun p => spotDie s p.2 == e)
  let flt := tileFault s e l
  let put := fun (m : SMap Byte) => if flt.isSome then m else mine.foldl (fun m p => SMap.putList 0 m p.1.pos (streamBytes s p)) m
  let x := x.setTile t (fun y => { y with dies := insertNat y.dies e, bytes := put y.bytes, fault := if y.fault.isSome then y.fault else flt })
  let x := { x with next := SMap.put 0 x.next e (t + 1), asked := SMap.put 0 x.asked e 0 }
  let s := mine.foldl (fun s p => match p.2 with | .host b => emitHost (useFree s) x.part (.hostRead b p.1.len) | _ => s) (dieTouchPieces (setTags s (tagKey e slot) 0) x.ctx mine)
  setStream s slot x
def execBarkerTileRead (die slot : Nat) (s : State) : Res :=
  let x := stream s slot
  let t := SMap.get 0 x.next die
  .next (if running s && decide (slot < 64) && tileStarts s x die t && tagsDone s x die t then readTile s die slot x t else s)

/-! ## Granting tags (R191) -/

/-- BARK_CTL.TAGCAP as it acts. -/
def tagCap (s : State) (e : Nat) : Nat := max 1 (min 32768 (reg s (pgBark e) 0x80 % 65536))

/-- The next slot in turn that may receive a tag: below the cap while another waits. -/
def nextSlot (s : State) (e : Nat) (waiting : List Nat) : Option Nat :=
  let last := SMap.get 0 s.tags (lastKey e)
  ((upTo 0 64).map (fun i => (last + i) % 64)).find? (fun k => waiting.contains k &&
    (decide (tagsOf s e k < tagCap s e) || waiting.all (fun w => w == k)))

/-- The slot waits for a tag: its next tile may start and a read of it has none. -/
def tagWaits (s : State) (e k : Nat) : Bool :=
  let x := stream s k
  let t := SMap.get 0 x.next e
  tileStarts s x e t && !tagsDone s x e t

/-- Reads of the slots in `freed` have ended and give their tags back; then one of the waiting slots among `waiting` receives a tag. -/
def grantTag (s : State) (e : Nat) (waiting freed : List Nat) : State :=
  let s := freed.foldl (fun s k => setTags s (tagKey e k) (tagsOf s e k - 1)) s
  let held := ((upTo 0 64).map (tagsOf s e)).foldl (· + ·) 0
  match nextSlot s e (waiting.filter (tagWaits s e)) with
  | some k =>
    if held < 32768 then
      let x := stream s k
      setStream (setTags (setTags s (tagKey e k) (tagsOf s e k + 1)) (lastKey e) (k + 1)) k
        { x with asked := SMap.put 0 x.asked e (SMap.get 0 x.asked e + 1) }
    else s
  | none => s
def execReadTagGrant (die : Nat) (waiting freed : List Nat) (s : State) : Res :=
  .next (if s.sku.die die && running s then grantTag s die waiting freed else s)

/-! ## Readiness and faults (R187, R189) -/

/-- A slot met a fault: the stream stops on every die, its boundary fence, here or on another chip, is signalled with the error flag, and
its context is lost (R189, R195). -/
def streamFault (s : State) (slot kind addr : Nat) : State :=
  let x := stream s slot
  let s := if x.bfence = 0 then s else match fref (w64 x.bfence) with
    | .loc k => if slotMine s x.ctx k then signal s k true else s
    | .sys chip _ => (request s (mkPkt 4 chip x.bfence 1 [] 0) x.ctx (.ended slot)).1
    | .bad => s
  grantsAll (loseCtx s x.ctx (kindStatus kind) 0 (w64 addr) 0 (some (x.q, x.idx)))

/-- The lowest tile that is not ready and has met a fault, or has all its parts. -/
def nextReady (s : State) (x : Stream) : Option Tile :=
  (x.tiles.filter (fun y => !y.ready && (y.fault.isSome || s.sku.dies.all (fun e => y.dies.contains e)))).foldl
    (fun (b : Option Tile) y => match b with | none => some y | some z => if y.t < z.t then some y else b) none

/-- The tile becomes ready; the core it is dealt to may load. -/
def tileReady (s : State) (slot : Nat) (y : Tile) : State :=
  let x := stream s slot
  match y.fault with
  | some (k, a) => streamFault s slot k a
  | none =>
    let s := noteBark (setStream s slot (x.setTile y.t (fun z => { z with ready := true }))) x 0x0C slot
    grants s (x.coreOf y.t)
def execTileReady (slot : Nat) (s : State) : Res :=
  match nextReady s (stream s slot) with
  | some y => .next (if running s && (stream s slot).live then tileReady s slot y else s)
  | none => .next s

/-! ## Boundary events (R195) -/

/-- The stream has no unconsumed tile and every core of its set has reported. -/
def atBoundary (x : Stream) : Bool :=
  x.live && x.drain && decide (x.tiles' ≤ x.consumed.length) && x.coreSet.all (fun c => x.reported.contains c)

/-- The boundary is posted: the slot is free and the command ends. -/
def boundaryDone (s : State) (slot : Nat) : State :=
  let x := stream s slot
  let s := noteBark s x 0x0D slot
  let s := note s 14 0 0 0x0D (some x.part) (some x.ctx) x.tag slot
  grantsAll (stopStream s slot 0 0)

/-- The remote signal of this boundary is on its way. -/
def boundarySent (s : State) (slot : Nat) : Bool := s.fab.reqs.any (fun r => r.owner == .boundary slot)

def boundary (s : State) (slot : Nat) : State :=
  let x := stream s slot
  if x.bfence = 0 then boundaryDone s slot else
  match fref (w64 x.bfence) with
  | .bad => boundaryDone s slot
  | .loc k => boundaryDone (signal s k false) slot
  | .sys chip _ =>
    let r := request s (mkPkt 4 chip x.bfence 0 [] 0) x.ctx (.boundary slot)
    if r.2.2 then r.1 else loseCtx s x.ctx 5 0 (w64 x.bfence) 0 (some (x.q, x.idx))
def execBoundaryEvent (slot : Nat) (s : State) : Res :=
  .next (if running s && atBoundary (stream s slot) && !boundarySent s slot then boundary s slot else s)

end Sys2Proof.Machine
end

