-- ==== Sys2Proof/Machine/Collective.lean ====
section
/-! DEFINITION. Collectives: the COLLECTIVE command, pieces on trees, slots, aborts and cancels, multicast, plan images (R144,
R278 to R293, R338). -/

namespace Sys2Proof.Machine

/-! ## The vector and its pieces (R278, R282) -/

def Live.elem (l : Live) : Nat := if l.fmt = 0 then 4 else 2
def Live.format (l : Live) : Fmt := if l.fmt = 0 then binary32 else if l.fmt = 1 then bfloat16 else binary16
def Live.bytes (l : Live) : Nat := l.count * l.elem
def Live.pieces (l : Live) : Nat := ceilDiv l.bytes 4096
def Live.len (l : Live) (j : Nat) : Nat := min 4096 (l.bytes - 4096 * j)

/-- The elements of a piece, and back. -/
def elemsOf (w : Nat) : Nat → List Byte → List W32
  | 0, _ => []
  | n + 1, d => BitVec.ofNat 32 (leAt d 0 w) :: elemsOf w n (d.drop w)
def elemBytes (w : Nat) (l : List W32) : List Byte := l.flatMap (fun x => toLE w x.toNat)

/-- The members' image, and the plan that a collective runs on. -/
def Live.image (s : State) (l : Live) : List Byte := bankOf s l.bank

/-- COLL_0's page and the register of a multicast group. -/
def pgColl0 : Nat := pgColl 0
def groupReg (s : State) (g : Nat) : Nat := reg s pgColl0 (0x800 + 8 * g)

/-- Tree of piece `j`, and this chip's entry of it; a group's register has the same fields. -/
def Live.tree (s : State) (l : Live) (j : Nat) : Nat := match l.group with | some g => g | none => j % max 1 (plTrees (l.image s))
def Live.node (s : State) (l : Live) (j : Nat) : Nat := match l.group with | some g => groupReg s g | none => plTree (l.image s) (l.tree s j)

/-- The member whose slice holds piece `j`. -/
def Live.sliceOf (s : State) (l : Live) (j : Nat) : Nat := 4096 * j / max 1 (l.bytes / max 1 (plMembs (l.image s)))
def Live.mine (s : State) (l : Live) (j : Nat) : Bool := l.sliceOf s j == plMy (l.image s)
def Live.isRoot (s : State) (l : Live) : Bool :=
  match l.group with | some g => trRoot (groupReg s g) | none => plMy (l.image s) == l.root

/-- This chip contributes a source piece. -/
def Live.gives (s : State) (l : Live) (j : Nat) : Bool :=
  if l.group.isSome ∨ l.op = 4 then l.isRoot s else if l.op = 3 then l.mine s j else true
/-- This chip writes the piece. -/
def Live.takes (s : State) (l : Live) (j : Nat) : Bool :=
  if l.op = 1 then l.isRoot s else if l.op = 2 then l.mine s j else true

/-! ## Arithmetic (R144) -/

def psOf : FV → PS | .nan => .nan | .inf s => .inf s | .fin s m e => .fin s m e

/-- A sum in binary32, truncated to the format; the 16-bit formats keep their subnormals. -/
def collSum (f : Fmt) (x y : Nat) : Nat :=
  match f.dec x, f.dec y with
  | .fin s m e, .fin t n d =>
    if f.mb = 23 then (PS.add (.fin s m e) (.fin t n d)).bits
    else let v := addFin s m e t n d; f.trunc (.fin (decide (v.1 < 0)) v.1.natAbs v.2)
  | a, b => f.trunc (PS.add (psOf a) b).val

/-- A value scaled by a binary32 factor: one product, truncated toward zero, with subnormals kept. A zero has the sign of the product, and
a NaN or an infinity is the IEEE 754 product, on which the rule is silent (DESIGN CHOICE, assumption 133). -/
def collScale (f : Fmt) (k : W32) (x : Nat) : Nat := f.trunc ((f.dec x).mul (binary32.dec k.toNat))

def sumPiece (f : Fmt) : List W32 → List W32 → List W32
  | a :: t, b :: u => BitVec.ofNat 32 (collSum f a.toNat b.toNat) :: sumPiece f t u
  | _, _ => []

/-! ## Packets (R292) -/

def liveAt (s : State) (cid : Nat) : Option Live := s.coll.live.find? (fun l => l.cid == cid)
def updLive (s : State) (cid : Nat) (f : Live → Live) : State :=
  { s with coll := { s.coll with live := mapFirst (fun l => l.cid == cid) f s.coll.live } }

/-- The plan tag of a piece. -/
def planTag (s : State) (l : Live) : Nat := if l.group.isSome then 0 else plId (l.image s) % 256

/-- A COLL packet; a MCAST packet has the same fields with the group as its tree (assumption 23). -/
def collPkt (s : State) (l : Live) (kind j : Nat) (down : Bool) (dst : Nat) (d : List Byte) (marks : Nat) : Pkt :=
  { kind := kind, dst := dst, src := chipNo s, spart := (ctx s l.ctx).part, pseq := 0, txid := 0, status := 0
    addr := dst * 2 ^ 48 + l.fmt * 2 ^ 43 + l.op * 2 ^ 40 + 4096 * j
    op := l.cid + l.tree s j * 2 ^ 16 + down.toNat * 2 ^ 22 + l.attempt * 2 ^ 23 + planTag s l * 2 ^ 24, data := d, marks := marks }

/-- A group all of whose ports here carry MCAST: minor version 1 or above (R265). -/
def groupCarries (s : State) (g : Nat) : Bool :=
  let e := groupReg s g
  (trKids e).all (fun n => decide (1 ≤ (port s n).minor)) && (trRoot e || decide (1 ≤ (port s (trParent e)).minor))

/-- Send a piece over a tree edge: in its slot on the edge's port, as MCAST, or untimed, when it is kept until answered. -/
def sendPiece (s : State) (l : Live) (j n : Nat) (down : Bool) (d : List Byte) (marks : Nat) : State :=
  let s := countBank s (ctx s l.ctx).part 0xD0 d.length
  let dst := peerOf (port s n)
  if l.timed then sendOn s n (collPkt s l 6 j down dst d marks) 0
  else if (match l.group with | some g => groupCarries s g | none => false) then sendOn s n (collPkt s l 7 j down dst d marks) 0
  else updLive (sendPkt s none (collPkt s l 6 j down dst d marks)).1 l.cid (fun l => { l with unacked := l.unacked ++ [(j, n, s.time.nsRun)] })

/-! ## The up phase (R282, R287) -/

/-- The places of the source and destination of piece `j`. -/
def collSpots (s : State) (l : Live) (wr : Bool) (j : Nat) : List (Piece × Spot) :=
  spots s l.ctx wr (pieces ((if wr then l.dst else l.src) + 4096 * j) 0 4096 3 0 (l.len j))

/-- Everything that the piece waits for on this chip is there. -/
def upReady (s : State) (l : Live) (j : Nat) : Bool :=
  let got := SMap.get [] l.upGot j
  if l.group.isSome ∨ 3 ≤ l.op then l.gives s j || !got.isEmpty else (trKids (l.node s j)).all (fun n => got.contains n)

/-- The chip's own piece: its elements, its damaged sectors, and the fault that reading it meets. -/
def ownPiece (s : State) (l : Live) (j : Nat) : List W32 × Nat × Option (Nat × Nat) :=
  let sp := collSpots s l false j
  (elemsOf l.elem (l.len j / l.elem) (sp.flatMap (streamBytes s)), rangeMarks (sp.flatMap (dieBad s)) 0 0 (l.len j), firstFault sp)

/-- The combined value of the piece. -/
def upValue (s : State) (l : Live) (j : Nat) : List W32 × Nat × Option (Nat × Nat) :=
  let got := SMap.get [] l.upSum j
  let bad := SMap.get 0 l.upPoison j
  if !l.gives s j then (got, bad, none) else
  let own := ownPiece s l j
  (if got.isEmpty then own.1 else sumPiece l.format got own.1, bad ||| own.2.1, own.2.2)

/-- The data of a piece at the root of its tree. -/
def rootValue (l : Live) (v : List W32) : List W32 :=
  if l.op ≤ 2 then v.map (fun x => BitVec.ofNat 32 (collScale l.format l.scale x.toNat)) else v

/-- The piece has been collected: to the parent, or, at the root, down. A damaged source loses its context afterwards (R175). -/
def collect (s : State) (l : Live) (j : Nat) : State :=
  let v := upValue s l j
  match v.2.2 with
  | some (k, a) => loseCtx s l.ctx (kindStatus k) 0 (w64 a) 0 (some (l.q, l.idx))
  | none =>
    let e := l.node s j
    let s := if l.gives s j then dieTouchPieces s l.ctx (collSpots s l false j) else s
    let s := updLive s l.cid (fun l =>
      { l with upSent := SMap.put false l.upSent j true, upPoison := SMap.put 0 l.upPoison j v.2.1
               upSum := if trRoot e then SMap.put [] l.upSum j [] else SMap.put [] l.upSum j v.1
               downGot := if trRoot e then SMap.put false l.downGot j true else l.downGot
               downData := if trRoot e then SMap.put [] l.downData j (rootValue l v.1) else l.downData })
    let s := if trRoot e then s else sendPiece s l j (trParent e) false (elemBytes l.elem v.1) v.2.1
    if l.gives s j ∧ (ownPiece s l j).2.1 ≠ 0 then loseCtx s l.ctx 9 0 (w64 (l.src + 4096 * j)) 0 (some (l.q, l.idx)) else s

/-! ## The down phase -/

/-- Write the piece where this chip takes it. -/
def deliverPiece (s : State) (l : Live) (j : Nat) : State :=
  if SMap.get false l.written j then s
  else if !l.takes s j then updLive s l.cid (fun l => { l with written := SMap.put false l.written j true })
  else
    let sp := collSpots s l true j
    match firstFault sp with
    | some (k, a) => loseCtx s l.ctx (kindStatus k) 0 (w64 a) 0 (some (l.q, l.idx))
    | none =>
      let d := elemBytes l.elem (SMap.get [] l.downData j)
      let m := SMap.get 0 l.upPoison j
      let bad := (maskBits 128 m).map (fun i => (32 * i, 32))
      let s := sp.foldl (fun s p => match p.2 with
        | .mem pa => putBytes s pa p.1.pos ((d.drop p.1.pos).take p.1.len) bad
        | .host h => emitHost s (ctx s l.ctx).part (.hostWrite h ((d.drop p.1.pos).take p.1.len) (badIn bad p.1.pos p.1.len))
        | _ => s) s
      updLive s l.cid (fun l => { l with written := SMap.put false l.written j true, poisoned := l.poisoned || m != 0 })

/-- Send the piece down over port `n`. -/
def sendDown (s : State) (l : Live) (j n : Nat) : State :=
  let s := sendPiece s l j n true (elemBytes l.elem (SMap.get [] l.downData j)) (SMap.get 0 l.upPoison j)
  updLive s l.cid (fun l => { l with downSent := SMap.put 0 l.downSent j (SMap.get 0 l.downSent j ||| 2 ^ n) })

/-- The piece is done on this chip. -/
def pieceDone (s : State) (l : Live) (j : Nat) : Bool :=
  SMap.get false l.written j && (trKids (l.node s j)).all (fun n => bit (SMap.get 0 l.downSent j) n)
    && l.unacked.all (fun u => u.1 != j)

/-! ## Progress -/

/-- What can be done for piece `j` outside slots. -/
def pumpPiece (s : State) (cid j : Nat) : State :=
  match liveAt s cid with
  | none => s
  | some l =>
    let s := if !SMap.get false l.upSent j && upReady s l j && (!l.timed || trRoot (l.node s j)) && !(l.group.isSome && !l.gives s j)
      then collect s l j else s
    match liveAt s cid with
    | none => s
    | some l =>
      if !SMap.get false l.downGot j then s else
      let s := deliverPiece s l j
      match liveAt s cid with
      | none => s
      | some l =>
        if l.timed then s else
        (trKids (l.node s j)).foldl (fun s n => match liveAt s cid with
          | some l => if bit (SMap.get 0 l.downSent j) n then s else sendDown s l j n
          | none => s) s

/-- Data that is no longer needed is dropped. -/
def tidy (s : State) (l : Live) : Live :=
  let done := fun j => pieceDone s l j
  { l with downData := SMap.keep (fun j => !done j) l.downData, upSum := SMap.keep (fun j => !done j) l.upSum }

/-- The collective ends once every piece is done; damaged results end it with the error flag (R175, R281). -/
def endLive (s : State) (cid : Nat) : State :=
  match liveAt s cid with
  | none => s
  | some l =>
    if (upTo 0 l.pieces).all (pieceDone s l) then
      let st := if l.poisoned then 4 else 0
      endCmd (note (dropLive s cid) 10 (nthD 0 s.sku.dies 0) 0 3 (some (ctx s l.ctx).part) (some l.ctx) l.tag st) l.q l.idx st 0
    else updLive s cid (tidy s)

def pumpLive (s : State) (cid : Nat) : State :=
  match liveAt s cid with
  | none => s
  | some l => endLive ((upTo 0 l.pieces).foldl (fun s j => pumpPiece s cid j) s) cid

/-- The engines work while the chip runs. -/
def pumpColl (s : State) : State := if running s then s.coll.live.foldl (fun s l => pumpLive s l.cid) s else s

/-! ## Arrivals (R280, R289 to R292) -/

/-- Fields of an arriving piece. -/
def cpCid (p : Pkt) : Nat := bits p.op 15 0
def cpTree (p : Pkt) : Nat := bits p.op 21 16
def cpDown (p : Pkt) : Bool := bit p.op 22
def cpAttempt (p : Pkt) : Nat := bits p.op 23 23
def cpTag (p : Pkt) : Nat := bits p.op 31 24
def cpOff (p : Pkt) : Nat := bits p.addr 39 0

/-- The plan aborts, and restarted collectives go on untimed. -/
def abortPlan (s : State) (why : Nat) : State := pumpColl (planAbort s why)

/-- The engine that collects a piece, and the one that delivers it: the die of its source granule, or of its destination where this chip
has no source, and the die of its destination (R25, R278). -/
def spotsDie (s : State) (l : List (Piece × Spot)) : Nat := match l with | [] => nthD 0 s.sku.dies 0 | p :: _ => spotDie s p.2
def upDie (s : State) (l : Live) (j : Nat) : Nat := spotsDie s (collSpots s l (!l.gives s j) j)
def downDie (s : State) (l : Live) (j : Nat) : Nat := spotsDie s (collSpots s l true j)

/-- A piece came to the engine of a die. -/
def Live.heard (l : Live) (e now : Nat) : Live := { l with last := SMap.put 0 l.last e now }

/-- The tree port over which an untimed piece of a chip comes. -/
def portFrom (s : State) (e src : Nat) : Option Nat :=
  ((if trRoot e then [] else [trParent e]) ++ trKids e).find? (fun n => peerOf (port s n) == src)

/-- Answer an untimed piece: the same packet without data (R290). -/
def ackPiece (s : State) (l : Live) (p : Pkt) : State :=
  (sendPkt s none (collPkt s l 6 (cpOff p / 4096) (cpDown p) p.src [] 0)).1

/-- An answer ends the wait for it. -/
def takeCollAck (s : State) (l : Live) (p : Pkt) : State :=
  let j := cpOff p / 4096
  match portFrom s (l.node s j) p.src with
  | some n => pumpLive (updLive s l.cid (fun l => { l with unacked := l.unacked.filter (fun u => !(u.1 == j && u.2.1 == n)) })) l.cid
  | none => s

/-- Take a piece that comes up from child `n`. -/
def takeUp (s : State) (l : Live) (j n : Nat) (p : Pkt) : State :=
  let got := SMap.get [] l.upGot j
  if got.contains n ∨ SMap.get false l.upSent j then s else
  let v := elemsOf l.elem (l.len j / l.elem) p.data
  let old := SMap.get [] l.upSum j
  let e := upDie s l j
  updLive s l.cid (fun l => Live.heard
    { l with upGot := SMap.put [] l.upGot j (insertNat got n), upSum := SMap.put [] l.upSum j (if old.isEmpty then v else sumPiece l.format old v)
             upPoison := SMap.put 0 l.upPoison j (SMap.get 0 l.upPoison j ||| p.marks) } e s.time.nsRun)

/-- Take a piece that comes down from the parent. -/
def takeDown (s : State) (l : Live) (j : Nat) (p : Pkt) : State :=
  if SMap.get false l.downGot j then s else
  let e := downDie s l j
  updLive s l.cid (fun l => Live.heard
    { l with downGot := SMap.put false l.downGot j true, downData := SMap.put [] l.downData j (elemsOf l.elem (l.len j / l.elem) p.data)
             upPoison := SMap.put 0 l.upPoison j p.marks } e s.time.nsRun)

/-- The operation, format or offset of a piece disagrees with the command. -/
def disagrees (s : State) (l : Live) (p : Pkt) : Bool :=
  let j := cpOff p / 4096
  bits p.addr 42 40 != l.op || bits p.addr 44 43 != l.fmt || cpOff p % 4096 != 0 || decide (l.pieces ≤ j)
    || (p.data.length != l.len j && !p.data.isEmpty) || cpTree p != l.tree s j

/-- Pieces in the collective buffers of die `e`: those kept for a command that has not been issued, on the die of their port, and those of
live collectives, at the engine that handles them. -/
def collHeld (s : State) (e : Nat) : Nat :=
  (s.coll.held.filter (fun h => h.1 / 8 == e)).length + (s.coll.live.map (fun l =>
    (l.upSum.filter (fun x => upDie s l x.1 == e)).length + (l.downData.filter (fun x => downDie s l x.1 == e)).length)).foldl (· + ·) 0

/-- The Loft's collective buffers of die `e` have room for one more piece (R179, R280). -/
def collRoom (s : State) (e : Nat) : Bool := decide (collHeld s e < 256 * (reg s (pgLoft e) 0x80 % 64))

/-- Pieces that are the same but for their data: same port, sender, collective, tree, attempt and offset. -/
def samePiece (a b : Nat × Pkt) : Bool := a.1 == b.1 && a.2.src == b.2.src && a.2.op == b.2.op && cpOff a.2 == cpOff b.2

/-- Keep a piece for a command that has not been issued here; one sent again takes the place of the earlier. -/
def holdPiece (s : State) (n : Nat) (p : Pkt) : State :=
  if p.data.isEmpty then s
  else { s with coll := { s.coll with held := s.coll.held.filter (fun h => !samePiece h (n, p)) ++ [(n, p)] } }

/-- A piece or an answer for a live collective. -/
def takePiece (s : State) (l : Live) (n off : Nat) (p : Pkt) : State :=
  let j := cpOff p / 4096
  if cpTag p ≠ planTag s l then abortPlan s 3
  else if l.timed ∧ 50 < off then abortPlan s 1
  else if cpAttempt p < l.attempt then s
  else if l.attempt < cpAttempt p then holdPiece s n p
  else if disagrees s l p then cancelLive s l 4
  else if p.data.isEmpty then takeCollAck s l p
  else if l.timed ∧ !trEdge (l.node s j) n then abortPlan s 3
  else match (if l.timed ∨ p.kind = 7 then some n else portFrom s (l.node s j) p.src) with
    | none => s
    | some m =>
      let s := if cpDown p then takeDown s l j p else takeUp s l j m p
      pumpLive (if l.timed ∨ p.kind = 7 then s else ackPiece s l p) l.cid

/-- A COLL or MCAST packet for this chip. The first flit of its slot came `off` ns from the instant at which it was expected (R289). A piece
that is sent again for a collective which ended here is answered; it is kept as well, since its number may have been taken anew. -/
def arriveColl (s : State) (n off : Nat) (p : Pkt) : State :=
  match liveAt s (cpCid p) with
  | some l => takePiece s l n off p
  | none =>
    let s := if p.kind = 6 ∧ !p.data.isEmpty ∧ s.coll.ended.contains (cpCid p)
      then (sendPkt s none { p with dst := p.src, src := chipNo s, addr := p.src * 2 ^ 48 + p.addr % 2 ^ 48, data := [] }).1 else s
    holdPiece s n p

/-- The piece must be kept for a command or an attempt that has not begun here, and no buffer is free for it. -/
def mustStall (s : State) (n : Nat) (p : Pkt) : Bool :=
  !p.data.isEmpty && (match liveAt s (cpCid p) with | some l => decide (l.attempt < cpAttempt p) && cpTag p == planTag s l | none => true)
    && !s.coll.held.any (fun h => samePiece h (n, p)) && !collRoom s (n / 8)

/-- The engine takes the packet from the port's buffers and returns its VC2 credits; a piece without a buffer keeps them (R280). -/
def takeColl (s : State) (n off : Nat) (p : Pkt) : State :=
  if mustStall s n p then { s with coll := { s.coll with stalled := s.coll.stalled ++ [(n, p)] } }
  else
    let s := arriveColl s n off p
    if s.sku.port n then sendNull s n false 2 (pktFlits p) else s

/-- Pieces kept for an attempt that has begun are taken, and stalled ones for which there is a buffer now. -/
def replay (s : State) : State :=
  let due := fun (h : Nat × Pkt) => match liveAt s (cpCid h.2) with | some l => decide (cpAttempt h.2 ≤ l.attempt) | none => false
  let l := s.coll.held.filter due
  let s := { s with coll := { s.coll with held := s.coll.held.filter (fun h => !due h) } }
  let s := l.foldl (fun s h => arriveColl s h.1 0 h.2) s
  s.coll.stalled.foldl (fun s h => if mustStall s h.1 h.2 then s
    else takeColl { s with coll := { s.coll with stalled := dropFirst (fun x => x == h) s.coll.stalled } } h.1 0 h.2) s

/-- The plan aborts, and pieces of the new attempt that came before are taken. -/
def abortAll (s : State) (why : Nat) : State := replay (abortPlan s why)

def execColl (n : Nat) (x : CollIn) (s : State) : Res :=
  .next (if running s && x.pkt.kind == 6 && x.pkt.dst == chipNo s then replay (takeColl s n x.off x.pkt) else s)
def execMcast (n : Nat) (p : Pkt) (s : State) : Res :=
  .next (if running s && p.kind == 7 && p.dst == chipNo s then replay (takeColl s n 0 p) else s)

/-! ## The COLLECTIVE command (R279, R287, R338) -/

/-- What becomes of a COLLECTIVE that could start. -/
inductive CollDec | bad | wait | go (l : Live)
  deriving DecidableEq, Repr

def newLive (s : State) (q idx cx : Nat) (b : List Byte) : Live :=
  let o := leAt b 46 1
  let g := leAt b 47 1
  { cid := leAt b 44 2, q := q, idx := idx, ctx := cx, op := bits o 2 0, fmt := bits o 4 3, count := leAt b 40 4, src := leAt b 16 8
    dst := leAt b 24 8, root := leAt b 48 2, scale := BitVec.ofNat 32 (leAt b 52 4), timed := false, start := 0
    bank := (s.coll.force.getD (0, 0)).1, group := if bit g 6 then some (bits g 5 0) else none, attempt := 0, upGot := [], upSum := []
    upPoison := [], upSent := [], downData := [], downGot := [], downSent := [], unacked := [], written := [], poisoned := false
    tag := pkTag b, since := s.time.nsRun, last := [], slots := [] }

/-- The start instant of the first frame at or after an instant (R285, R287). -/
def frameAt (ta f t : Nat) : Nat := if t ≤ ta then ta else ta + ceilDiv (t - ta) (max 1 f) * max 1 f

/-- Every operand value that a rule reserves or forbids. -/
def collBad (s : State) (b : List Byte) (l : Live) : Bool :=
  let n := l.bytes
  let img := l.image s
  !resOk b [(16, 49), (52, 55)] || decide (32 ≤ leAt b 46 1) || decide (128 ≤ leAt b 47 1) || decide (4 < l.op) || decide (l.fmt = 3)
    || decide (l.count = 0) || decide (l.src % 4096 ≠ 0) || decide (l.dst % 4096 ≠ 0) || (l.group.isSome && l.op != 4)
    || !covered s l.ctx (leAt b 32 4) (w64 l.src) n || !covered s l.ctx (leAt b 36 4) (w64 l.dst) n || overlaps l.src n l.dst n
    || s.sku.dies.any (fun e => reg s (pgLoft e) 0x80 % 64 == 0 || blkState s (pgColl e) == 4 || blkState s (pgColl e) == 5)
    || (match l.group with
        | some g => let e := groupReg s g; !bit e 6 || bits e 9 7 != (ctx s l.ctx).part
        | none => s.coll.force.isNone || (ctx s l.ctx).part != s.coll.part
            || ((l.op == 2 || l.op == 3) && n % (4096 * max 1 (plMembs img)) != 0)
            || ((l.op == 1 || l.op == 4) && decide (plMembs img ≤ l.root)))

def collDecide (s : State) (q idx cx : Nat) (b : List Byte) : CollDec :=
  let l := newLive s q idx cx b
  if collBad s b l then .bad
  else if 64 ≤ s.coll.live.length ∨ (liveAt s l.cid).isSome then .wait
  else if pkTimed b ∧ s.coll.pstate = 2 ∧ l.group.isNone then
    .go { l with timed := true, start := frameAt (s.coll.force.getD (0, 0)).2 (plF (l.image s)) (leAt b 56 8) }
  else .go l

/-- The collective is live; pieces that were kept for it are taken. All engines share it, and the start and the completion are recorded in
the ring of the lowest fitted die's engine (DESIGN CHOICE, assumption 23). -/
def startLive (s : State) (l : Live) : State :=
  let s := note s 10 (nthD 0 s.sku.dies 0) 0 2 (some (ctx s l.ctx).part) (some l.ctx) l.tag 0xB
  pumpLive (replay { s with coll := { s.coll with
    live := s.coll.live ++ [l], ended := s.coll.ended.filter (fun c => c != l.cid) } }) l.cid
def collCmd (q idx : Nat) (s : State) (cx : Nat) (c : Cmd) : State :=
  match collDecide s q idx cx c.bytes with
  | .bad => invalid s q idx
  | .wait => s
  | .go l => startLive s l
def collStart (q idx : Nat) (s : State) : State :=
  start s q idx 11 (fun c => collDecide s q idx (queue s q).ctx c.bytes != .wait) (collCmd q idx)

/-! ## Slots (R286 to R288) -/

/-- The pieces of a slot that the collective still owes: those of its tree that were not sent on its port. An image does not say which
members lie below this chip; an up slot of an all-gather or broadcast owes the pieces that are here (DESIGN CHOICE, assumption 23). -/
def owes (s : State) (l : Live) (e : Nat) : List Nat :=
  (upTo 0 l.pieces).filter (fun j => l.tree s j == slTree e &&
    (if slDown e then bit (trChild (l.node s j)) (slPort e) && !bit (SMap.get 0 l.downSent j) (slPort e)
     else !SMap.get false l.upSent j && !trRoot (l.node s j) && (decide (l.op ≤ 2) || upReady s l j)))

/-- The next piece of the slot is ready. -/
def slotReady (s : State) (l : Live) (e j : Nat) : Bool := if slDown e then SMap.get false l.downGot j else upReady s l j

/-- Send up to `n` pieces of one collective, in ascending order, while they are ready; answers what is left of the slot. -/
def slotSend (e cid : Nat) : Nat → List Nat → State → State × Nat
  | 0, _, s => (s, 0)
  | n + 1, [], s => (s, n + 1)
  | n + 1, j :: t, s =>
    match liveAt s cid with
    | none => (s, n + 1)
    | some l =>
      if slotReady s l e j then slotSend e cid n t (if slDown e then sendDown s l j (slPort e) else collect s l j) else (s, n + 1)

/-- The engine that handles a piece counts a slip: that of its source granule on the way up, of its destination on the way down. -/
def slip (s : State) (l : Live) (e j : Nat) : State :=
  let d := if slDown e then downDie s l j else upDie s l j
  let k := rkey (pgColl d) 0x98
  note (countBank (setCtr s k (ctr s k + 1)) (ctx s l.ctx).part 0xD8 1) 10 d 0 0x13 (some (ctx s l.ctx).part) (some l.ctx) l.tag (slTree e)

/-- Slot `k` opens for the collective now: the frame, and how much of the slot is left, in ft. An opening may come up to 8 ft late (R276),
once in a frame; none when it is closed to it. -/
def slotOpen (s : State) (l : Live) (k : Nat) : Option (Nat × Nat) :=
  let e := plSlot (l.image s) k
  let f := max 1 (plF (l.image s))
  if !l.timed || decide (s.time.ft < l.start) then none else
  let t := s.time.ft - l.start
  let off := t % f
  if slStage e ≤ t / f ∧ slStart e ≤ off ∧ off ≤ slStart e + 8 ∧ off < slStart e + slLen e ∧ SMap.get 0 l.slots k ≠ t / f + 1
  then some (t / f, slStart e + slLen e - off) else none

/-- One collective in a slot that has room for `n` more packets. -/
def slotServe (k cid : Nat) (s : State) (n : Nat) : State × Nat :=
  match liveAt s cid with
  | none => (s, n)
  | some l =>
    let e := plSlot (l.image s) k
    match slotOpen s l k with
    | none => (s, n)
    | some (f, _) =>
      let s := updLive s cid (fun l => { l with slots := SMap.put 0 l.slots k (f + 1) })
      match owes s l e with
      | [] => (s, n)
      | j :: t =>
        if slotReady s l e j && running s then let r := slotSend e cid n (j :: t) s; (endLive r.1 cid, r.2)
        else (slip s l e j, n)

/-- The packets that start in what is left of a slot: one while 46.08 ns remain. -/
def slotPackets (s : State) (k : Nat) : Nat :=
  (s.coll.live.map (fun l => match slotOpen s l k with | some r => r.2 * 100 / 4608 | none => 0)).foldl max 0

/-- Slot `k` opens: it serves the live timed collectives, oldest first. -/
def openSlot (s : State) (k : Nat) : State :=
  (s.coll.live.foldl (fun (r : State × Nat) l => slotServe k l.cid r.1 r.2) (s, slotPackets s k)).1
def execSlotOpen (slot : Nat) (s : State) : Res :=
  .next (if s.pow.power == .active && s.pow.svc == 3 && !s.dbg.fatal then openSlot s slot else s)

/-! ## Notices and timeouts (R289 to R291) -/

/-- A member's abort notice; the first reason stays. -/
def execAbortNotice (reason : Nat) (s : State) : Res := .next (if timeUp s then abortAll s reason else s)

def cancelNotice (s : State) (cid : Nat) : State := match liveAt s cid with | some l => cancelLive s l 4 | none => s
def execCancelNotice (cid : Nat) (s : State) : Res := .next (if timeUp s && !s.dbg.fatal then cancelNotice s cid else s)

/-- The progress timeout of an engine in ns, and when a piece last came to it, or the collective began. -/
def collTimeout (s : State) (e : Nat) : Nat := 1000 * 2 ^ max 10 (reg s (pgColl e) 0x8C % 32)
def Live.heardAt (l : Live) (e : Nat) : Nat := max l.since (SMap.get 0 l.last e)

/-- The engine of a die waits for a piece: one from below that it has yet to collect, or one from above that it has yet to deliver. -/
def engineWaits (s : State) (l : Live) (e : Nat) : Bool :=
  (upTo 0 l.pieces).any (fun j =>
    if l.group.isNone && decide (l.op ≤ 2) && !SMap.get false l.upSent j then !upReady s l j && upDie s l j == e
    else !SMap.get false l.downGot j && !(SMap.get false l.upSent j && trRoot (l.node s j)) && downDie s l j == e)
def collSilent (s : State) (l : Live) : Bool :=
  s.sku.dies.any (fun e => engineWaits s l e && decide (l.heardAt e + collTimeout s e ≤ s.time.nsRun))
def execCollectiveTimeout (cid : Nat) (s : State) : Res :=
  .next (match liveAt s cid with
    | some l => if running s && collSilent s l then cancelLive s l 4 else s
    | none => s)

/-- A piece that was not answered for 100 µs is sent again. -/
def resendPiece (s : State) (l : Live) (j n : Nat) : State :=
  let down := !(!trRoot (l.node s j) && trParent (l.node s j) == n)
  let s := updLive s l.cid (fun l => { l with unacked := l.unacked.filter (fun u => !(u.1 == j && u.2.1 == n)) })
  sendPiece s l j n down (elemBytes l.elem (if down then SMap.get [] l.downData j else SMap.get [] l.upSum j)) (SMap.get 0 l.upPoison j)
def execPieceResendTimeout (cid piece n : Nat) (s : State) : Res :=
  .next (match liveAt s cid with
    | some l => if running s && l.unacked.any (fun u => u.1 == piece && u.2.1 == n && decide (u.2.2 + 100000 ≤ s.time.nsRun))
        then resendPiece s l piece n else s
    | none => s)

/-! ## VC3 (R240) -/

/-- A management message: an announcement, a time exchange or a notice acts as its own event does; the plan
exchange corrects the route table, and remote management goes to the Ringmaster, with no effect that the manual gives. -/
def mgmtMsg (s : State) (n : Nat) (m : Mgmt) : State :=
  match m with
  | .announce chip q major minor members => announced s n chip q major minor members
  | .time t1 t2 t3 t4 locked hops errest =>
    if timeUp s then measure s n (measDelay t1 t2 t3 t4) (measOffset t1 t2 t3 t4) locked hops errest else s
  | .abort reason => abortAll s reason
  | .cancel cid => if s.dbg.fatal then s else cancelNotice s cid
  | .plan a b up => { s with fab := { s.fab with
      down := if up then s.fab.down.filter (fun e => e != (a, b) && e != (b, a)) else (a, b) :: s.fab.down.filter (fun e => e != (a, b)) } }
  | .remote _ => s
/-- The link carries VC3, or exchanges announcements. -/
def carriesMgmt (s : State) (n : Nat) (m : Mgmt) : Bool :=
  portsUp s && s.sku.port n && (match m with | .announce .. => mayTrain s n && (port s n).lstate == 1 && (port s n).loopNs != 0 | _ => carries (port s n).lstate 3)
def execMgmt (n : Nat) (m : Mgmt) (s : State) : Res := .next (if carriesMgmt s n m then mgmtMsg s n m else s)

/-! ## Plan images (R284) -/

/-- LOAD: the engine begins to copy the image into its free bank. -/
def loadPlan (s : State) : State :=
  if s.coll.loading.isSome then s else
  { s with coll := { s.coll with loading := some (s.coll.free_, reg s pgColl0 0x80 / 4096 * 4096), loaded := false } }
def execLoad (fn : Nat) (s : State) : Res := .next (pageWrite s fn pgColl0 loadPlan)

/-- The copy ends. A bank that live collectives hold is not written until they end. A damaged image is not loaded. -/
def planLoaded (s : State) (k base : Nat) : State :=
  let img := peek s base (plLen (peek s base 64))
  let ok := !poisonIn s base img.length
  let s := touchRange s base img.length
  { s with coll := { s.coll with
      loading := none, loaded := ok, base := base, banks := if ok then SMap.put [] s.coll.banks k img else s.coll.banks
      pstate := if ok ∧ s.coll.pstate = 0 then 1 else s.coll.pstate } }
def execPlanLoadComplete (s : State) : Res :=
  .next (match s.coll.loading with
    | some (k, base) => if running s && s.coll.live.all (fun l => l.group.isSome || l.bank != k) then planLoaded s k base else s
    | none => s)

end Sys2Proof.Machine
end

