-- ==== Sys2Proof/Machine/RegRead.lean ====
section
/-! DEFINITION. What a register reads: the stored value, or the part of the state that it shows (R302, R309, R434, R437 and the rules
that R438 names). -/

namespace Sys2Proof.Machine

/-! ## BLK_STAT (R302) -/

/-- Every fitted port has an outcome other than TRAINING, or the second has passed. -/
def fabricDone (s : State) : Bool := s.pow.fabDone || (upTo 0 32).all (fun n => !(s.sku.port n && (port s n).lstate == 1))

/-- Step 7 of the start-up runs (R378). -/
def blocksStart (s : State) : Bool :=
  s.pow.power == .active && s.pow.stage == .service && s.pow.svc == 2 && s.pow.hbmDone && fabricDone s

/-- BLK_STAT.STATE (R441): a port's initialisation ends with its outcome; every other block that is still in RESET initialises in step 7. -/
def stateOf (s : State) (page : Nat) : Nat :=
  match blkState s page, blkOf page with
  | 2, some (.xprt, n) => if s.pow.fabDone || (port s n).lstate != 1 then 3 else 2
  | 1, _ => if blocksStart s then (if s.pow.failed.contains page then 6 else 2) else 1
  | v, _ => v

/-- An access of a thread that waits at `d`. -/
def anyAcc (s : State) (f : Acc → Bool) : Bool :=
  s.cores.any (fun (k : Nat × Core) => k.2.groups.any (fun (g : Nat × Group) => g.2.occ && g.2.accs.any f))

/-- The block holds accepted work. The model keeps no accepted work in the blocks it does not list. -/
def blkBusy (s : State) (page : Nat) : Bool :=
  match blkOf page with
  | some (.core, c) => (core s c).teams.any (fun (t : Nat × Team) => t.2.occ)
  | some (.l2sl, n) => s.mem.waiting.any (fun (x : Nat × List (Nat × Req)) => x.1 == n && !x.2.isEmpty)
      || s.mem.dir.any (fun (x : Nat × DirEnt) => x.2.used && x.2.busy.isSome && homeOf x.2.line == n)
  | some (.d2d, n) => SMap.get false s.mem.d2dUp n
  | some (.loft, _) | some (.bark, _) => s.streams.any (fun (x : Nat × Stream) => x.2.live)
  | some (.coll, _) => !s.coll.live.isEmpty
  | some (.xprt, n) => !(port s n).queue.isEmpty || !(port s n).retry.isEmpty
  | some (.boxo0, _) => s.box.queues.any (fun (x : Nat × Queue) => !x.2.cmds.isEmpty) || bit (reg s 8 0x84) 0
  | some (.boxo, _) => bit (reg s page 0x84) 0
      || s.box.queues.any (fun (x : Nat × Queue) => !x.2.cmds.isEmpty && (ctx s x.2.ctx).part == (page - 0x40) / 16)
  | some (.rmst1, _) => bit (reg s 1 0x88) 16 || s.rm.long.isSome
  | some (.dbug0, _) => s.dbg.dumping || s.dbg.snapping
  | some (.aloc, _) => anyAcc s (fun a => a.kind == .alloc)
  | some (.host, _) => anyAcc s (fun a => match a.dest with | .host _ => true | _ => false)
      || s.cores.any (fun (k : Nat × Core) => match k.2.tmRun with | some r => !r.host.isEmpty | none => false)
  | _ => false

def blkStat (s : State) (page : Nat) : Nat :=
  let st := stateOf s page
  st + 16 * (blkBusy s page).toNat + 32 * (decide (st = 5)).toNat + 64 * (decide (blkErr s page ≠ 0)).toNat
    + 128 * (reg s page 0x28 % 2)

/-! ## Cores (R57, R125, R404) -/

def thStatCode : ThStat → Nat | .running => 0 | .barG => 1 | .barT => 2 | .waitF => 3 | .exited => 4

/-- CORE_DBG_REGSEL's class, register and thread, and the group of GSLOT. -/
def dbgClass (s : State) (c : Nat) : Nat := bits (reg s (pgCore c) 0x108) 18 16
def dbgIndex (s : State) (c : Nat) : Nat := bits (reg s (pgCore c) 0x108) 7 0
def dbgThread (s : State) (c : Nat) : Nat := bits (reg s (pgCore c) 0x108) 12 8
def dbgSlot (s : State) (c : Nat) : Nat := bits (reg s (pgCore c) 0x100) 5 0

/-- CORE_DBG_DATA as it reads. -/
def dbgData (s : State) (c : Nat) : Nat :=
  let g := grp s c (dbgSlot s c)
  let i := dbgIndex s c
  let t := dbgThread s c
  match dbgClass s c with
  | 0 => if i < g.nreg then (g.v t i).toNat else 0
  | 1 => if i < 64 then (g.u i).toNat else 0
  | 2 => if i < 8 then (g.p t i).toNat else 0
  | 3 => (g.thr t).pc.toNat
  | 4 => thStatCode (g.thr t).stat
  | 7 => if bit (reg s (pgCore c) 0x100) 11 then reg s (pgCore c) 0x110 else 0
  | _ => 0

def dbgStat (s : State) (c : Nat) : Nat :=
  if !scopeBit s 0 then 32 else
  let g := grp s c (dbgSlot s c)
  g.halted.toNat + reg s (pgCore c) 0x104 / 2 % 2 * 2 + (if g.halted then g.cause % 8 * 4 else 0)

def dbgCtl (s : State) (c : Nat) : Nat :=
  let k := dbgSlot s c
  reg s (pgCore c) 0x100 % 64 + 256 * ((grp s c k).haltReq || SMap.get false (core s c).hold k).toNat
    + reg s (pgCore c) 0x100 / 2048 % 2 * 2048

/-- The head command would start but for the tile mover's command in progress. -/
def mxWaitsTm (k : Core) : Bool := k.mxRuns.isEmpty && k.tmRun.isSome && !k.mxq.isEmpty

/-- CORE_MX_STAT; a command in progress is still in the queue (R106), and the clear takes no time in the model. -/
def mxStat (k : Core) : Nat :=
  k.claim.getD 0 % 64 + 64 * k.claim.isSome.toNat + (k.mxq.length + k.mxRuns.length) % 32 * 2 ^ 8
    + (!k.mxRuns.isEmpty).toNat * 2 ^ 16
    + (mxWaitsTm k).toNat * 2 ^ 17 + k.reload.isSome.toNat * 2 ^ 18

def coreOver (s : State) (c off : Nat) : Option Nat :=
  if off = 0x30 then some ((corePart s c).getD 0)
  else if off = 0x104 then some (dbgStat s c)
  else if 0x100 ≤ off ∧ off < 0x148 ∧ !scopeBit s 0 then some 0
  else if off = 0x100 then some (dbgCtl s c)
  else if off = 0x110 then some (dbgData s c)
  else if off = 0x180 then some (mxStat (core s c))
  else if 0x280 ≤ off then some (ctr s (rkey (pgCore c) off))
  else none

/-! ## Fabric, time, collectives, host port (R266, R274, R293, R313) -/

def collStat (s : State) : Nat :=
  s.coll.pstate % 4 + 4 * s.coll.loading.isSome.toNat + s.coll.why % 8 * 2 ^ 4 + s.coll.live.length % 128 * 2 ^ 8

def collOver (s : State) (n off : Nat) : Option Nat :=
  if off = 0x90 then some (collStat s) else if off = 0x98 then some (ctr s (rkey (pgColl n) off)) else none

def xprtOver (s : State) (n off : Nat) : Option Nat :=
  let p := port s n
  if off = 0x80 then some (2 * p.disable.toNat)
  else if off = 0x84 then some (p.lstate % 16 + p.rig % 8 * 2 ^ 4 + p.loc.toNat * 2 ^ 7 + p.minor % 16 * 2 ^ 8)
  else if off = 0x88 then some (p.pchip % 65536 + p.pport % 32 * 2 ^ 16 + p.pv.toNat * 2 ^ 21)
  else if off = 0x8C then some (p.achip % 65536 + p.aport % 32 * 2 ^ 16 + p.amaj % 16 * 2 ^ 24 + p.amin % 16 * 2 ^ 28)
  else if off = 0x90 then some (p.loopNs % 65536)
  else if off = 0xA0 then some p.prbs
  else if 0xC0 ≤ off then some (ctr s (rkey (pgXprt n) off))
  else none

/-- A signed 16-bit field, saturating. -/
def sat16 (x : Int) : Nat := (max (-32767) (min 32767 x) % 65536).toNat

def ftimOver (s : State) (off : Nat) : Option Nat :=
  let t := s.time
  if off = 0x80 then some t.ft
  else if off = 0x88 then some (t.st % 8 + t.parent % 32 * 2 ^ 3 + t.gm.toNat * 2 ^ 8 + t.hops % 16 * 2 ^ 9 + t.epoch % 65536 * 2 ^ 16)
  else if off = 0x8C then some (t.errest % 65536 + sat16 t.offset * 2 ^ 16)
  else if off = 0x90 then some t.ptmFt
  else if off = 0x98 then some t.ptmHt
  else if off = 0xA0 then some t.ptmSeq
  else none

/-- Rate, width and FLIT mode of a host port's link; rate 0 is down. -/
def linkOf (s : State) (n : Nat) : Nat × Nat × Bool := SMap.get (0, 0, false) s.pow.links n

def hostOver (s : State) (off : Nat) : Option Nat :=
  let a := linkOf s 0
  let b := linkOf s 1
  if off = 0x80 then some s.pow.modeFlash
  else if off = 0x84 then some (a.1 % 8 + a.2.1 % 32 * 2 ^ 3 + a.2.2.toNat * 2 ^ 8 + b.1 % 8 * 2 ^ 9 + b.2.1 % 32 * 2 ^ 12 + b.2.2.toNat * 2 ^ 17)
  else none

/-! ## Ringmaster, mailbox, security, power (R315, R356, R363, R373, R382, R384) -/

/-- The lowest-numbered tier with ready work (R354): that of the period, or 3 while the mailbox holds work. -/
def tierNow (s : State) : Nat :=
  if (s.rm.tier == 0 || s.rm.tier == 4) && (s.rm.cmd0.isSome || s.rm.cmd1.isSome || s.rm.long.isSome) then 3 else s.rm.tier

def rmst0Over (s : State) (off : Nat) : Option Nat :=
  if off = 0x80 then some (s.rm.up.toNat + (if s.rm.up then 2 * (tierNow s % 8) else 0) + min 255 s.rm.restarts * 2 ^ 8)
  else if off = 0x84 then some s.rm.hb
  else if off = 0x88 then some s.rm.tdrop
  else if off = 0x90 then some s.rm.tskip
  else none

def rmst1Over (s : State) (off : Nat) : Option Nat :=
  if off = 0x88 then some (reg s 1 0x88 % 2 ^ 19 + s.rm.long.isSome.toNat * 2 ^ 19)
  else if off = 0x90 then some (match s.rm.long with | some l => l.prog % 256 + l.opcode % 65536 * 2 ^ 8 | none => 0)
  else none

/-- The image that runs. -/
def imageNow (s : State) : Image := if s.rm.slot = 0 then s.rm.imgA else s.rm.imgB

def secuOver (s : State) (off : Nat) : Option Nat :=
  let r := s.rm
  if off = 0x80 then
    some (r.slot % 2 + 2 * r.fallback.toNat + 4 * r.verified.toNat + (if r.verified then (imageNow s).svn % 256 else 0) * 2 ^ 8
      + r.fused % 128 * 2 ^ 16 + r.scope % 8 * 2 ^ 24)
  else if off = 0x88 then some r.nonce.toNat
  else if off = 0x90 then some (r.result % 16 * 2 ^ 4)
  else none

/-- The counter of PWRC_ENERGY counts tenths of a millijoule. -/
def pwrcOver (s : State) (off : Nat) : Option Nat :=
  if off = 0x80 then some (limitW s)
  else if off = 0x84 then some (clockMhz s + ceilMhz s * 2 ^ 12)
  else if off = 0x88 then some (causeBits s)
  else if off = 0x90 then some (ctr s (rkey 4 0x90) / 10)
  else if off = 0xA0 then some (s.pow.psState % 8 + s.pow.psResult % 16 * 2 ^ 4 + s.pow.psWhy % 16 * 2 ^ 8)
  else if off = 0xB0 then some s.pow.cause
  else none

/-! ## Debug unit (R390, R392, R397, R399, R401, R405) -/

/-- An entry of the Carousel in its 16 bytes (R400). -/
def Event.bytes (e : Event) : List Byte :=
  toLE 8 e.ft ++ toLE 1 e.event ++ toLE 1 (e.part.getD 0 % 8 + 8 * e.ctx.isSome.toNat) ++ toLE 2 (e.ctx.getD 0) ++ toLE 2 e.tag ++ toLE 2 e.arg

/-- A dump section takes its 16 B header and a body padded to 64 B. -/
def sectionLen (body : Nat) : Nat := 16 + roundUp body 64

/-- The units that keep a Carousel: block type, instance and engine. -/
def carUnits (k : Sku) : List (Nat × Nat × Nat) :=
  ((upTo 0 144).filter k.core).flatMap (fun c => [(1, c, 0), (1, c, 1), (1, c, 2)])
    ++ (upTo 0 48).map (fun n => (2, n, 0)) ++ k.dies.map (fun e => (4, e, 0))
    ++ ((upTo 0 16).filter k.hbmc).map (fun h => (6, h, 0))
    ++ [7, 8, 9, 10, 15].flatMap (fun t => k.dies.map (fun e => (t, e, 0)))
    ++ ((upTo 0 32).filter k.port).map (fun n => (11, n, 0)) ++ [(12, 0, 0), (13, 0, 0), (14, 0, 0)]

/-- Bytes of a hang snapshot (R402). -/
def snapLen : Nat := 2277376

/-- DBUG_DUMP_NEED: the header and every section of the options. -/
def dumpNeed (s : State) : Nat :=
  let k := s.sku
  let ctl := reg s 0xA 0xB0
  let on := fun (i : Nat) => (bit ctl i).toNat
  4096 + (presentPages k).length * sectionLen 4096
    + k.cores * (sectionLen (584 * 1024) + on 1 * sectionLen (2 * 2 ^ 20) + sectionLen (16 * 1024) + on 2 * sectionLen (128 * 1024))
    + 48 * (sectionLen (512 * 1024) + on 3 * sectionLen (2 * 2 ^ 20))
    + sectionLen (4096 * 64 + 65536 * 32) + (carUnits k).length * sectionLen 1024 + sectionLen snapLen

def curtStat (s : State) : Nat :=
  s.dbg.raised.toNat + s.dbg.cause % 8 * 2 + s.dbg.quiet.toNat * 2 ^ 4 + s.dbg.dumping.toNat * 2 ^ 5 + s.dbg.dumpErr % 4 * 2 ^ 6

/-- The registers that scope bit 1 unlocks. -/
def dbgGated (off : Nat) : Bool := (0x80 ≤ off && off < 0xD8) || off / 8 == 0x20 || (0x400 ≤ off && off < 0x800)

def dbug0Over (s : State) (off : Nat) : Option Nat :=
  let d := s.dbg
  if dbgGated off ∧ !scopeBit s 1 then some 0
  else if off = 0x90 then some (curtStat s)
  else if off = 0x98 then some d.curtFt
  else if off = 0xB8 then some (dumpNeed s)
  else if off = 0xD0 then some d.snapFt
  else if off = 0xE0 then some (fatalWord d)
  else if off = 0xE8 then some d.fft
  else if off = 0xF0 then some d.faddr
  else if off = 0x108 then some d.nowin
  else if 0x208 ≤ off ∧ off < 0x2B0 then some (SMap.get 0 d.ce ((off - 0x200) / 8))
  else if 0x400 ≤ off ∧ off < 0x800 then
    some (leAt ((nthD { ft := 0, event := 0, part := none, ctx := none, tag := 0, arg := 0 } d.window ((off - 0x400) / 16)).bytes)
      (off % 16 / 4 * 4) 4)
  else none

def dbugOver (s : State) (n off : Nat) : Option Nat :=
  if off = 0x300 ∨ off < 0x80 then none else some (ctr s (rkey (pgDbug (n - 1)) off))

/-! ## The status mirror (R309, R437) -/

/-- What a block reports, in the layout of MIRR_ENT. -/
def mirrorWord (s : State) (page : Nat) : Nat :=
  let st := blkStat s page
  page + st % 16 * 2 ^ 16 + st / 16 % 2 * 2 ^ 20 + st / 64 % 2 * 2 ^ 21 + st / 128 % 2 * 2 ^ 22 + (pageOwner s page).getD 0 * 2 ^ 24

/-- Entry `i` as function `fn` reads it: the last report, with STALE; RESET before the first. -/
def mirrorEnt (s : State) (fn i : Nat) : Nat :=
  match (presentPages s.sku)[i]? with
  | none => 0
  | some page =>
    if !reaches s fn page then 0 else
    let v := match SMap.get none s.regs.mirror page with | some v => v.toNat | none => page + 2 ^ 16
    setBits v 23 23 (SMap.get false s.regs.stale page).toNat

/-- The rails are good: a start-up past step 1, Active or Idle. -/
def railsGood (s : State) : Bool := s.pow.power == .idle || (s.pow.power == .active && s.pow.stage != .rails)

def mirrOver (s : State) (fn off : Nat) : Option Nat :=
  if off = 0x80 then some (s.pow.svc % 16 + chipNo s % 65536 * 2 ^ 16)
  else if off = 0x84 then
    some (s.sku.code + s.sku.cores * 2 ^ 8 + s.sku.stacks * 2 ^ 16 + maskOf s.sku.dies * 2 ^ 24)
  else if off = 0x88 then some (if railsGood s then s.pow.inPower % 65536 + clockMhz s % 65536 * 2 ^ 16 else 0)
  else if off = 0x8C then some (s.pow.hotJct % 256 + s.pow.inletC % 256 * 2 ^ 8 + (decide (clockMhz s < 2100)).toNat * 2 ^ 16)
  else if off = 0x98 then some (match s.rm.long with | some l => 1 + l.prog % 256 * 2 | none => 0)
  else if 0x100 ≤ off then some (mirrorEnt s fn ((off - 0x100) / 8))
  else none

/-! ## Reading -/

/-- The part of the state that the register at offset `off` of a page shows to function `fn`; none for a stored register. -/
def overlaid (s : State) (fn page off : Nat) : Option Nat :=
  if off = 0xC then some (blkStat s page) else
  match blkOf page with
  | some (.core, c) => coreOver s c off
  | some (.coll, n) => if off < 0x80 then none else collOver s n off
  | some (.xprt, n) => if off < 0x80 then none else xprtOver s n off
  | some (.ftim, _) => if off < 0x80 then none else ftimOver s off
  | some (.host, _) => if off < 0x80 then none else hostOver s off
  | some (.rmst0, _) => if off < 0x80 then none else rmst0Over s off
  | some (.rmst1, _) => if off < 0x80 then none else rmst1Over s off
  | some (.secu, _) => if off < 0x80 then none else secuOver s off
  | some (.pwrc, _) => if off < 0x80 then none else pwrcOver s off
  | some (.dbug0, _) => if off < 0x80 then none else dbug0Over s off
  | some (.dbug, n) => dbugOver s n off
  | some (.mirr, _) => if off < 0x80 then none else mirrOver s fn off
  | _ => none

/-- The register whose first byte is at `off`, as it reads. -/
def readReg (s : State) (fn page : Nat) (r : RegSpec) (off : Nat) : Nat :=
  ((overlaid s fn page off).getD (reg s page off)) &&& r.readMask

/-- One byte of a page: 0 where the function does not reach it, the page is absent or the offset reserved (R11, R298, R301). -/
def readByte (s : State) (fn page off : Nat) : Nat :=
  if !reaches s fn page then 0 else
  match regAt s.sku page off with
  | some (r, b) => readReg s fn page r b / 2 ^ (8 * (off - b)) % 256
  | none => 0

/-- `n` bytes of BAR0 at one instant. -/
def readIo (s : State) (fn off n : Nat) : Nat :=
  ofLE ((upTo 0 n).map (fun i => BitVec.ofNat 8 (readByte s fn ((off + i) / 4096) ((off + i) % 4096))))

end Sys2Proof.Machine
end

