-- ==== Sys2Proof/Machine/Commit.lean ====
section
/-! DEFINITION. Commits of a page's shadows, scheduled commits, counter samples, and the order of events of one instant (R276,
R277, R302 to R307, R406). -/

namespace Sys2Proof.Machine

/-! ## Values in force and shadows (R10, R304) -/

/-- A register's value when every CS field takes its shadow. -/
def RegSpec.taken (r : RegSpec) (old sh : Nat) : Nat :=
  r.fields.foldl (fun a f => if f.acc = .cs then Access.rw.write a sh f.mask else a) old

/-- The offsets of the registers of a page that have a CS field. -/
def csOffs (k : Sku) (page : Nat) : List Nat :=
  match blkAt k page with
  | some (b, n) => ((blkRegs b n).filter RegSpec.hasCs).flatMap (fun r => (upTo 0 r.n).map (fun i => r.off + r.stride * i))
  | none => []

/-- The value that a commit would put in force. -/
def newReg (s : State) (page off : Nat) : Nat :=
  match regAt s.sku page off with
  | some (r, _) => r.taken (reg s page off) (shadow s page off)
  | none => 0

/-- Every CS field of the page takes its shadow. -/
def takeShadows (s : State) (page : Nat) : State :=
  (csOffs s.sku page).foldl (fun s off => setReg s page off (newReg s page off)) s

/-- The register changes. -/
def changes (s : State) (page off : Nat) : Bool := newReg s page off != reg s page off

/-- The first check that fails, in the order given. -/
def firstFail : List (Bool × Nat) → Nat
  | [] => 0
  | (b, r) :: t => if b then r else firstFail t

/-- Partition `n` has a context that is not FREE. -/
def partLive (s : State) (n : Nat) : Bool := s.box.ctxs.any (fun (x : Nat × Ctx) => x.2.st != 0 && x.2.part == n)

/-- A pair of partitions, the lower first. -/
def partPairs : List (Nat × Nat) := (upTo 0 8).flatMap (fun a => ((upTo 0 8).filter (fun b => a < b)).map (fun b => (a, b)))

/-! ## BOXO_0 (R182, R321) -/

def newRange (s : State) (off n : Nat) : Nat × Nat :=
  let v := newReg s 8 (off + 0x40 * n)
  (v % 2 ^ 32, v / 2 ^ 32)
def rangeOver (s : State) (off limit n : Nat) : Bool :=
  let r := newRange s off n
  decide (r.2 ≠ 0) && decide (limit < r.1 + r.2)
def rangesMeet (s : State) (off : Nat) (p : Nat × Nat) : Bool :=
  let a := newRange s off p.1
  let b := newRange s off p.2
  decide (a.2 ≠ 0) && decide (b.2 ≠ 0) && overlaps a.1 a.2 b.1 b.2

/-- The registers of partition `n`. -/
def partOffs (n : Nat) : List Nat := [0x200, 0x208, 0x210, 0x218, 0x220, 0x228, 0x230].map (fun o => o + 0x40 * n)

def boxoCheck (s : State) : Nat := firstFail [
  ((upTo 0 8).any (fun n => (upTo 0 3).any (fun w => newReg s 8 (0x200 + 0x40 * n + 8 * w) &&& coreWord s.sku w != newReg s 8 (0x200 + 0x40 * n + 8 * w))
    || rangeOver s 0x218 4096 n || rangeOver s 0x220 65536 n || rangeOver s 0x228 262144 n), 2),
  (partPairs.any (fun p => (upTo 0 3).any (fun w => newReg s 8 (0x200 + 0x40 * p.1 + 8 * w) &&& newReg s 8 (0x200 + 0x40 * p.2 + 8 * w) != 0)
    || rangesMeet s 0x218 p || rangesMeet s 0x220 p || rangesMeet s 0x228 p
    || newReg s 8 (0x108 + 8 * p.1) &&& newReg s 8 (0x108 + 8 * p.2) != 0), 3),
  ((upTo 0 8).any (fun n => partLive s n && (partOffs n).any (changes s 8)), 5),
  ((upTo 0 64).any (fun k => (stream s k).live && !bit (newReg s 8 (0x108 + 8 * (stream s k).part)) k), 6)]

/-- The measured digest of the partition registers changes to a value the model leaves open (R372; assumption 9). -/
def remeasure (s : State) (i : Nat) : State :=
  useFree { s with rm := { s.rm with meas := SMap.put 0 s.rm.meas i (BitVec.ofNat 256 (freshNat s 9)) } }

/-- Every counter, configuration and sample of a core returns to 0 (R404). -/
def clearCounters (s : State) (c : Nat) : State :=
  let pg := pgCore c
  let s := (upTo 0 16).foldl (fun s i => setReg s pg (0x200 + 8 * i) 0) s
  ((upTo 0 32).map (fun i => 0x280 + 8 * i) ++ (upTo 0 8).map (fun i => 0x380 + 8 * i)).foldl (fun s o => setCtr s (rkey pg o) 0) s

def boxoApply (s : State) : State :=
  let s' := takeShadows s 8
  remeasure ((upTo 0 144).foldl (fun x c => if corePart s c != corePart s' c then clearCounters x c else x) s') 6

/-! ## XLAT pages (R168, R247, R322, R381) -/

/-- The partition that a carve-out register's value gives range `r`. -/
def carveIn (f : Nat → Nat) (r : Nat) : Option Nat :=
  let v := f (0x400 + r / 4 * 4) >>> (8 * (r % 4))
  if bit v 3 then some (v % 8) else none

def xlat0Check (s : State) : Nat := firstFail [
  ((upTo 0 1024).any (fun r => (carveIn (newReg s 9) r).isSome && decide (s.sku.usable < (r + 1) * 2 ^ 30)), 2),
  ((upTo 0 1024).any (fun r =>
      let a := carve s r
      let b := carveIn (newReg s 9) r
      a != b && [a, b].any (fun o => match o with | some n => partLive s n | none => false))
    || (upTo 0 8).any (fun n => partLive s n && bit (newReg s 9 0x80) n != bit (reg s 9 0x80) n), 5)]

/-- A range placed in another partition than the recorded one is scrubbed first. -/
def rehome (s : State) (r : Nat) : State :=
  let rec' := SMap.get 0 s.mem.owners r
  match carve s r with
  | some q =>
    if rec' = 0 ∨ rec' = q + 2 then s
    else addScrub { s with mem := { s.mem with owners := SMap.put 0 s.mem.owners r (q + 2) } } 2 r 0
  | none => s
def xlat0Apply (s : State) : State := remeasure ((upTo 0 1024).foldl rehome (takeShadows s 9)) 6

/-- Faults of a valid export entry. -/
def exportBad (s : State) (a b : Nat) : Bool :=
  let lo := bits a 39 16
  let hi := bits b 23 0
  let kind := bits a 2 1
  bit a 0 && (decide (hi < lo) || decide (bits b 63 48 < bits b 47 32) || decide (kind = 3) || (bit a 5 && !(bit a 3 && bit a 4))
    || (kind == 0 && !(upTo (lo / 16384) (hi / 16384 - lo / 16384 + 1)).all (fun r => carve s r == some (bits a 10 8)))
    || (kind == 1 && decide (262143 < hi)) || (kind == 2 && decide (16383 < hi)))

def xlatCheck (s : State) (page : Nat) : Nat := firstFail [
  ((upTo 0 128).any (fun i => exportBad s (newReg s page (0x800 + 16 * i)) (newReg s page (0x808 + 16 * i))), 2),
  ((upTo 0 128).any (fun i => bit (reg s page (0x800 + 16 * i)) 6 && (changes s page (0x800 + 16 * i) || changes s page (0x808 + 16 * i))), 4)]

/-! ## Loft, collectives, Thatch, host port -/

def streamArea (collsz : Nat) : Nat := 16384 - 1024 - 256 * collsz
def loftCheck (s : State) (page : Nat) : Nat :=
  let sz := newReg s page 0x80 % 64
  let q := fun (n : Nat) => let v := newReg s page (0xA0 + 4 * n); (bits v 14 0, bits v 30 16)
  firstFail [
    (decide (48 < sz), 2),
    (sz != reg s page 0x80 % 64 && !(s.coll.live.isEmpty && s.coll.held.isEmpty), 4),
    (partPairs.any (fun p => decide ((q p.1).2 ≠ 0) && decide ((q p.2).2 ≠ 0) && overlaps (q p.1).1 (q p.1).2 (q p.2).1 (q p.2).2), 3),
    ((upTo 0 8).any (fun n => decide ((q n).2 ≠ 0) && decide (streamArea sz < (q n).1 + (q n).2)), 2),
    ((upTo 0 8).any (fun n => changes s page (0xA0 + 4 * n) && s.streams.any (fun (x : Nat × Stream) => x.2.live && x.2.part == n)), 6)]

/-- Slot entries `i` and `j` of an image share a port and a moment. -/
def slotsMeet (b : List Byte) (i j : Nat) : Bool :=
  let x := plSlot b i
  let y := plSlot b j
  slPort x == slPort y && overlaps (slStart x) (slLen x) (slStart y) (slLen y)

/-- A slot entry with a reserved value, outside its frame, or on a port that is not its tree's. -/
def slotBad (b : List Byte) (i : Nat) : Bool :=
  let e := plSlot b i
  let t := plTree b (slTree e)
  bits e 63 60 != 0 || decide (slLen e < 47) || decide (plTrees b ≤ slTree e) || decide (plF b < slStart e + slLen e)
    || (if slDown e then !bit (trChild t) (slPort e) else trRoot t || slPort e != trParent t)

/-- What makes an image unfit for this chip and a partition (R283, R284). -/
def imageBad (s : State) (part : Nat) (b : List Byte) : Bool :=
  decide (plId b = 0) || decide (plF b < 1024) || decide (plTrees b < 1) || decide (64 < plTrees b) || leAt b 6 2 / 128 != 0
    || decide (plSlots b < 1) || decide (1024 < plSlots b) || decide (plMembs b < 2) || decide (4368 < plMembs b)
    || decide (plMembs b ≤ plMy b) || leAt b 14 50 != 0
    || (upTo 0 (plTrees b)).any (fun t => bits (plTree b t) 31 6 != 0)
    || (upTo 0 (plSlots b)).any (slotBad b)
    || (upTo 0 (plSlots b)).any (fun i => (upTo 0 i).any (slotsMeet b i))
    || (upTo 0 32).any (fun n => decide (3 * plF b < 4 * (((upTo 0 (plSlots b)).map (fun i =>
         if slPort (plSlot b i) = n then slLen (plSlot b i) else 0)).foldl (· + ·) 0)))
    || plMember b (plMy b) != chipNo s
    || !(upTo (s.coll.base / 2 ^ 30) ((s.coll.base + plLen b - 1) / 2 ^ 30 - s.coll.base / 2 ^ 30 + 1)).all (fun r => carve s r == some part)

def collCheck (s : State) : Nat :=
  let v := newReg s pgColl0 0x88
  firstFail [
    (bit v 1 && (!s.coll.loaded || s.coll.loading.isSome), 7),
    (bit v 1 && imageBad s (bits v 4 2) (bankOf s s.coll.free_), 2),
    ((upTo 0 64).any (fun g => bit (groupReg s g) 6 && changes s pgColl0 (0x800 + 8 * g) && s.coll.live.any (fun l => l.group == some g)), 4)]

/-- EN = 1 puts the loaded bank in force with frames from instant `ta` on; EN = 0 takes the plan out of force (R284, R285). -/
def collApply (s : State) (ta : Nat) : State :=
  let s := takeShadows s pgColl0
  let v := reg s pgColl0 0x88
  if bit v 1 then
    let s := { s with coll := { s.coll with
      force := some (s.coll.free_, ta), free_ := 1 - s.coll.free_, loaded := false, part := bits v 4 2, pstate := 2, why := 0 } }
    if s.time.st = 2 then s else abortAll s 1
  else { s with coll := { s.coll with force := none, pstate := if s.coll.force.isSome then 1 else s.coll.pstate } }

def thatCheck (s : State) : Nat := firstFail [
  ((upTo 0 16).any (fun k => let v := newReg s pgThat0 (0x100 + 8 * k); bit v 0 && (carve s (bits v 51 16 * 65536 / 2 ^ 30)).isNone), 2)]

/-- A moved doorbell page holds a queue of a live context. -/
def hostCheck (s : State) : Nat := firstFail [
  (s.box.queues.any (fun (x : Nat × Queue) =>
    let pg := x.1 / 512
    x.2.bound && (ctx s x.2.ctx).st != 0
      && (newReg s 6 (0x100 + 4 * (pg / 8)) >>> (4 * (pg % 8))) % 16 != (reg s 6 (0x100 + 4 * (pg / 8)) >>> (4 * (pg % 8))) % 16), 8)]

/-! ## MESH (R162 to R164) -/

/-- Every structure instance: L1s, instruction caches, L2 slices, directory slices. -/
def lfsrInsts (k : Sku) : List Nat :=
  ((upTo 0 144).filter k.core).map instL1 ++ ((upTo 0 144).filter k.core).map instIc ++ (upTo 0 48).map instL2 ++ (upTo 0 48).map instDir

/-- A seed of the security block's random source: open, but never 0. -/
def seedOf (s : State) (i : Nat) : W16 := if Config.lfsrSeed s.free i = 0 then 1 else Config.lfsrSeed s.free i

/-- CACHE_MODE 1 seeds every LFSR; 0 clears every node bit and evict-first mark. -/
def meshApply (s : State) : State :=
  let s := takeShadows s 7
  if cacheRandom s then
    useFree { s with mem := { s.mem with lfsr := (lfsrInsts s.sku).foldl (fun m i => SMap.put 1 m i (seedOf s i)) [] } }
  else
    let clean := fun (k : Core) => { k with l1 := k.l1.map (fun (p : Nat × L1Line) => (p.1, { p.2 with mark := false })) }
    { s with mem := { s.mem with plru := [] }, cores := s.cores.map (fun (p : Nat × Core) => (p.1, clean p.2)) }

/-! ## A commit (R304) -/

/-- The page's validation: 0, or the reason of the first failed check. -/
def commitCheck (s : State) (page : Nat) : Nat :=
  match blkAt s.sku page with
  | some (.boxo0, _) => boxoCheck s
  | some (.xlat0, _) => xlat0Check s
  | some (.xlat, _) => xlatCheck s page
  | some (.loft, _) => loftCheck s page
  | some (.coll, n) => if n = 0 then collCheck s else 0
  | some (.that, n) => if n = 0 then thatCheck s else 0
  | some (.host, _) => hostCheck s
  | _ => 0

/-- The values take effect, with what they change. -/
def commitApply (s : State) (page ta : Nat) : State :=
  match blkAt s.sku page with
  | some (.boxo0, _) => boxoApply s
  | some (.xlat0, _) => xlat0Apply s
  | some (.coll, n) => if n = 0 then collApply s ta else s
  | some (.mesh, _) => meshApply s
  | some (.pwrc, _) => repower s (fun s => takeShadows s page)
  | _ => takeShadows s page

/-- Carousel event 0x15 of the units that keep one. -/
def noteCommit (s : State) (page reason : Nat) : State :=
  match blkOf page with
  | some (b, n) => if (carUnits s.sku).contains (b.code, n, 0) then note s b.code n 0 0x15 none none 0 reason else s
  | none => s

/-- The outcome in BLK_COMMIT_STAT; PENDING stays as `pend`. -/
def setOutcome (s : State) (page reason : Nat) (pend : Bool) : State :=
  setReg s page 0x28 (pend.toNat + (if reason = 0 then 2 else 4 + reason * 8) + s.time.ft % 2 ^ 48 * 2 ^ 16)

/-- A commit of a page at instant `ta`. -/
def commitAt (s : State) (page ta : Nat) : State :=
  let r := commitCheck s page
  let s := if r = 0 then commitApply s page ta else s
  noteCommit (setOutcome s page r (bit (reg s page 0x28) 0)) page r
def commit (s : State) (page : Nat) : State := commitAt s page s.time.ft

def execBlkCommit (fn page : Nat) (s : State) : Res := .next (pageWrite s fn page (fun s => commit s page))

/-! ## Scheduled commits (R276, R306) -/

/-- A scheduled commit waits on the page, and its instant. -/
def pendAt (s : State) (page : Nat) : Option Nat := if bit (reg s page 0x28) 0 then some (reg s page 0x20) else none

/-- The page's scheduled commit runs at its instant: BLK_COMMIT_AT returns to 0. -/
def runPending (s : State) (page : Nat) : State :=
  commitAt (setField (setReg s page 0x20 0) page 0x28 0 0 0) page (reg s page 0x20)

/-- Arm, replace or cancel; an instant already past runs at once. Scheduled commits wait under the Curtain (R397). -/
def armCommit (s : State) (page v : Nat) : State :=
  let s := { s with regs := { s.regs with armLow := SMap.put 0 s.regs.armLow page 0 } }
  if v = 0 then (if (pendAt s page).isSome then noteCommit (setOutcome (setReg s page 0x20 0) page 10 false) page 10 else s)
  else
    let s := setField (setReg s page 0x20 v) page 0x28 0 0 1
    if v ≤ s.time.ft ∧ !s.dbg.raised then runPending s page else s
def execBlkCommitAtWrite (fn page : Nat) (value : W64) (s : State) : Res :=
  .next (pageWrite s fn page (fun s => armCommit s page value.toNat))

/-- Class of a page's commit among the events of one instant (R277): a collective plan's activation comes third. -/
def commitClass (page : Nat) : Nat := if page = pgColl0 then 3 else 1

/-- Instant and class of every event that waits for fabric time; the wake alarm, to which R277 gives no place, comes last (DESIGN CHOICE,
assumption 121). -/
def dueEvents (s : State) : List (Nat × Nat) :=
  (presentPages s.sku).filterMap (fun p => (pendAt s p).map (fun t => (t, commitClass p)))
    ++ (match s.fab.pending with | some (tp, _) => [(tp, 2)] | none => [])
    ++ (upTo 0 8).filterMap (fun n => let t := reg s (pgDbug n) 0x300; if t = 0 then none else some (t, 4))
    ++ (if running s then s.box.queues.flatMap (fun (x : Nat × Queue) => x.2.cmds.filterMap (fun c =>
         if pkTimed c.bytes && c.isWaiting && !c.fired then some (leAt c.bytes 56 8, 5) else none)) else [])
    ++ (let t := reg s 0xA 0x88; if t = 0 ∨ !dbgOpen s then [] else [(t, 6)])
    ++ (let t := reg s 4 0xA8; if t = 0 then [] else [(t, 7)])

/-- The event of instant `t` and class `k` may fire: its instant has come, no earlier one waits, and no Curtain is up. -/
def mayFire (s : State) (t k : Nat) : Bool :=
  !s.dbg.raised && decide (t ≤ s.time.ft)
    && (dueEvents s).all (fun e => !(decide (e.1 < t) || (e.1 == t && decide (e.2 < k))))

/-- At Tp the pending cabling plan takes effect (R263). -/
def execPlanChange (s : State) : Res :=
  match s.fab.pending with
  | some (tp, p) => .next (if (portsUp s || s.pow.power == .idle) && mayFire s tp 2 then applyPlan s p else s)
  | none => .next s

/-- The start instant of a timed command has come (R335). -/
def execTimedCommandStart (q idx : Nat) (s : State) : Res :=
  match cmdAt s q idx with
  | some c => .next (if pkTimed c.bytes && c.isWaiting && !c.fired && running s && mayFire s (leAt c.bytes 56 8) 5
      then updCmd s q idx (fun c => { c with fired := true }) else s)
  | none => .next s

def execScheduledCommit (page : Nat) (s : State) : Res :=
  .next (match pendAt s page with
    | some t => if pagesUp s && mayFire s t (commitClass page) then runPending s page else s
    | none => s)

/-! ## Counter samples (R405, R406) -/

/-- The bank's counters and those of every core of the partition copy into their samples. -/
def sampleBank (s : State) (n : Nat) : State :=
  let pg := pgDbug n
  let s := (upTo 0 15).foldl (fun s i => setCtr s (rkey pg (0x180 + 8 * i)) (ctr s (rkey pg (0x80 + 8 * i)))) s
  let s := ((upTo 0 144).filter (coreIn s n)).foldl (fun s c =>
    let s := (upTo 0 16).foldl (fun s i => setCtr s (rkey (pgCore c) (0x300 + 8 * i)) (ctr s (rkey (pgCore c) (0x280 + 8 * i)))) s
    (upTo 0 4).foldl (fun s j => setCtr s (rkey (pgCore c) (0x3A0 + 8 * j)) (ctr s (rkey (pgCore c) (0x380 + 8 * j)))) s) s
  let s := setCtr s (rkey pg 0x308) s.time.ft
  setReg (setCtr s (rkey pg 0x310) ((ctr s (rkey pg 0x310) + 1) % 2 ^ 32)) pg 0x300 0
def execCounterSample (part : Nat) (s : State) : Res :=
  let t := reg s (pgDbug part) 0x300
  .next (if part < 8 ∧ t ≠ 0 ∧ pagesUp s ∧ mayFire s t 4 then sampleBank s part else s)

/-! ## BLK_OWNER, BLK_CTL (R302, R303, R415, R435) -/

/-- BLK_OWNER.PART: ignored on PFONLY pages, on the mirror, on cores, from any function but PF0, and on BOXO and DBUG pages for any value
but the page's own partition. -/
def setOwner (s : State) (fn page v : Nat) : State :=
  if fn ≠ 0 then s else
  match blkAt s.sku page with
  | some (.boxo, n) | some (.dbug, n) => if v % 8 = n - 1 then setReg s page 0x30 (v % 8) else s
  | _ => s
def execBlkOwnerWrite (fn page value : Nat) (s : State) : Res := .next (pageWrite s fn page (fun s => setOwner s fn page value))

/-- QUIESCE acts on the collective engines, the only block with such a definition (R415). -/
def setQuiesce (s : State) (page : Nat) (b : Bool) : State :=
  match blkAt s.sku page with
  | some (.coll, _) =>
    let s := setField s page 8 1 1 b.toNat
    if b then (if blkState s page = 3 then setBlkState s page 4 else s)
    else if blkState s page = 4 ∨ blkState s page = 5 then setBlkState s page 3 else s
  | some _ => setField s page 8 1 1 b.toNat
  | none => s
def execQuiesce (fn page : Nat) (b : Bool) (s : State) : Res := .next (pageWrite s fn page (fun s => setQuiesce s page b))

/-- The engines complete the collectives they have accepted. -/
def execBlockQuiesced (page : Nat) (s : State) : Res :=
  .next (if blkState s page = 4 ∧ s.coll.live.isEmpty then setBlkState s page 5 else s)

/-- No chapter defines an effect of EN on a block, so every block ignores writes of it; the Ringmaster's write at start-up stands
(R302, R378). -/
def execEn (fn page : Nat) (_ : Bool) (s : State) : Res := .next (pageWrite s fn page (fun s => s))

end Sys2Proof.Machine
end

