-- ==== Sys2Proof/Machine/Control.lean ====
section
/-! DEFINITION. Control transfer, major 0x0C (R37, R61, R91 to R93). -/

namespace Sys2Proof.Machine

def shBra : Shape := ⟨.un, .un, .un, .un, .target, 0, .vec⟩
def shCall : Shape := ⟨.v 2, .un, .un, .un, .target, 0, .vec⟩
def shBraR : Shape := ⟨.un, .v 2, .un, .un, .none, 0, .vec⟩
def shCallR : Shape := ⟨.v 2, .v 2, .un, .un, .none, 0, .vec⟩

/-- The target of BRA and CALL: bits [39:16], signed, in units of 8 B, or the long form's immediate (R91). -/
def braTarget (x : Issue) : W64 :=
  match x.f.long with
  | some i => i
  | none =>
    let o : BitVec 24 := x.f.srca ++ x.f.srcb ++ x.f.srcc
    x.pc + (o.signExtend 64) <<< 3

/-- The target in a register pair or uniform register. -/
def regTarget (x : Issue) (old : Group) (t : Nat) : W64 := BitVec.ofNat 64 (regVal old t x.f.ua x.f.srca.toNat 2)

/-- A taken branch of one lane: the link first, then the target; a target at or below the branch marks the set (R37). -/
def branchLane (link : Bool) (x : Issue) (target : Nat → W64) (s : State) (t : Nat) : LaneRes :=
  let a := target t
  if a.toNat % 8 ≠ 0 then .fault 3 (some a) else
  let g := grp s x.core x.gslot
  let g := if link then g.setV64 t x.f.dst.toNat (x.pc + insLen x.f) else g
  .ok (setGrp s x.core x.gslot (g.setThr t { g.thr t with pc := a, mark := decide (a.toNat ≤ x.pc.toNat) }))

def execBra (x : Issue) (s : State) : Res := issueMem shBra true true x s (branchLane false x (fun _ => braTarget x))
def execBraR (x : Issue) (s : State) : Res :=
  issueMem shBraR true true x s (branchLane false x (regTarget x (grp s x.core x.gslot)))
def execCall (x : Issue) (s : State) : Res := issueMem shCall true true x s (branchLane true x (fun _ => braTarget x))
def execCallR (x : Issue) (s : State) : Res :=
  issueMem shCallR true true x s (branchLane true x (regTarget x (grp s x.core x.gslot)))
def execRet (x : Issue) (s : State) : Res :=
  issueMem shBraR true true x s (branchLane false x (regTarget x (grp s x.core x.gslot)))

/-- Nothing of the acting threads is on its way: no access, no buffered store, no remote request. EXIT is ready then, so that an exit that
completes a barrier leaves the thread's stores visible (R45, R47) and a slot is released as R33 states (DEDUCED, assumption 36). -/
def lanesDone (s : State) (x : Issue) : Bool :=
  let g := grp s x.core x.gslot
  let act := actingOf s x
  g.sb.all (fun e => !act.contains e.th) && g.accs.all (fun a => act.all (fun t => !a.mask.testBit t))
    && (groupReqs s x.core x.gslot).all (fun r => match r.owner with | .store _ _ t => !act.contains t | _ => true)

/-- EXIT: the acting threads end; an exit counts as an arrival, and the last one releases the slot (R33, R45, R93). -/
def execExit (x : Issue) (s : State) : Res :=
  issue shNone true (lanesDone s x) x s (fun s _ act =>
    if act.isEmpty then s else
    release (settle (setGrp s x.core x.gslot ((grp s x.core x.gslot).park act .exited)) x.core x.gslot) x.core x.gslot)

/-- YIELD marks the set (R37). -/
def execYield (x : Issue) (s : State) : Res :=
  issue shNone true true x s (fun s set act =>
    if act.isEmpty then s else
    setGrp s x.core x.gslot (set.foldl (fun g t => g.setThr t { g.thr t with mark := true }) (grp s x.core x.gslot)))

/-- The 16-bit code of TRAP: bits [31:16] of the word, SRCB and SRCC (R93). -/
def trapCode (f : Fields) : Nat := f.srcb.toNat * 256 + f.srcc.toNat

/-- The acting lanes fault with a kind, where they stand. -/
def raiseLanes (kind code : Nat) (x : Issue) (old : Group) (s : State) (act : List Nat) : State :=
  if act.isEmpty then s else
  issueFaults (setGrp s x.core x.gslot (restoreLanes old (grp s x.core x.gslot) act)) x old (act.map (fun t => (t, kind, none))) code

def execTrap (x : Issue) (s : State) : Res :=
  issue shNone true true x s (fun s' _ act => raiseLanes 6 (trapCode x.f) x (grp s x.core x.gslot) s' act)

/-- BRK: in a debug context the group halts after it has retired (R61), otherwise it faults (R51). -/
def execBrk (x : Issue) (s : State) : Res :=
  issue shNone true true x s (fun s' _ act =>
    if !(ctx s (grp s x.core x.gslot).ctx).debug then raiseLanes 7 0 x (grp s x.core x.gslot) s' act
    else if act.isEmpty then s'
    else setGrp s' x.core x.gslot { grp s' x.core x.gslot with halted := true, cause := 4 })

def execNop (x : Issue) (s : State) : Res := issue shNone true true x s (fun s _ _ => s)

end Sys2Proof.Machine
end

