-- ==== Sys2Proof/Machine/Reset.lean ====
section
/-! DEFINITION. What each reset level discards and keeps, the erasure of the chip, and the entry to Dormant (R232, R320, R351,
R369, R374 to R382, R385). -/

namespace Sys2Proof.Machine

/-! ## Parts that a reset clears -/

/-- The registers that the island keeps: PWRC_ALARM; and its counter, PWRC_ENERGY (R375). -/
def islandRegs (s : State) : Regs := { Regs.reset with val := SMap.keep (fun k => k == rkey 4 0xA8) s.regs.val }
def islandCtr (s : State) : SMap Nat := SMap.keep (fun k => k == rkey 4 0x90) s.ctr

/-- A reset of a block discards its pending commit: it reads rejected with REASON RESET (R306, R379, R380). -/
def discardCommits (s : State) (pages : Nat → Bool) (r : Regs) : Regs :=
  let l := (presentPages s.sku).filter (fun p => pages p && bit (reg s p 0x28) 0)
  let v := 4 + 9 * 8 + s.time.ft % 2 ^ 48 * 2 ^ 16
  { r with val := l.foldl (fun m p => SMap.put none m (rkey p 0x28) (some (w64 v))) r.val }

/-- The partition of each range of device memory at the moment of the reset: 1 for none, `p` + 2 for `p`; a range whose scrub had not
ended counts as in none (R381). -/
def recordOwners (s : State) : SMap Nat :=
  (upTo 0 1024).foldl (fun m r =>
    if r * 2 ^ 30 < s.sku.memBytes then
      SMap.put 0 m r (if scrubbing s r then 1 else match carve s r with | some p => p + 2 | none => 1)
    else m) []

/-- A partition scrub of the mailbox that a reset interrupts stays recorded until one completes (R320). -/
def interruptedScrubs (s : State) : List (Nat × Nat × Nat) :=
  (s.mem.scrubs.filter (fun x => x.1 == 1 && (x.2.2 == 2 || x.2.2 == 3))).map (fun x => (1, x.2.1, 3))

/-- Device memory with its poison marks outlives the reset; what caches and buffers held is gone (R232, R379). -/
def keptMem (s : State) : Mem :=
  { Mem.empty with hbm := s.mem.hbm, poison := s.mem.poison, owners := recordOwners s, scrubs := interruptedScrubs s, patrol := s.mem.patrol }

/-- Every context reads FREE with last loss CHIP_RESET (R351). -/
def resetBox : Box := { Box.empty with ctxs := (upTo 0 4096).map (fun c => (c, { Ctx.free with lastLoss := 0xB })) }

/-- Counts since cold reset outlive other resets. -/
def keptDbg (d : Dbg) : Dbg := { Dbg.reset with nowin := d.nowin, ce := d.ce }

/-- A partition scrub of the mailbox that the reset interrupts leaves an entry in the log, whose wording is open (R320). -/
def scrubLog (s : State) : List Byte :=
  match s.rm.long with
  | some l => if l.opcode = 0x14 then (upTo 4096 16).map (Config.responseByte s.free) else []
  | none => []

/-- Fuses, flash, the security block's secrets and the counts since cold reset (R320, R364, R365, R375). -/
def keptRm (s : State) : Rm :=
  let r := (logAdd s (scrubLog s)).rm
  { Rm.reset with
    uds := r.uds, udsLocked := r.udsLocked, fuseKey := r.fuseKey, wrapped := r.wrapped, certs := r.certs
    restarts := r.restarts, tdrop := r.tdrop, tskip := r.tskip, imgA := r.imgA, imgB := r.imgB, fused := r.fused, genFuse := r.genFuse
    serial := r.serial, nonce := r.nonce, log := r.log, lastFatal := r.lastFatal, activeNext := r.activeNext
    eraseDue := r.eraseDue || (match r.long with | some l => l.opcode == 0x12 | none => false) }

/-- The fabric keeps the plan stored in flash; the plan in force and every link are gone. -/
def keptFab (s : State) : Fab := { Fab.empty with stored := s.fab.stored }

/-- Fabric time at a warm reset (R380). -/
def warmTime (t : Time) : Time :=
  let st := if t.gm then 2 else if t.st = 2 ∨ t.st = 3 then 3 else 0
  { t with st := st, errest := if st = 0 then 0xFFFF else t.errest, parent := 0, offset := 0, slew := 0, meas := [], good := 0, bad := 0
           ptmFt := 0, ptmHt := 0, ptmSeq := 0, cand := 0, woken := false }

/-- The bits of PWRC_RSTCAUSE (R382). -/
def causeWord (code : Nat) (fatal trip uvlo : Bool) : Nat := code + 16 * fatal.toNat + 32 * trip.toNat + 64 * uvlo.toNat

/-- The live collectives of a chip that resets end on the other members by cancel notices (R291, R379). -/
def leaveColl (s : State) : State := { cancelAll s with coll := Coll.empty }

/-! ## Warm reset (R379, R380, R419) -/

/-- Power and protection: ceilings of comparators stay, those of PWRC's registers return. -/
def warmPow (s : State) (code : Nat) (hold : Bool) : Pow :=
  { s.pow with
    power := .active, svc := if hold then 0 else 1, stage := if hold then .hold else .boot, limCeil := 2100, floor := false, underNs := 0
    hbmDone := false, fabDone := false, failed := [], psState := 0, psResult := 0, psWhy := 0, exitReq := 0, flr := []
    cause := causeWord code s.dbg.fatal false false, links := if code = 2 then [] else s.pow.links
    cfg := if code = 2 then [] else s.pow.cfg, aer := if code = 2 then [] else s.pow.aer }

/-- A warm reset with its cause: the chip goes to start-up step 2, or holds before it while PERST# is low. -/
def warmReset (s : State) (code : Nat) : State :=
  let s := leaveColl s
  alertUpdate { s with
    time := warmTime s.time, mem := keptMem s, regs := discardCommits s (fun _ => true) (islandRegs s), ctr := islandCtr s, cores := [], box := resetBox, streams := []
    tags := [], fab := keptFab s, pow := warmPow s code s.pow.perst, rm := keptRm s, dbg := keptDbg s.dbg }

def execPerstAssert (s : State) : Res :=
  .next (if s.pow.power = .off ∨ s.pow.perst then s
         else
           let s := { s with pow := { s.pow with perst := true } }
           if railsGood s then warmReset s 2 else s)

/-- The rising edge resumes a held start-up at step 2. -/
def execPerstDeassert (s : State) : Res :=
  .next (if s.pow.power = .off then s
         else if s.pow.stage = .hold then { s with pow := { s.pow with perst := false, stage := .boot, svc := 1 } }
         else { s with pow := { s.pow with perst := false } })

/-- PWRC_RSTCTL: only the key in the same write starts the reset; a chip held by PERST# stays held. -/
def rstCtl (s : State) (key : Nat) : State := if key = 0xD9A0 then warmReset s 3 else s
def execWarmReset (fn key : Nat) (s : State) : Res := .next (pageWrite s fn 4 (fun s => rstCtl s key))

/-! ## Function level reset of PF0 (R379, R385) -/

/-- The pages whose registers outlive it: ports. -/
def flrKeeps (key : Nat) : Bool :=
  match blkOf (key / 4096) with | some (.xprt, _) => true | _ => key == rkey 4 0xA8 || key == rkey 4 0x90

/-- Partition resets under way go on (R385). -/
def flrScrubs (s : State) : List (Nat × Nat × Nat) := interruptedScrubs s ++ s.pow.flr.map (fun p => (1, p, 1))

/-- PF0's reset: as warm, but the fabric, fabric time and the Ringmaster's firmware go on. FATAL stays. -/
def pfReset (s : State) : State :=
  let s := leaveColl (exitEvent s 0)
  let keep := fun (p : Nat) => match blkOf p with | some (.xprt, _) => true | _ => false
  let r := keptRm s
  alertUpdate { s with
    mem := { keptMem s with scrubs := flrScrubs s }
    regs := discardCommits s (fun p => !keep p)
      { Regs.reset with val := SMap.keep flrKeeps s.regs.val, raisedI := SMap.keep keep s.regs.raisedI, blk := SMap.keep keep s.regs.blk }
    ctr := SMap.keep flrKeeps s.ctr, cores := [], box := resetBox, streams := [], tags := []
    pow := { s.pow with
      svc := if s.dbg.fatal then 5 else 2, stage := if s.dbg.fatal then s.pow.stage else .service, fabDone := true, limCeil := 2100, floor := false, underNs := 0
      psState := 0, psResult := 0, psWhy := 0, exitReq := 0, cfg := [], aer := [], cause := causeWord 4 s.dbg.fatal false false }
    rm := { r with up := s.rm.up, hb := s.rm.hb, slot := s.rm.slot, fallback := s.rm.fallback, verified := s.rm.verified
                   meas := s.rm.meas, devKey := s.rm.devKey, devCert := s.rm.devCert, tier := s.rm.tier, tierSince := s.rm.tierSince, eid := s.rm.eid, sensors := s.rm.sensors, sampleAt := s.rm.sampleAt, firstDog := s.rm.firstDog }
    dbg := { keptDbg s.dbg with fatal := s.dbg.fatal, fcode := s.dbg.fcode, fcount := s.dbg.fcount, finst := s.dbg.finst
                                ftype := s.dbg.ftype, fft := s.dbg.fft, faddr := s.dbg.faddr } }

/-- The chip is up and takes the reset; a start-up that is not in service restarts nothing. -/
def execPfFlr (s : State) : Res :=
  .next (if s.pow.power == .idle || (s.pow.power == .active && decide (3 ≤ s.pow.svc)) then pfReset s else s)

/-! ## Erasure (R369) -/

/-- The flash part: the cabling plan and the Ringmaster's log. -/
def eraseFlash (s : State) : State :=
  { s with fab := { s.fab with stored := Plan.none }, rm := { s.rm with log := [], lastFatal := [] } }

/-- Zero in all device memory outside the reserved range, in the Loft, the caches, register files and tile memories. -/
def eraseMem (s : State) : State :=
  let clean := fun (k : Core) => { k with
    tmem := [], tpoison := [], l1 := [], icache := [], active := WSet.zero, shadow := WSet.zero
    groups := k.groups.map (fun (g : Nat × Group) => (g.1, { g.2 with vreg := [], ureg := [], vpoison := [], upoison := [] })) }
  { s with
    mem := { s.mem with hbm := SMap.keep (fun a => s.sku.usable ≤ a) s.mem.hbm, poison := SMap.keep (fun k => s.sku.usable ≤ 32 * k) s.mem.poison
                        l2 := [], dir := [], msgs := [], answers := [], putms := [] }
    cores := s.cores.map (fun (p : Nat × Core) => (p.1, clean p.2)) }

/-! ## Dormant and Off (R374 to R377, R425) -/

/-- What is left when the rails are off: the island, flash and fuses. Device memory is lost. -/
def toDormant (s : State) : State :=
  let s := if s.pow.power == .active || s.pow.power == .idle then leaveColl s else s
  alertUpdate { s with
    time := { s.time with st := 0, gm := false, errest := 0xFFFF, parent := 0, hops := 0, offset := 0, slew := 0, meas := [], good := 0, bad := 0
                          ptmFt := 0, ptmHt := 0, ptmSeq := 0, cand := 0, xtal := 0, woken := false }
    mem := { Mem.empty with scrubs := interruptedScrubs s }, regs := islandRegs s, ctr := islandCtr s, cores := [], box := resetBox, streams := [], tags := [], fab := keptFab s
    rm := keptRm s, dbg := keptDbg s.dbg
    pow := { s.pow with
      power := .dormant, svc := 0, stage := .none, jctCeil := 2100, curCeil := false, inlCeil := false, uvCeil := false, limCeil := 2100
      floor := false, underNs := 0, inPower := 0, hotJct := 0, hbmDone := false, fabDone := false, failed := [], psState := 0
      psResult := 0, psWhy := 0, exitReq := 0, links := [], cfg := [], aer := [], flr := [] } }

/-- The rails are on. -/
def railsOn (s : State) : Bool := s.pow.power == .active || s.pow.power == .idle

/-- The rails start when PWR_EN is asserted, the 52 V comparator reads enough, the inlet comparator is clear and no trip is latched
(R375): start-up step 1. The first start after Off is a cold reset. -/
def tryStart (s : State) : State :=
  let p := s.pow
  if p.power = .dormant ∧ p.pwrEn ∧ p.in52 ∧ !p.inletHot ∧ !p.trip then
    { s with
      box := if p.coldNext then Box.empty else resetBox
      pow := { p with power := .active, svc := 0, stage := .rails, coldNext := false, tripped := false, uvlo := false
                      cause := causeWord (if p.coldNext then 0 else 1) false p.tripped p.uvlo } }
  else s

end Sys2Proof.Machine
end

