-- ==== Sys2Proof/Machine/Power.lean ====
section
/-! DEFINITION. Pins and supplies, protection in hardware, the power limiter, start-up, Idle, the wake alarm, the host link, ALERT#
(R294, R314, R357 to R367, R374 to R378, R383, R418 to R425). -/

namespace Sys2Proof.Machine

/-! ## 3.3 V_AUX (R374, R420, R425) -/

/-- What outlives the loss of 3.3 V_AUX: fuses and flash, and the levels that the host and the supplies drive. -/
def coldState (s : State) : State :=
  let r := keptRm s
  let p := s.pow
  { State.reset with
    pending := s.pending, free := s.free, mem := { State.reset.mem with scrubs := interruptedScrubs s }, sku := s.sku, out := s.out, fab := keptFab s
    rm := { r with restarts := 0, tdrop := 0, tskip := 0, nonce := 0, udsLocked := false }
    pow := { Pow.reset with pwrEn := p.pwrEn, in52 := p.in52, pShort := p.pShort, overV := p.overV, perst := p.perst
                            bmcLimit := s.sku.maxPower, linkMode := p.modeFlash, modeFlash := p.modeFlash } }

def execAuxPowerLoss (s : State) : Res :=
  .next (if s.pow.power = .off then s else let s := coldState s; { s with pow := { s.pow with power := .off } })

/-- The island starts: straps sampled, a new nonce, Dormant; a PWR_EN that already stands is honoured (R430). -/
def auxOn (s : State) (straps : Nat) (perst : Bool) : State :=
  let s := coldState s
  tryStart (useFree { s with rm := { s.rm with nonce := Config.nonce s.free }, pow := { s.pow with straps := straps % 4, perst := perst } })
def execAuxPowerOn (straps : Nat) (perst : Bool) (s : State) : Res := .next (if s.pow.power = .off then auxOn s straps perst else s)

/-! ## PWR_EN and 52 V (R374 to R376, R423, R424) -/

/-- PWR_EN releases WAKE# and starts the rails where the other conditions hold. -/
def execPwrEnAssert (s : State) : Res := .next (tryStart { s with pow := { s.pow with pwrEn := true, wakeN := false } })

def execPwrEnDeassert (s : State) : Res :=
  let s := { s with pow := { s.pow with pwrEn := false } }
  .next (if railsOn s then toDormant s else s)

/-- 52 V is gone: with the rails on, the module enters Dormant, and the next start records it. -/
def lose52 (s : State) : State :=
  let s' := { s with pow := { s.pow with in52 := false, uvlo := s.pow.uvlo || railsOn s } }
  if railsOn s then toDormant s' else s'
def execLossOf52v (s : State) : Res := .next (lose52 s)
def execPShortBreak (s : State) : Res := .next (lose52 { s with pow := { s.pow with pShort := true } })
def execInputOvervoltage (s : State) : Res := .next (lose52 { s with pow := { s.pow with overV := true } })
def execInput52vPresent (s : State) : Res :=
  .next (tryStart { s with pow := { s.pow with in52 := true, pShort := false, overV := false } })

/-! ## Comparators (R357, R376, R377) -/

/-- THERMTRIP#: the latch, and every rail off. -/
def thermtrip (s : State) : State :=
  if railsOn s then toDormant { s with pow := { s.pow with trip := true, tripped := true } } else s
def execThermtrip (s : State) : Res := .next (thermtrip s)

/-- The latch clears after PWR_EN has been deasserted with the inlet at 46 °C or less; so does the inlet comparator. -/
def execThermtripRelease (temp : Nat) (s : State) : Res :=
  .next (if s.pow.power ≠ .off ∧ s.pow.trip ∧ !s.pow.pwrEn ∧ temp ≤ 46
         then alertUpdate { s with pow := { s.pow with trip := false, inletHot := false, inletC := temp } } else s)

/-- One 25 MHz step of a ceiling. -/
def stepDown (c : Nat) : Nat := max 800 (c - 25)
def stepUp (c : Nat) : Nat := min 2100 (c + 25)

/-- A junction reading: a trip, or a step of the ceiling. -/
def junction (s : State) (temp : Nat) : State :=
  if 115 ≤ temp then thermtrip s else
  repower s (fun s => { s with pow := { s.pow with
    hotJct := temp, jctCeil := if 105 ≤ temp then stepDown s.pow.jctCeil else if temp ≤ 102 then stepUp s.pow.jctCeil else s.pow.jctCeil } })
def execJunctionComparator (temp : Nat) (s : State) : Res := .next (if railsOn s then junction s temp else s)

def execOvercurrent (s : State) : Res :=
  .next (if railsOn s then repower s (fun s => { s with pow := { s.pow with curCeil := true } }) else s)
def execOvercurrentRelease (s : State) : Res :=
  .next (if railsOn s then repower s (fun s => { s with pow := { s.pow with curCeil := false } }) else s)
def execUndervoltage (s : State) : Res :=
  .next (if railsOn s then repower s (fun s => { s with pow := { s.pow with uvCeil := true } }) else s)
def execUndervoltageRelease (s : State) : Res :=
  .next (if railsOn s then repower s (fun s => { s with pow := { s.pow with uvCeil := false } }) else s)

/-- An inlet reading: the island's comparator sets above 48 °C and clears at 46 °C; with the rails on, the ceiling sets above 48 °C and
clears below 46 °C, and 55 °C trips. -/
def inlet (s : State) (temp : Nat) : State :=
  let hot := if 48 < temp then true else if temp ≤ 46 then false else s.pow.inletHot
  let s := { s with pow := { s.pow with inletHot := hot, inletC := temp } }
  if !railsOn s then tryStart (alertUpdate s)
  else if 55 ≤ temp then thermtrip s
  else repower s (fun s => { s with pow := { s.pow with
    inlCeil := if 48 < temp then true else if temp < 46 then false else s.pow.inlCeil } })
def execInletOvertemp (temp : Nat) (s : State) : Res := .next (if s.pow.power = .off then s else inlet s temp)

/-! ## The power limiter (R362, R363) -/

/-- One evaluation with the mean input power of the last 100 µs, which PWRC_ENERGY takes up. -/
def limiter (s : State) (mean : Nat) : State :=
  let s := setCtr s (rkey 4 0x90) (ctr s (rkey 4 0x90) + mean)
  let lim := limitW s
  repower s (fun s =>
    let p := s.pow
    let low := decide (clockMhz s = 800)
    if lim < mean then { s with pow := { p with inPower := mean, limCeil := stepDown p.limCeil, floor := low, underNs := 0 } }
    else if mean + 50 < lim then
      (if p.underNs + 100000 < 1000000 then { s with pow := { p with inPower := mean, floor := false, underNs := p.underNs + 100000 } }
       else { s with pow := { p with inPower := mean, floor := false, underNs := 0, limCeil := stepUp p.limCeil } })
    else { s with pow := { p with inPower := mean, floor := false, underNs := 0 } })
def execLimiterEvaluation (mean : Nat) (s : State) : Res := .next (if railsGood s then limiter s mean else s)

/-! ## Start-up (R366, R367, R378) -/

def execRailsGood (s : State) : Res :=
  .next (if s.pow.power = .active ∧ s.pow.stage = .rails then { s with pow := { s.pow with stage := .boot, svc := 1 } } else s)

/-- Image `i` (0 A, 1 B). -/
def imageAt (s : State) (i : Nat) : Image := if i = 0 then s.rm.imgA else s.rm.imgB

/-- The boot ROM may take the image; and it verifies. -/
def imageFits (i : Image) : Bool := i.valid && decide (i.rmLen ≤ 6 * 2 ^ 20) && decide (i.svn ≤ 64)
def imageGood (s : State) (i : Nat) : Bool :=
  imageFits (imageAt s i) && (imageAt s i).sigOk && decide (s.rm.fused ≤ (imageAt s i).svn)

/-- The image tried first: the higher sequence number of those that fit; between equals the one marked active. -/
def firstImage (s : State) : Option Nat :=
  let a := s.rm.imgA
  let b := s.rm.imgB
  if imageFits a ∧ imageFits b then some (if a.seqNo = b.seqNo then s.rm.activeNext else if b.seqNo < a.seqNo then 0 else 1)
  else if imageFits a then some 0 else if imageFits b then some 1 else none

/-- The content of measurement index 4: F, image slot, FALLBACK and scope, in the places of SECU_BOOTSTAT (R372). -/
def measured4 (s : State) : State :=
  let r := s.rm
  let v := r.slot % 2 + 2 * r.fallback.toNat + r.fused % 128 * 2 ^ 16 + r.scope % 8 * 2 ^ 24
  { s with rm := { r with meas := SMap.put 0 r.meas 4 (BitVec.ofNat 256 v) } }

/-- The security block measures the Ringmaster part of the running image, derives the alias pair from the unique device secret and that
measurement, and issues the alias certificate with the identity pair; the secret is then unreadable until cold reset (R365). -/
def deriveKey (s : State) : State :=
  let m := (imageNow s).rmDigest
  let k := Key.derived s.rm.uds m
  { s with rm := { s.rm with
    meas := SMap.put 0 s.rm.meas 2 m, devKey := some k
    devCert := some { subject := k, signer := s.rm.wrapped.key, binds := some m }, udsLocked := true } }

/-- The image `i` runs: verified, measured, its key derived (R366 steps 2 and 3). -/
def runImage (s : State) (i : Nat) (fb : Bool) : State :=
  measured4 (deriveKey { s with rm := { s.rm with slot := i, fallback := fb, verified := true } })
def booted (s : State) (i : Nat) (fb : Bool) : State := { runImage s i fb with pow := { s.pow with stage := .secondary } }

/-- Steps 1 to 3 of the boot chain. With no image that verifies, the chip stays in BOOT. -/
def boot (s : State) : State :=
  match firstImage s with
  | none => s
  | some i =>
    if imageGood s i then booted s i false
    else if imageGood s (1 - i) then booted s (1 - i) true
    else { s with rm := { s.rm with fallback := true } }
def booting (s : State) (st : Stage) (svc : Nat) : Bool := s.pow.power == .active && s.pow.stage == st && s.pow.svc == svc
def execBootVerified (s : State) : Res := .next (if booting s .boot 1 then boot s else s)

/-- Pages of the HBM controllers and the ports that are fitted. -/
def hbmcPages (k : Sku) : List Nat := (presentPages k).filter (fun p => match blkOf p with | some (.hbmc, _) => true | _ => false)
def xprtPages (k : Sku) : List Nat := (presentPages k).filter (fun p => match blkOf p with | some (.xprt, _) => true | _ => false)

/-- Steps 3 to 6 begin: memory and ports initialise, the plan in flash is loaded, every port trains. An interrupted erasure resumes. -/
def train (s : State) : State :=
  let s := { s with rm := { s.rm with up := true, meas := SMap.put 0 s.rm.meas 3 (imageNow s).secDigest }, pow := { s.pow with svc := 2, stage := .service } }
  let s := if s.rm.eraseDue then eraseFlash s else s
  let s := (hbmcPages s.sku ++ xprtPages s.sku).foldl (fun s p => setBlkState s p 2) s
  let s := if s.pow.cause % 16 = 1 then setFtState { s with time := { s.time with woken := true } } 1 else s
  if s.fab.stored.chip = 0xFFFF then (upTo 0 32).foldl (fun s n => if s.sku.port n then setRig (trainPort s n) n 3 else s) s
  else applyPlan (trainAll s) s.fab.stored
def execSecondaryFirmwareLoaded (s : State) : Res :=
  .next (if booting s .secondary 1 then (if (imageNow s).secOk then train s else logOpen s) else s)

/-- Step 5 ends; a controller that failed reads FAILED, and the start-up goes no further. A number 16 + p of the operand says that the block
of page p will fail its initialisation (R441), for which the table has no row (DESIGN CHOICE, assumption 135). -/
def execHbmTrainingComplete (failed : List Nat) (s : State) : Res :=
  .next (if booting s .service 2 && !s.pow.hbmDone then
    (let bad := (upTo 0 16).filter (fun h => s.sku.hbmc h && failed.contains h)
     let s := (hbmcPages s.sku).foldl (fun s p =>
       setBlkState s p (if bad.any (fun h => p == 0x408 + 0x40 * (h / 4) + h % 4) then 6 else 3)) s
     { s with pow := { s.pow with hbmDone := bad.isEmpty, failed := (failed.filter (fun x => decide (16 ≤ x))).map (fun x => x - 16) } }) else s)

/-- A second of training has passed: a port that still trains is DARK. -/
def execFabricTrainingTimeout (s : State) : Res :=
  .next (if booting s .service 2 then
    (let s := (upTo 0 32).foldl (fun s n => if s.sku.port n && (port s n).lstate == 1 then dropLink (setRig s n 4) n 0 else s) s
     { s with pow := { s.pow with fabDone := true } }) else s)

/-- Step 7 on one page: EN, READY (FAILED where its initialisation failed), and the partition of BOXO and DBUG pages (R435). -/
def enableBlock (s : State) (p : Nat) : State :=
  let s := setField s p 8 0 0 1
  let s := if blkState s p = 6 then s else setBlkState s p (if s.pow.failed.contains p then 6 else 3)
  match blkOf p with
  | some (.boxo, n) | some (.dbug, n) => setReg s p 0x30 (n - 1)
  | _ => s

/-- Steps 7 and 8: an erasure that was interrupted ends first; CACHE_MODE = 1; SVN is fused. -/
def enterService (s : State) : State :=
  let s := if s.rm.eraseDue then let s := eraseMem s; { s with rm := { s.rm with eraseDue := false } } else s
  let s := (presentPages s.sku).foldl enableBlock s
  let s := commit (setShadow s 7 0x80 1) 7
  let s := { s with pow := { s.pow with svc := 3, stage := .none }, rm := { s.rm with fused := max s.rm.fused (imageNow s).svn } }
  measured4 s
def execServiceEntry (s : State) : Res :=
  .next (if booting s .service 2 && s.pow.hbmDone && fabricDone s then enterService s else s)

/-! ## Idle (R383 to R385) -/

/-- A command of the queue runs or may start, or a packet waits to be fetched. -/
def queueWorks (s : State) (x : Queue) : Bool :=
  x.cmds.any Cmd.isRunning
    || ((ctx s x.ctx).st == 1 && (x.fetches || (match x.cmds.find? Cmd.isWaiting with
        | some c => gateOpen s c && (!pkTimed c.bytes || c.fired || decide (leAt c.bytes 56 8 ≤ s.time.ft))
        | none => false)))

/-- Why a request is refused: 2 work, 3 a long operation, 4 a core in test; 0 when it is not. -/
def idleRefusal (s : State) : Nat :=
  if s.box.queues.any (fun (x : Nat × Queue) => queueWorks s x.2) || s.streams.any (fun (x : Nat × Stream) => x.2.live) || !s.coll.live.isEmpty
  then 2
  else if s.rm.long.isSome then 3
  else if (upTo 0 144).any (fun c => s.sku.core c && blkState s (pgCore c) == 7) then 4 else 0

/-- A write of PWRC_PSCTL. -/
def psCtl (s : State) (req : Nat) : State :=
  if 2 ≤ req then s else
  let s := setField s 4 0x9C 1 0 req
  if req = 0 then exitEvent s 1
  else if s.pow.power = .active ∧ s.pow.svc = 3 ∧ s.pow.psState = 0 then
    (let r := idleRefusal s
     { s with pow := { s.pow with psState := if r = 0 then 1 else 0, psResult := if r = 0 then s.pow.psResult else r } })
  else s
def execIdleRequest (fn req : Nat) (s : State) : Res := .next (pageWrite s fn 4 (fun s => psCtl s (req % 4)))

/-- Every dirty sector of L1s, messages and L2 goes to the stacks; the caches and the directory are empty. -/
def writeBackAll (s : State) : State :=
  let s := (s.mem.putms ++ s.mem.answers).foldl takeDirty s
  let s := s.cores.foldl (fun (s : State) (k : Nat × Core) => k.2.l1.foldl (fun (s : State) (x : Nat × L1Line) =>
    let l := x.2
    let s := takeDirty s { core := k.1, line := l.line, copy := true, valid := l.valid, dirty := l.dirty, poison := l.poison, data := l.data, seq := 0 }
    setCore s k.1 { core s k.1 with l1 := [] }) s) s
  let s := s.mem.l2.foldl (fun (s : State) (x : Nat × L2Line) => l2Clean s x.2) s
  { s with mem := { s.mem with l2 := [], dir := [], msgs := [], answers := [], putms := [] } }

/-- Every port goes down and the clock holds over when it was LOCKED. -/
def portsAsleep (s : State) : State :=
  let s := (upTo 0 32).foldl (fun s n => if s.sku.port n then dropLink s n 0 else s) s
  if s.time.st == 2 then setFtState { s with time := { s.time with gm := false } } 3 else s
def idleMarks (s : State) : State :=
  { s with pow := { s.pow with power := .idle, svc := 4, psState := 2, psResult := 1 } }
/-- An exit event that came during the entry acts at once. -/
def exitIfAsked (s : State) : State := if s.pow.exitReq == 0 then s else leaveIdle s s.pow.exitReq
/-- Entry ends: caches written back, ports down, FT in HOLDOVER when it was LOCKED; a waiting exit event acts at once. -/
def enterIdle (s : State) : State := exitIfAsked (idleMarks (portsAsleep (writeBackAll s)))

/-- No access of a thread and no message of the directory is under way. -/
def drained (s : State) : Bool :=
  s.mem.waiting.all (fun (x : Nat × List (Nat × Req)) => x.2.isEmpty) && s.mem.dir.all (fun (x : Nat × DirEnt) => x.2.busy.isNone)
    && s.cores.all (fun (k : Nat × Core) => k.2.groups.all (fun (g : Nat × Group) => !g.2.occ || (g.2.sb.isEmpty && g.2.accs.isEmpty)))
def execIdleEntryComplete (s : State) : Res :=
  .next (if s.pow.power = .active ∧ s.pow.psState = 1 ∧ !s.dbg.fatal ∧ drained s then enterIdle s else s)

/-! ## The FT alarm (R376) -/

def alarmAct (s : State) : State :=
  let s := setReg s 4 0xA8 0
  match s.pow.power with
  | .dormant => { s with pow := { s.pow with wakeN := true } }
  | .idle => exitEvent s 6
  | .active => exitEvent (raiseErr s 4 256) 6
  | .off => s
/-- The alarm's instant has come; instants wait under the Curtain (R397). -/
def alarmDue (s : State) : Bool := reg s 4 0xA8 != 0 && decide (reg s 4 0xA8 ≤ s.time.ft) && !s.dbg.raised
def execFtAlarm (s : State) : Res := .next (if alarmDue s && mayFire s (reg s 4 0xA8) 7 && s.pow.power != .off then alarmAct s else s)

/-! ## The host link and configuration requests (R294 to R297, R314, R378) -/

/-- Ports of the link mode in force. -/
def hostPorts (s : State) : Nat := if s.pow.linkMode = 1 then 2 else 1

/-- The rates and widths that a port can have; 64 GT/s takes FLIT mode (R294). -/
def linkFits (s : State) (rate width : Nat) (flit : Bool) : Bool :=
  (flit || rate != 6) && decide (1 ≤ rate) && decide (rate ≤ 6) && [1, 2, 4, 8, 16].contains width && (s.pow.linkMode != 1 || decide (width ≤ 8))
def execHostLinkTrained (n rate width : Nat) (flit : Bool) (s : State) : Res :=
  .next (if railsGood s && !s.pow.perst && decide (n < hostPorts s) && linkFits s rate width flit
         then { s with pow := { s.pow with links := SMap.put (0, 0, false) s.pow.links n (rate, width, flit) } } else s)

/-- A tile-mover command that waits for host bytes faults at the first of them; which words a TM.GET has written is open (R440). -/
def tmHostFault (s : State) (c : Nat) (r : TmRun) : State :=
  let k := r.cmd
  let row := tmRow k.c.toNat
  let at' := k.skip + (match r.host with | [] => 0 | x :: _ => x.1)
  let addr := k.b.toNat + at' / row * tmStride k.c.toNat + at' % row
  let l := (spots s (grp s c k.gslot).ctx false (tmPieces k)).filter (fun q => match q.2 with | .mem _ => true | _ => false)
  tmFault (getPartial s c k l) c k 1 addr

/-- Outstanding loads from HOST pages of the port's partitions fault; so do tile-mover commands that wait for host bytes. -/
def hostLost (s : State) (n : Nat) : State :=
  let s := s.cores.foldl (fun (s : State) (k : Nat × Core) => k.2.groups.foldl (fun (s : State) (g : Nat × Group) =>
    if hostPort s ((ctx s g.2.ctx).part) = n then
      g.2.accs.foldl (fun (s : State) (a : Acc) => match a.dest with
        | .host _ => (match accAt s k.1 g.1 a.id with | some b => lateFault s k.1 g.1 b 1 | none => s)
        | _ => s) s
    else s) s) s
  s.cores.foldl (fun (s : State) (k : Nat × Core) =>
    match (core s k.1).tmRun with
    | some r => if !r.host.isEmpty && hostPort s (ctx s (grp s k.1 r.cmd.gslot).ctx).part == n then tmHostFault s k.1 r else s
    | none => s) s

def execHostLinkDown (n : Nat) (s : State) : Res :=
  .next (if linkUp s n then
    hostLost (note (raiseErr { s with pow := { s.pow with links := SMap.put (0, 0, false) s.pow.links n (0, 0, false) } } 6 8) 13 n 0 0x11
      none none 0 0) n else s)

/-- The Ringmaster has marked the port ready, and no reset of PF0 runs. -/
def cfgReady (s : State) : Bool :=
  s.pow.power == .idle || (s.pow.power == .active && (decide (3 ≤ s.pow.svc) || (s.pow.svc == 2 && s.pow.cause % 16 != 4)))

/-- Configuration words: 0 device ID, 1 class code, 2 subsystem ID, 6 an uncorrectable error reported through AER, 10 the number of virtual
functions, 11 that of MSI-X vectors; and the settings (R296 to R298). -/
def cfgWord (s : State) (fn what : Nat) : Option Nat :=
  if what = 0 then some (if fn = 0 then 0x0D20 else if fn = 9 then 0x0D22 else 0x0D21)
  else if what = 1 then some 0x120000 else if what = 2 then some s.sku.code
  else if what = 6 then some (min 1 (SMap.get 0 s.pow.aer (fnPort s fn)))
  else if what = 10 ∧ (fn = 0 ∨ fn = 9) then some (if s.pow.linkMode = 1 then 4 else 8)
  else if what = 11 then some (if fn = 0 ∨ fn = 9 then 2048 else 256)
  else if cfgHas fn what then some (cfgVal s fn what) else none
def cfgFn (s : State) (fn : Nat) : Bool := decide (fn < 9) || (fn == 9 && s.pow.linkMode == 1)

/-- A configuration write: a setting takes a value it supports; 1 clears the AER status. -/
def cfgWrite (s : State) (fn what v : Nat) : State :=
  if what = 6 ∧ v % 2 = 1 then { s with pow := { s.pow with aer := SMap.put 0 s.pow.aer (fnPort s fn) 0 } }
  else if cfgHas fn what ∧ v ≤ cfgMax what then { s with pow := { s.pow with cfg := SMap.put none s.pow.cfg (16 * fn + what) (some v) } }
  else s
def execConfigRequest (fn : Nat) (a : CfgAcc) (s : State) : Res :=
  .next (if !(railsGood s && cfgFn s fn && linkUp s (fnPort s fn)) then s
         else if !cfgReady s then emit s .cfgRetry
         else match a.write with
           | some v => emit (cfgWrite s fn a.what v) .cfgDone
           | none => match cfgWord s fn a.what with | some v => emit s (.cfgValue v) | none => emit s .cfgDone)

/-! ## ALERT# (R420, R421) -/

/-- The SMBus address that the straps select. -/
def smbusAddr (s : State) : Nat := 0x4C + s.pow.straps % 4

/-- The answer to the Alert Response Address; an answer that wins the arbitration releases ALERT#. -/
def alertAnswer (s : State) (won : Bool) : State :=
  let s := emit s (.smbus [BitVec.ofNat 8 (smbusAddr s)])
  if won then { s with pow := { s.pow with alertN := false, alertAck := alertCond s } } else s
def execSmbusAlertResponse (won : Bool) (s : State) : Res := .next (if s.pow.power ≠ .off ∧ s.pow.alertN then alertAnswer s won else s)

end Sys2Proof.Machine
end

