-- ==== Sys2Proof/Machine/Mailbox.lean ====
section
/-! DEFINITION. The mailbox: submission, refusals, the short commands, and the long operations (R244, R263, R264, R315 to R320, R363,
R368, R369, R410 to R412). -/

namespace Sys2Proof.Machine

/-! ## Commands and results -/

/-- Opcodes of the long commands, of all commands, and those that need device memory (R317, R384). -/
def mbxLong (op : Nat) : Bool := decide (0x10 ≤ op) && decide (op ≤ 0x14)
def mbxKnown (op : Nat) : Bool := (decide (1 ≤ op) && decide (op ≤ 4)) || mbxLong op

/-- Channel 1 may issue the short commands and SECURE_ERASE. -/
def mbxMay (chan op : Nat) : Bool := chan == 0 || decide (op ≤ 4) || op == 0x12

/-- Open bytes of an answer whose layout the manual does not give. -/
def openBytes (s : State) (lo n : Nat) : List Byte := (upTo lo n).map (Config.responseByte s.free)

/-- Write bytes to 4-byte registers of a page. -/
def putRegs (page off : Nat) (d : List Byte) (s : State) : State :=
  (upTo 0 ((d.length + 3) / 4)).foldl (fun s i => setReg s page (off + 4 * i) (leAt d (4 * i) 4)) s

/-- Post a result: on channel 0 into the page, with DONE; on channel 1 as a response. Unused response data keep what they held. -/
def postMbx (s : State) (chan seq status detail retry : Nat) (data : List Byte) : State :=
  if chan = 0 then
    let s := setReg s 1 0x88 (status + detail % 256 * 2 ^ 8 + 2 ^ 17 + bits (reg s 1 0x88) 18 18 * 2 ^ 18)
    let s := if status = 0xD then setReg s 1 0x8C retry else s
    raiseErr (putRegs 1 0x800 (data.take 2048) (setReg s 1 0x94 seq)) 1 1
  else emit s (.bmc (toLE 1 status ++ toLE 1 detail ++ toLE 2 seq ++ toLE 4 retry ++ data.take 2048))

/-- The Ringmaster's estimate of the time left in µs, in whole milliseconds; open (R318). -/
def retryAfter (s : State) : Nat := (freshNat s 5 % 4294967 + 1) * 1000

/-- The chip serves every command: in service, and in Idle. -/
def mbxServes (s : State) : Bool := s.pow.power == .idle || (s.pow.power == .active && s.pow.svc == 3)

/-- Work of tier 1 or 2 is ready, so that tier 3 waits (R354); and has been for more than 10 ms (R318). -/
def tierHeld (s : State) : Bool := s.rm.tier == 1 || s.rm.tier == 2
def overloaded (s : State) : Bool := tierHeld s && decide (s.rm.tierSince + 10 ^ 7 < s.time.ft)

/-- Why a command is refused: its status and detail. -/
def mbxRefusal (s : State) (chan op : Nat) : Option (Nat × Nat) :=
  if s.rm.long.isSome then some (0xD, 1)
  else if overloaded s then some (0xD, 2)
  else if !mbxKnown op then some (0xC, 1)
  else if !mbxMay chan op then some (0xC, 2)
  else if !mbxServes s && !(decide (op ≤ 4) || op == 0x10) then some (0xD, 1)
  else none

def mbxCmd (s : State) (chan : Nat) : Option (Nat × Nat × List Byte) := if chan = 0 then s.rm.cmd0 else s.rm.cmd1
def setMbxCmd (s : State) (chan : Nat) (c : Option (Nat × Nat × List Byte)) : State :=
  if chan = 0 then { s with rm := { s.rm with cmd0 := c } } else { s with rm := { s.rm with cmd1 := c } }

/-- A command arrives on a channel. While the firmware is down the channel holds it (R356). One that needs device memory ends Idle. -/
def mbxSubmit (s : State) (chan op seq : Nat) (args : List Byte) : State :=
  if !s.rm.up then setMbxCmd s chan (some (op, seq, args))
  else match mbxRefusal s chan op with
    | some (st, d) => useFree (postMbx s chan seq st d (if st = 0xD then (if d = 2 then 10000 else retryAfter s) else 0) [])
    | none => setMbxCmd (if mbxLong op then exitEvent s 5 else s) chan (some (op, seq, args))

/-- RMST_MBX_GO: the registers of the page are the command; a GO while PENDING sets OVR. -/
def mailboxGo (s : State) : State :=
  let st := reg s 1 0x88
  if bit st 16 then setReg s 1 0x88 (st ||| 2 ^ 18)
  else
    let c := reg s 1 0x80
    mbxSubmit (setReg s 1 0x88 (st ||| 2 ^ 16)) 0 (c % 65536) (c / 65536) ((upTo 0 256).flatMap (fun i => toLE 4 (reg s 1 (0x400 + 4 * i))))
def execMailboxGo (fn : Nat) (s : State) : Res := .next (pageWrite s fn 1 mailboxGo)

/-- A request of the BMC; the channel holds one at a time. -/
def execMctpRequest (opcode seq : Nat) (args : List Byte) (s : State) : Res :=
  .next (if pagesUp s && s.rm.cmd1.isNone then mbxSubmit s 1 (opcode % 65536) (seq % 65536) args else s)

/-- The Ringmaster takes the channel's command of this opcode, while no work of tiers 1 and 2 is ready: the channels in turn where both hold one (R319). -/
def mbxTurn (s : State) (chan op : Nat) : Option (Nat × List Byte) :=
  match mbxCmd s chan with
  | some (o, seq, args) =>
    if s.rm.up && !tierHeld s && s.rm.long.isNone && o == op && pagesUp s && decide (chan < 2)
        && ((mbxCmd s (1 - chan)).isNone || s.rm.lastChan != chan) then some (seq, args) else none
  | none => none

/-- The channel's command is taken. -/
def mbxTake (s : State) (chan : Nat) : State := let s := setMbxCmd s chan none; { s with rm := { s.rm with lastChan := chan } }

/-- A short command: `f` gives status, detail, data and the new state. -/
def mbxShort (s : State) (chan op : Nat) (f : State → List Byte → State × Nat × Nat × List Byte) : State :=
  match mbxTurn s chan op with
  | none => s
  | some (seq, args) =>
    let r := f (mbxTake s chan) args
    useFree (postMbx r.1 chan seq r.2.1 r.2.2.1 0 r.2.2.2)

/-- A long command: refused with a detail, or begun with `f`; the other channel's command is then refused. -/
def mbxBegin (s : State) (chan op : Nat) (image : Image) (plan : Option Plan) (no : State → List Byte → Option Nat)
    (f : State → List Byte → State) : State :=
  match mbxTurn s chan op with
  | none => s
  | some (seq, args) =>
    let s := mbxTake s chan
    match no s args with
    | some d => useFree (postMbx s chan seq 0xC d 0 [])
    | none =>
      let l : LongOp := { opcode := op, chan := chan, seq := seq, args := args, prog := 0, image := image, plan := plan }
      let s := f { s with rm := { s.rm with long := some l } } args
      match mbxCmd s (1 - chan) with
      | some (_, q, _) => useFree (postMbx (setMbxCmd s (1 - chan) none) (1 - chan) q 0xD 1 (retryAfter s) [])
      | none => s

/-! ## Short commands (R317, R363) -/

/-- Part number, serial, stepping, and sequence number and SVN of the running image and of the other. Their places are the model's, and
further bytes are open (assumption 129). -/
def infoBytes (s : State) : List Byte :=
  let v := fun (i : Image) => toLE 8 i.seqNo ++ toLE 4 i.svn
  toLE 2 s.sku.code ++ toLE 2 0x00B0 ++ toLE 8 s.rm.serial.toNat ++ v (imageNow s) ++ v (imageAt s (1 - s.rm.slot)) ++ openBytes s 36 28
def execGetInfo (chan : Nat) (s : State) : Res := .next (mbxShort s chan 1 (fun s _ => (s, 0, 0, infoBytes s)))

/-- Error counts by class (corrected errors, contexts lost in the eight partitions, chip-fatal errors), and the record that the log keeps.
Their places are the model's, and further bytes are open (assumption 129). -/
def healthBytes (s : State) : List Byte :=
  let ce := s.dbg.ce.foldl (fun n (x : Nat × Nat) => n + x.2) 0
  let lost := (upTo 0 8).foldl (fun n p => n + ctr s (rkey (pgDbug p) 0xE0)) 0
  toLE 8 ce ++ toLE 8 lost ++ toLE 8 s.dbg.fcount ++ openBytes s 24 16 ++ (s.rm.lastFatal ++ List.replicate 24 0).take 24
def execGetHealth (chan : Nat) (s : State) : Res := .next (mbxShort s chan 2 (fun s _ => (s, 0, 0, healthBytes s)))

/-- The 2 KiB of the log from an offset: the entries that the rules of the manual make, and open bytes beyond them. -/
def logFrom (s : State) (off : Nat) : List Byte :=
  let l := (s.rm.log.drop off).take 2048
  l ++ openBytes s l.length (2048 - l.length)
def execGetLog (chan : Nat) (s : State) : Res := .next (mbxShort s chan 3 (fun s a => (s, 0, 0, logFrom s (leAt a 0 4))))

def powerLimit (s : State) (args : List Byte) : State × Nat × Nat × List Byte :=
  let w := leAt args 0 2
  if 800 ≤ w ∧ w ≤ s.sku.maxPower then ({ s with pow := { s.pow with bmcLimit := w } }, 0, 0, []) else (s, 0xC, 4, [])
def execSetPowerLimit (chan : Nat) (s : State) : Res := .next (mbxShort s chan 4 powerLimit)

/-! ## Long commands begin -/

/-- Some context is not FREE; some context of a partition is not. -/
def anyCtx (s : State) : Bool := s.box.ctxs.any (fun (x : Nat × Ctx) => x.2.st != 0)

def execLoadPlan (plan : Option Plan) (s : State) : Res :=
  .next (mbxBegin s 0 0x10 Image.none plan (fun _ _ => none) (fun s _ => s))

/-- The image that does not run, and its replacement. -/
def inactive (s : State) : Nat := 1 - s.rm.slot
def setImage (s : State) (i : Nat) (x : Image) : State :=
  if i = 0 then { s with rm := { s.rm with imgA := x } } else { s with rm := { s.rm with imgB := x } }

/-- The inactive image is invalid from the first write of an update on. -/
def execFwUpdate (image : Image) (s : State) : Res :=
  .next (mbxBegin s 0 0x11 image none (fun _ _ => none) (fun s _ => setImage s (inactive s) Image.none))

def execSecureErase (chan : Nat) (s : State) : Res :=
  .next (mbxBegin s chan 0x12 Image.none none (fun s _ => if anyCtx s then some 3 else none) (fun s _ => s))

/-- A commit of CACHE_MODE. -/
def cacheMode (s : State) (v : Nat) : State := commit (setShadow s 7 0x80 v) 7

/-- The core that SELF_TEST names; 0xFFFF names all of device memory. -/
def testCore (args : List Byte) : Nat := leAt args 0 2
def testRefusal (s : State) (args : List Byte) : Option Nat :=
  if testCore args = 0xFFFF then (if anyCtx s then some 3 else none) else if s.sku.core (testCore args) then none else some 4
/-- An in-field test commits CACHE_MODE 0 first, and 1 again at its end (R164). -/
def testBegin (s : State) (args : List Byte) : State :=
  let s := cacheMode s 0
  if testCore args = 0xFFFF then s else setBlkState s (pgCore (testCore args)) 7
def execSelfTest (chan : Nat) (s : State) : Res := .next (mbxBegin s chan 0x13 Image.none none testRefusal testBegin)

/-- SCRUB_PARTITION: a number that is no partition is refused with an open detail. -/
def scrubRefusal (s : State) (args : List Byte) : Option Nat :=
  if 8 ≤ leAt args 0 4 then some (freshNat s 6 % 256) else if partLive s (leAt args 0 4) then some 3 else none
def execScrubPartition (chan : Nat) (s : State) : Res :=
  .next (mbxBegin s chan 0x14 Image.none none scrubRefusal (fun s a => addScrub s 1 (leAt a 0 4) 2))

/-! ## Long commands end (R244, R263, R264, R318, R368, R369, R410 to R412) -/

/-- What a plan must satisfy to be loaded: numbers of this SKU's troupes, at most four candidates, one entry for a port (R243, R244). -/
def planFits (s : State) (p : Plan) : Bool :=
  (p.members == 8 || p.members == 16) && decide (p.members ≤ s.sku.members)
    && (p.chip == 0xFFFF || (decide (p.chip < 4368) && decide (p.chip % 16 < p.members))) && decide (p.masters.length ≤ 4)
    && (p.ports.map (fun x => x.1)).Nodup && p.ports.all (fun x => s.sku.port x.1)

/-- LOAD_PLAN: flash keeps the plan; it takes effect at once or at Tp. -/
def installPlan (s : State) (p : Plan) : State :=
  let s := { s with fab := { s.fab with stored := p } }
  if p.tp ≤ s.time.ft then applyPlan s p
  else
    let now := fun (n : Nat) => (port s n).entry == planEntry p n
    if p.chip = s.fab.plan.chip ∧ (upTo 0 32).all now then applyPlan s p
    else { s with fab := { s.fab with pending := some (p.tp, p) } }
def endPlan (s : State) (plan : Option Plan) : State × Nat × Nat × List Byte :=
  match plan with
  | none => (s, 0xC, freshNat s 6 % 256, [])
  | some p =>
    if !planFits s p then (s, 0xC, freshNat s 6 % 256, [])
    else if chipNo s ≠ 0xFFFF ∧ p.chip ≠ chipNo s ∧ anyCtx s then (s, 0xC, 3, [])
    else (installPlan s p, 0, 0, [])

/-- The checks of an update, in the order the manual lists them; an image without a well-formed header verifies no signature. -/
def imageDetail (s : State) (i : Image) : Nat :=
  if !i.valid || !i.sigOk || !i.secOk then 4
  else if i.svn < s.rm.fused ∨ 64 < i.svn then 5
  else if 127 * 2 ^ 20 < i.len ∨ 6 * 2 ^ 20 < i.rmLen then 6 else 0
def endUpdate (s : State) (i : Image) : State × Nat × Nat × List Byte :=
  let d := imageDetail s i
  if d ≠ 0 then (setImage s (inactive s) Image.none, 0xC, d, [])
  else let s := setImage s (inactive s) i; ({ s with rm := { s.rm with activeNext := inactive s } }, 0, 0, [])

/-- The erasure; the chip then has no plan. -/
def endErase (s : State) : State × Nat × Nat × List Byte := (applyPlan (eraseMem (eraseFlash s)) Plan.none, 0, 0, [])

/-- The L1 of a core is written back and invalidated: its entries in the directory go. -/
def flushCore (s : State) (c : Nat) : State :=
  let s := (core s c).l1.foldl (fun (s : State) (x : Nat × L1Line) =>
    let l := x.2
    let s := takeDirty s { core := c, line := l.line, copy := true, valid := l.valid, dirty := l.dirty, poison := l.poison, data := l.data, seq := 0 }
    let e := dirOf s l.line
    if e.used ∧ e.busy.isNone ∧ e.st = .x c then freeDir s l.line else s) s
  setCore s c { core s c with l1 := [] }

/-- The core holds no team and owes no answer. -/
def coreOut (s : State) (c : Nat) : Bool :=
  !(core s c).teams.any (fun (t : Nat × Team) => t.2.occ) && s.mem.msgs.all (fun m => m.core != c) && s.mem.putms.all (fun a => a.core != c)

/-- A core's test ends: READY, or FAILED with the contexts lost whose teams were saved from it. -/
def endCoreTest (s : State) (c : Nat) (fail : Option Nat) : State × Nat × Nat × List Byte :=
  let s := flushCore s c
  match fail with
  | none => (cacheMode (setBlkState s (pgCore c) 3) 1, 0, 0, [0, 0])
  | some k =>
    let s := setBlkState s (pgCore c) 6
    let lost := (s.box.saved.filter (fun x => x.core == c)).map (fun x => x.team.ctx)
    (lost.foldl (fun s x => loseCtx s x 1 0 0 0 none) s, 0, 0, [1, BitVec.ofNat 8 (max 1 (min 7 k))])

/-- All of device memory has been tested: every sector outside the reserved range is zero. -/
def endMemTest (s : State) (found : List Nat) : State × Nat × Nat × List Byte :=
  let s := writeBackAll s
  let s := { s with mem := { s.mem with hbm := SMap.keep (fun a => s.sku.usable ≤ a) s.mem.hbm
                                        poison := SMap.keep (fun k => s.sku.usable ≤ 32 * k) s.mem.poison } }
  (cacheMode s 1, 0, 0, toLE 8 (!found.isEmpty).toNat ++ toLE 8 found.length ++ (found.take 254).flatMap (toLE 8))

/-- A partition's carve-out is zero. -/
def endPartScrub (s : State) (p : Nat) : State × Nat × Nat × List Byte :=
  let s := (carveOf s p).foldl (fun s r => zeroRun s (r * 2 ^ 30) (2 ^ 30)) s
  ({ s with mem := { s.mem with scrubs := s.mem.scrubs.filter (fun x => !(x.1 == 1 && x.2.1 == p && (x.2.2 == 2 || x.2.2 == 3))) } }, 0, 0, [])

/-- The end of a long operation: its state, status, detail and data; none while it cannot end. -/
def longEnd (s : State) (l : LongOp) (fail : Option Nat) (found : List Nat) : Option (State × Nat × Nat × List Byte) :=
  if l.opcode = 0x10 then some (endPlan s l.plan)
  else if l.opcode = 0x11 then some (endUpdate s l.image)
  else if l.opcode = 0x12 then some (endErase s)
  else if l.opcode = 0x13 then
    (if testCore l.args = 0xFFFF then some (endMemTest s found)
     else if coreOut s (testCore l.args) then some (endCoreTest s (testCore l.args) fail) else none)
  else some (endPartScrub s (leAt l.args 0 4))

/-- Its result is posted on its channel; an update of PLDM, the one image write of channel 1, answers the BMC in PLDM. -/
def longDone (s : State) (l : LongOp) (fail : Option Nat) (found : List Nat) : State :=
  match longEnd { s with rm := { s.rm with long := none } } l fail found with
  | none => s
  | some (s, st, d, data) =>
    if l.opcode = 0x11 ∧ l.chan = 1 then useFree (emit s (.smbus (openBytes s 0 16)))
    else useFree (postMbx s l.chan l.seq st d 0 data)
def execLongOperationComplete (fail : Option Nat) (found : List Nat) (s : State) : Res :=
  match s.rm.long with
  | some l => .next (if s.rm.up && !tierHeld s && pagesUp s then longDone s l fail found else s)
  | none => .next s

end Sys2Proof.Machine
end

