-- ==== Sys2Proof/Machine/Ringmaster.lean ====
section
/-! DEFINITION. The Ringmaster's watchdog and telemetry, MCTP, PLDM and SPDM, and the debug unlock's SUBMIT (R355, R356, R370 to R373). -/

namespace Sys2Proof.Machine

/-! ## Watchdog (R320, R356) -/

/-- A long operation that a restart interrupts; its command is answered with BUSY after the restart. -/
def interruptLong (s : State) : State :=
  match s.rm.long with
  | none => s
  | some l =>
    let s := { s with rm := { s.rm with long := none } }
    let s := if l.opcode = 0x11 ∧ l.chan = 1 then s else setMbxCmd s l.chan (some (l.opcode, l.seq, l.args))
    if l.opcode = 0x12 then { s with rm := { s.rm with eraseDue := true } }
    else if l.opcode = 0x13 then cacheMode (if testCore l.args = 0xFFFF then s else setBlkState s (pgCore (testCore l.args)) 3) 1
    else if l.opcode = 0x14 then
      logOpen { s with mem := { s.mem with scrubs := s.mem.scrubs.map (fun x => if x = (1, leAt l.args 0 4, 2) then (x.1, x.2.1, 3) else x) } }
    else s

/-- 500 ms without a restart of the watchdog: the Ringmaster restarts; a second time within 600 s is chip-fatal. -/
def watchdog (s : State) : State :=
  let again := match s.rm.firstDog with | some t => decide (s.time.ft < t + 600 * 10 ^ 9) | none => false
  let s := interruptLong s
  let s := { s with rm := { s.rm with
    up := false, tier := 0, restarts := min 255 (s.rm.restarts + 1), firstDog := if again then s.rm.firstDog else some s.time.ft }
                    regs := { s.regs with stale := SMap.put false s.regs.stale 2 true } }
  if again then chipFatal s 9 0x11 0 0 else s
def execRingmasterWatchdog (s : State) : Res := .next (if s.rm.up && pagesUp s then watchdog s else s)

/-- A command that a channel held is answered with BUSY. -/
def postHeld (s : State) (chan : Nat) : State :=
  match mbxCmd s chan with
  | some (_, seq, _) => postMbx (setMbxCmd s chan none) chan seq 0xD 2 10000 []
  | none => s

/-- The boot ROM verifies the active image again (R356 step 2), and takes the other one as the boot chain does; none verifies: none runs. -/
def reverified (s : State) : Option State :=
  let i := s.rm.slot % 2
  if imageGood s i then some s else if imageGood s (1 - i) then some (runImage s (1 - i) true) else none

/-- The firmware runs again; links that dropped meanwhile train. -/
def restarted (s : State) : State :=
  match reverified s with
  | none => s
  | some s =>
    let s := { s with rm := { s.rm with up := true } }
    let s := postHeld (postHeld s 0) 1
    (upTo 0 32).foldl (fun s n => if mayTrain s n && (port s n).lstate == 0 then trainPort s n else s) s
def execRingmasterRestartComplete (s : State) : Res := .next (if !s.rm.up && pagesUp s then restarted s else s)

/-! ## Telemetry (R355, R371) -/

/-- A long operation goes on while tiers 1 and 2 are idle: its progress, open but never falling, is at most 100 (R315, R318, R355). -/
def longProgress (s : State) : State :=
  match s.rm.long with
  | some l => if tierHeld s then s else useFree { s with rm := { s.rm with long := some { l with prog := max l.prog (freshNat s 11 % 101) } } }
  | none => s

/-- Every 1 ms the heartbeat counts, and `tier` is the lowest-numbered tier that has had ready work in it, 0 for none; the sample, work of
tier 4, is taken, or dropped and counted (R354, R355). -/
def telemetry (s : State) (tier : Nat) (sensors : List Nat) : State :=
  let since := if tierHeld s then s.rm.tierSince else s.time.ft
  let s := longProgress { s with rm := { s.rm with hb := (s.rm.hb + 1) % 2 ^ 32, tier := tier, tierSince := since } }
  if tier = 0 ∨ tier = 4 then { s with rm := { s.rm with
    sensors := (upTo 0 sensors.length).foldl (fun m i => SMap.put 0 m i (nthD 0 sensors i)) [], sampleAt := s.time.ft } }
  else { s with rm := { s.rm with tdrop := (s.rm.tdrop + 1) % 2 ^ 64 } }
def execTelemetrySample (tier : Nat) (sensors : List Nat) (s : State) : Res :=
  .next (if s.rm.up && pagesUp s then telemetry s tier sensors else s)

/-! ## BMC messages (R370 to R372) -/

/-- The Ringmaster serves the BMC, as tier-3 work (R370). -/
def bmcUp (s : State) : Bool := s.rm.up && !tierHeld s && pagesUp s

/-- A response whose encoding another standard gives: open bytes. -/
def respond (s : State) (d : List Byte) : State := useFree (emit s (.smbus (d ++ openBytes s 0 16)))

/-- MCTP control; code 1 assigns the endpoint ID (PRESUMED from DSP0236, assumption 31). -/
def execMctpControl (code eid : Nat) (s : State) : Res :=
  .next (if bmcUp s then respond (if code = 1 then { s with rm := { s.rm with eid := eid % 256 } } else s) [] else s)

/-- Numeric sensors of the SKU: power, voltage, clock, each die, each stack, inlet. -/
def sensorCount (k : Sku) : Nat := 3 + (1 + k.dies.length) + k.stacks + 1

/-- A sensor's last sample and its age in ms. -/
def sensorBytes (s : State) (i : Nat) : List Byte :=
  if i < sensorCount s.sku then toLE 8 (SMap.get 0 s.rm.sensors i) ++ toLE 8 ((s.time.ft - s.rm.sampleAt) / 10 ^ 6) else []
def execPldmGetSensor (sensor : Nat) (s : State) : Res := .next (if bmcUp s then respond s (sensorBytes s sensor) else s)

/-- An update through PLDM: a long operation of channel 1. While no image has come up, the responder in the boot ROM writes image A,
and the one of a firmware that stays in BOOT the other image (R366). -/
def pldmUpdate (s : State) (i : Image) : State :=
  if bmcUp s then
    (if s.rm.long.isSome then s else
     let l : LongOp := { opcode := 0x11, chan := 1, seq := 0, args := [], prog := 0, image := i, plan := none }
     setImage { s with rm := { s.rm with long := some l } } (inactive s) Image.none)
  else
    let w := if s.rm.verified then inactive s else 0
    respond (setImage s w (if imageDetail s i = 0 then i else Image.none)) []

/-- The chip is held in BOOT: no image verifies, or the secondary part does not match. -/
def bootHeld (s : State) : Bool :=
  (booting s .boot 1 && !imageGood s 0 && !imageGood s 1) || (booting s .secondary 1 && !(imageNow s).secOk)
def execPldmFirmwareUpdate (image : Image) (s : State) : Res :=
  .next (if bmcUp s || bootHeld s then pldmUpdate s image else s)

def execGetVersion (_ : List Byte) (s : State) : Res := .next (if bmcUp s then respond s [] else s)
def execGetCapabilities (_ : List Byte) (s : State) : Res := .next (if bmcUp s then respond s [] else s)
def execNegotiateAlgorithms (_ : List Byte) (s : State) : Res := .next (if bmcUp s then respond s [] else s)
def execGetDigests (_ : List Byte) (s : State) : Res := .next (if bmcUp s then respond s [] else s)

/-- The slot that a request names is its first parameter (PRESUMED from DSP0274, assumption 31). -/
def spdmSlot (a : List Byte) : Nat := leAt a 0 1 % 16

/-- The chain of slot 0: root, intermediate, identity and alias certificate (R364, R372). -/
def certChain (s : State) : List Cert := s.rm.certs ++ s.rm.devCert.toList

/-- A response signed with the alias key: its data, and open bytes. -/
def respondSigned (s : State) (d : List Byte) : State := useFree (emit s (.signed s.rm.devKey (d ++ openBytes s 0 16)))
def execGetCertificate (args : List Byte) (s : State) : Res :=
  .next (if bmcUp s then (if spdmSlot args = 0 then emit s (.certChain (certChain s)) else respond s []) else s)
def execChallenge (args : List Byte) (s : State) : Res :=
  .next (if bmcUp s then (if spdmSlot args = 0 then respondSigned s [] else respond s []) else s)

/-- A measurement as it stands: index 1 never changes, index 5 is the digest of the plan in force. -/
def measurement (s : State) (i : Nat) : Digest :=
  if i = 1 then BitVec.ofNat 256 (Config.freeNat 0 100) else if i = 5 then s.fab.plan.digest.setWidth 256 else SMap.get 0 s.rm.meas i
def execGetMeasurements (index : Nat) (s : State) : Res :=
  .next (if bmcUp s then respondSigned s (if 1 ≤ index ∧ index ≤ 6 then toLE 1 index ++ toLE 32 (measurement s index).toNat else []) else s)

/-! ## Debug unlock (R373) -/

/-- The certificate in SECU_DBGBUF. -/
def certBytes (s : State) : List Byte := (upTo 0 208).flatMap (fun i => toLE 4 (reg s 3 (0x400 + 4 * i)))

/-- What the security block finds: 1 accepted, or why not, in this order: reserved values, signature, authority, serial, nonce. -/
def certResult (s : State) (b : List Byte) (sigOk revoked : Bool) : Nat :=
  if leAt b 0 4 ≠ 1 ∨ 8 ≤ leAt b 4 4 ∨ !((b.drop 0x1C).take 36).all (fun x => x == 0) ∨ !sigOk then 2
  else if revoked ∨ leAt b 0x18 4 < s.rm.genFuse then 5
  else if leAt b 8 8 ≠ s.rm.serial.toNat then 3
  else if leAt b 16 8 ≠ s.rm.nonce.toNat then 4 else 1

/-- SUBMIT: an accepted certificate grants its scope; every SUBMIT takes a new nonce. -/
def submit (s : State) (sigOk revoked : Bool) : State :=
  let b := certBytes s
  let r := certResult s b sigOk revoked
  let s := useFree { s with rm := { s.rm with result := r, nonce := Config.nonce s.free } }
  if r = 1 then measured4 { s with rm := { s.rm with scope := leAt b 4 4 % 8 } } else s
def execSubmit (fn : Nat) (sigOk revoked : Bool) (s : State) : Res := .next (pageWrite s fn 3 (fun s => submit s sigOk revoked))

end Sys2Proof.Machine
end

