-- ==== Sys2Proof/Machine/Debug.lean ====
section
/-! DEFINITION. The Curtain, the dump, the hang snapshot, the Carousel window, JTAG (R373, R392 to R403, R428). -/

namespace Sys2Proof.Machine

/-! ## The Curtain (R392 to R397) -/

/-- A write to a gated register of DBUG_0: ignored while the debug block is locked (R392). -/
def dbgWrite0 (s : State) (f : State → State) : State := if dbgOpen s then f s else s

def execRaise (fn : Nat) (s : State) : Res := .next (pageWrite s fn 0xA (fun s => dbgWrite0 s (fun s => raiseCurtain s 1)))

/-- DBUG_CURT_AT fires, last of its instant, and returns to 0. -/
def execCurtainInstant (s : State) : Res :=
  let t := reg s 0xA 0x88
  .next (if t != 0 && dbgOpen s && pagesUp s && mayFire s t 6 then raiseCurtain (setReg s 0xA 0x88 0) 2 else s)

def execJtagCurtain (s : State) : Res := .next (if railsGood s && scopeBit s 2 then raiseCurtain s 4 else s)

/-- Boundary scan works whenever the rails are good; the manual gives other instructions no effect of their own. -/
def execJtagInstruction (code : Nat) (s : State) : Res :=
  if !railsGood s then .next s
  else if code = 0 then .next (emit s (.jtag 0))
  else if scopeBit s 2 then .refused .jtagUnspecified else .next s

/-- Nothing is in flight but what the Curtain itself holds: requests for memory blocks, which no allocator grants. -/
def inFlight (s : State) : Bool :=
  !s.mem.waiting.all (fun (x : Nat × List (Nat × Req)) => x.2.isEmpty) || s.mem.dir.any (fun (x : Nat × DirEnt) => x.2.busy.isSome)
    || !s.mem.msgs.isEmpty || !s.mem.answers.isEmpty || !s.mem.putms.isEmpty || !s.fab.reqs.isEmpty
    || s.cores.any (fun (k : Nat × Core) => k.2.groups.any (fun (g : Nat × Group) =>
         g.2.occ && (!g.2.sb.isEmpty || g.2.accs.any (fun a => a.kind != .alloc))))
def execCurtainQuiet (s : State) : Res :=
  .next (if s.dbg.raised && !inFlight s then { s with dbg := { s.dbg with quiet := true } } else s)

/-- LOWER, ignored while a dump runs and while the chip is FATAL. -/
def lowerCurtain (s : State) : State :=
  if s.dbg.raised ∧ !s.dbg.dumping ∧ !s.dbg.fatal then { s with dbg := { s.dbg with raised := false, quiet := false, cause := 0 } } else s
def execLower (fn : Nat) (s : State) : Res := .next (pageWrite s fn 0xA (fun s => dbgWrite0 s lowerCurtain))

/-! ## The hang snapshot (R402, R403) -/

def zeros (n : Nat) : List Byte := List.replicate n 0
def padTo (n : Nat) (l : List Byte) : List Byte := l ++ zeros (n - l.length)

/-- The head command of a queue, and what it waits for. -/
def Queue.head (x : Queue) : Option Cmd := x.cmds.find? (fun c => !c.hasEnded)
def queueWait (s : State) (x : Queue) : Nat :=
  match x.head with
  | none => 0
  | some c =>
    if (ctx s x.ctx).st = 2 then 6 else if (ctx s x.ctx).st = 3 then 7
    else if c.isRunning then 1
    else if !gateOpen s c then 2
    else if pkTimed c.bytes && !c.fired then 3
    else if pkBarrier c.bytes && (match x.cmds with | [] => false | d :: _ => d.idx != c.idx) then 4 else 5

/-- A queue's 32 bytes. -/
def queueRec (s : State) (q : Nat) : List Byte :=
  let x := queue s q
  let b := match x.head with | some c => c.bytes | none => []
  let slot := match x.head with | some c => (pkWait c.bytes).getD 0 | none => 0
  padTo 32 (toLE 4 x.c ++ toLE 4 x.h ++ toLE 4 x.t ++ toLE 4 (x.ctx % 4096 + 2 ^ 12 * x.bound.toNat + 2 ^ 13 * queueWait s x)
    ++ toLE 4 slot ++ toLE 4 (pkSeq b) ++ toLE 1 (pkOp b))

/-- The head of the tile mover's queue is a stream take that waits. -/
def tileWaits (s : State) (c : Nat) : Bool :=
  headStream s c && (match (core s c).tmq with | [] => false | k :: _ => (match getCase s c k with | .wait => true | _ => false))

/-- A core's 64 bytes. -/
def coreRec (s : State) (c : Nat) : List Byte :=
  if !s.sku.core c then zeros 64 else
  let k := core s c
  let slot := if headStream s c then (match k.tmq with | [] => 0 | x :: _ => x.b.toNat % 64) else 0
  padTo 64 (toLE 4 (mxStat k) ++ toLE 1 (k.grant.toNat + 2 * (tileWaits s c).toNat) ++ toLE 1 k.tmq.length ++ toLE 1 slot
    ++ toLE 1 (k.teams.filter (fun (t : Nat × Team) => t.2.occ)).length)

/-- Threads of a group in a state. -/
def inStat (g : Group) (st : ThStat) : Nat := (lanes.filter (fun t => (g.thr t).stat == st)).length

/-- What a group waits for. Whether a group that runs waits for a tile-mover or a fence instruction is open: the state holds no next
instruction. -/
def waitKind (s : State) (g : Group) : Nat :=
  if 0 < inStat g .barG then 1 else if 0 < inStat g .barT then 2 else if 0 < inStat g .waitF then 3
  else if g.mxWait then 4 else if !g.occ then 0 else nthD 0 [0, 5, 6] (freshNat s 7 % 3)
def groupRec (s : State) (c k : Nat) : List Byte :=
  let g := grp s c k
  let slot := match g.waits with | [] => 0 | w :: _ => w.slot
  let n := inStat g .barG + inStat g .barT + inStat g .waitF
  let pcs := (lanes.filter (fun t => (g.thr t).stat != .exited)).map (fun t => (g.thr t).pc.toNat)
  padTo 16 (toLE 4 (g.ctx % 4096 + 2 ^ 12 * g.occ.toNat + 2 ^ 13 * g.halted.toNat + 2 ^ 14 * waitKind s g + 2 ^ 17 * n) ++ toLE 4 slot
    ++ toLE 8 (match pcs with | [] => 0 | p :: t => t.foldl min p))

/-- A port's 64 bytes. -/
def portRec (s : State) (n : Nat) : List Byte :=
  if !s.sku.port n then zeros 64 else
  let p := port s n
  let vc := fun (v : Nat) =>
    toLE 2 (64 - ((upTo 0 6).map (creditsUsed p v)).foldl (· + ·) 0) ++ toLE 2 (54 - creditsUsed p v 5)
      ++ toLE 2 (heldOf p v).length ++ toLE 2 (p.queue.filter (fun x => x.1 == v)).length
  padTo 64 (toLE 8 p.lstate ++ (upTo 0 4).flatMap vc ++ toLE 2 p.retry.length ++ toLE 2 (replayFlits s (n / 8)) ++ toLE 2 (storedFlits s (n / 8)))

/-- A Barker slot's 16 bytes on a die. -/
def slotRec (s : State) (e k : Nat) : List Byte :=
  if !s.sku.die e then zeros 16 else
  let x := stream s k
  padTo 16 (toLE 2 (x.ctx % 4096 + 2 ^ 12 * x.live.toNat) ++ toLE 2 (tagsOf s e k) ++ toLE 4 (SMap.get 0 x.next e)
    ++ toLE 2 (x.tiles.filter (fun y => y.ready)).length ++ toLE 1 x.lead
    ++ toLE 1 (x.live && x.drain && decide (x.tiles' ≤ x.consumed.length)).toNat)

/-- The snapshot of instant `ft`. The credits of the die-to-die ports are open. -/
def snapBytes (s : State) (ft : Nat) : List Byte :=
  padTo 4096 (toLE 8 ft ++ toLE 2 (chipNo s)) ++ (upTo 0 65536).flatMap (queueRec s)
    ++ padTo 16384 ((upTo 0 144).flatMap (coreRec s))
    ++ (upTo 0 144).flatMap (fun c => (upTo 0 64).flatMap (groupRec s c))
    ++ padTo 4096 ((upTo 0 32).flatMap (portRec s))
    ++ padTo 4096 ((upTo 0 4).flatMap (fun e => padTo 64 (if s.sku.die e then openBytes s (64 * e) 48 else [])))
    ++ (upTo 0 4).flatMap (fun e => (upTo 0 64).flatMap (slotRec s e))

/-- A write of the physical function to its host. -/
def pfHost (s : State) (addr : Nat) (d : List Byte) : State := if linkUp s 0 then emit s (.hostWrite addr d false) else s

/-- TAKE: the latch and its writes; ignored while a snapshot is being written. -/
def takeSnap (s : State) : State :=
  if s.dbg.snapping then s else
  let s := { s with dbg := { s.dbg with snapping := true, snapFt := s.time.ft } }
  useFree (pfHost s (reg s 0xA 0xC8 / 4096 * 4096) (snapBytes s s.time.ft))
def execTake (fn : Nat) (s : State) : Res := .next (pageWrite s fn 0xA (fun s => dbgWrite0 s takeSnap))

/-- Its last write completes. -/
def execSnapshotComplete (ok : Bool) (s : State) : Res :=
  .next (if s.dbg.snapping then
    (let s := { s with dbg := { s.dbg with snapping := false } }
     if ok then raiseErr s 0xA 4 else s) else s)

/-! ## The dump (R398, R399) -/

/-- A section: type, instance, kind, an error of its source, body. -/
structure Section where
  type : Nat
  inst : Nat
  kind : Nat
  bad  : Bool
  body : List Byte

/-- Bytes of a section whose inner layout the manual does not give, and of a section with an error. -/
def dumpOpen (s : State) (n : Nat) : List Byte := (upTo 0 n).map (Config.dumpByte s.free)
def Section.mk' (s : State) (type inst kind : Nat) (bad : Bool) (body : List Byte) : Section :=
  { type := type, inst := inst, kind := kind, bad := bad, body := if bad then dumpOpen s body.length else body }

def regsBody (s : State) (page : Nat) : List Byte := (upTo 0 4096).map (fun i => BitVec.ofNat 8 (readByte s 0 page i))
def ringBody (s : State) (type inst sub : Nat) : List Byte :=
  padTo 1024 ((SMap.get [] s.dbg.rings (ringKey type inst sub)).flatMap Event.bytes)

/-- The body of a core's CORE section: its threads, of which the record begins with the program counter, its uniform registers, and the
register file and queues, whose layout the manual does not give. -/
def coreBody (s : State) (c : Nat) : List Byte :=
  let open_ := dumpOpen s (16 * 2048 + 520 * 1024)
  (upTo 0 2048).flatMap (fun i => toLE 8 ((grp s c (i / 32)).thr (i % 32)).pc.toNat ++ (open_.drop (8 * i)).take 8)
    ++ (upTo 0 4096).flatMap (fun i => toLE 8 ((grp s c (i / 64)).u (i % 64)).toNat) ++ open_.drop (16 * 2048)

/-- The core's sections above REGS. -/
def coreSections (s : State) (c : Nat) : List Section :=
  let k := core s c
  let ctl := reg s 0xA 0xB0
  [Section.mk' s 1 c 2 false (coreBody s c)]
    ++ (if bit ctl 1 then [Section.mk' s 1 c 3 (!k.tpoison.isEmpty) (SMap.getList 0 k.tmem 0 (2 * 2 ^ 20))] else [])
    ++ [Section.mk' s 1 c 4 false (dumpOpen s (16 * 1024))]
    ++ (if bit ctl 2 then [Section.mk' s 1 c 5 (k.l1.any (fun (x : Nat × L1Line) => x.2.poison != 0))
          ((upTo 0 1024).flatMap (fun i => padTo 128 (SMap.get L1Line.empty k.l1 i).data))] else [])

/-- The slice's sections above REGS. -/
def sliceSections (s : State) (n : Nat) : List Section :=
  let line := fun (i : Nat) => SMap.get L2Line.empty s.mem.l2 (n * 16384 + i)
  [Section.mk' s 2 n 6 false (dumpOpen s (512 * 1024))]
    ++ (if bit (reg s 0xA 0xB0) 3 then [Section.mk' s 2 n 7 ((upTo 0 16384).any (fun i => (line i).poison != 0))
          ((upTo 0 16384).flatMap (fun i => padTo 128 (line i).data))] else [])

/-- The context records, whose layout the manual does not give, and the queue records. -/
def boxBody (s : State) : List Byte := dumpOpen s (4096 * 64) ++ (upTo 0 65536).flatMap (queueRec s)

/-- The sections of a block, in order of kind. The snapshot's section stands with the debug unit (assumption 33). -/
def blockSections (s : State) (page : Nat) : List Section :=
  match blkAt s.sku page with
  | none => []
  | some (b, n) =>
    [Section.mk' s b.code n 1 false (regsBody s page)]
      ++ (match b with
          | .core => coreSections s n
          | .l2sl => sliceSections s n
          | .boxo0 => [Section.mk' s 14 0 8 false (boxBody s)]
          | _ => [])
      ++ ((carUnits s.sku).filter (fun u => u.1 == b.code && u.2.1 == n)).map (fun u => Section.mk' s u.1 n 9 false (ringBody s u.1 n u.2.2))
      ++ (match b with | .dbug0 => [Section.mk' s 20 0 10 false (snapBytes s s.dbg.curtFt)] | _ => [])

/-- Pages in ascending type and instance. -/
def dumpPages (s : State) : List Nat :=
  (upTo 1 21).flatMap (fun t => (presentPages s.sku).filter (fun p => match blkOf p with | some (b, _) => b.code == t | none => false))
def dumpSections (s : State) : List Section := (dumpPages s).flatMap (blockSections s)
def Section.bytes (x : Section) : List Byte :=
  toLE 2 x.inst ++ toLE 2 x.type ++ toLE 4 (x.kind + 256 * x.bad.toNat) ++ toLE 8 x.body.length ++ padTo (roundUp x.body.length 64) x.body

/-- The dump: its header and its sections. -/
def dumpWrites (s : State) : List (List Byte) :=
  let l := dumpSections s
  let d := s.dbg
  padTo 4096 (toLE 4 0x10000 ++ toLE 4 (chipNo s) ++ toLE 8 d.curtFt ++ toLE 4 d.cause
    ++ toLE 4 (s.sku.code + s.sku.cores * 2 ^ 8 + s.sku.stacks * 2 ^ 16 + maskOf s.sku.dies * 2 ^ 24) ++ toLE 8 (dumpNeed s)
    ++ toLE 4 l.length ++ toLE 4 (reg s 0xA 0xB0 % 16 / 2) ++ fatalBytes d) :: l.map Section.bytes

/-- The first `n` writes of a dump. -/
def sendDump : List (List Byte) → Nat → Nat → State → State
  | [], _, _, s => s
  | _ :: _, 0, _, s => s
  | b :: t, n + 1, a, s => sendDump t n (a + b.length) (pfHost s a b)
def writeDump (s : State) (n : Nat) : State := useFree (sendDump (dumpWrites s) n (reg s 0xA 0xA0 / 4096 * 4096) s)

/-- A dump that stops: how many of its writes had been made is open. -/
def stopDump (s : State) (err : Nat) : State :=
  let s := writeDump s (freshNat s 8 % ((dumpWrites s).length + 1))
  { s with dbg := { s.dbg with dumping := false, dumpErr := err } }

/-- GO: under a quiet Curtain with no dump running; the space must be enough. -/
def goDump (s : State) : State :=
  if s.dbg.raised ∧ s.dbg.quiet ∧ !s.dbg.dumping then
    { s with dbg := if reg s 0xA 0xA8 < dumpNeed s then { s.dbg with dumpErr := 1 } else { s.dbg with dumping := true, dumpErr := 0 } }
  else s
def execGo (fn : Nat) (s : State) : Res := .next (pageWrite s fn 0xA (fun s => dbgWrite0 s goDump))

/-- The last write is accepted, or one failed. -/
def execDumpComplete (ok : Bool) (s : State) : Res :=
  .next (if !s.dbg.dumping then s
         else if ok && linkUp s 0 then
           (let s := writeDump s (dumpWrites s).length
            raiseErr { s with dbg := { s.dbg with dumping := false } } 0xA 8)
         else stopDump s 2)

/-! ## RELOCK (R373, R392) -/

/-- RELOCK, refused while a context with the debug attribute is not FREE; it stops a dump and leaves a raised Curtain up. -/
def relock (s : State) : State :=
  if s.box.ctxs.any (fun (x : Nat × Ctx) => x.2.st != 0 && x.2.debug) then { s with rm := { s.rm with result := 6 } }
  else
    let s := if s.dbg.dumping then stopDump s 3 else s
    measured4 { s with rm := { s.rm with scope := 0 } }
def execRelock (fn : Nat) (s : State) : Res := .next (pageWrite s fn 3 relock)

/-! ## The Carousel window (R401) -/

/-- Copy the selected ring; a unit that is absent, or a reserved selection, gives an empty window. -/
def selectRing (s : State) (v : Nat) : State :=
  let type := v / 2 ^ 16 % 65536
  let inst := v % 65536
  let sub := v / 2 ^ 32 % 4
  let w := if (carUnits s.sku).contains (type, inst, sub) then SMap.get [] s.dbg.rings (ringKey type inst sub) else []
  let s := setReg s 0xA 0x100 (v % 2 ^ 34)
  { s with dbg := { s.dbg with window := w } }
def execCarouselSelect (fn : Nat) (value : W64) (s : State) : Res :=
  .next (pageWrite s fn 0xA (fun s => dbgWrite0 s (fun s => selectRing s value.toNat)))

end Sys2Proof.Machine
end

