-- ==== Sys2Proof/Machine/Elementary.lean ====
section
/-! DEFINITION. FRCP, FRSQ, FEXP2, FLOG2, FSIN, FCOS (R139). Each is a fixed function of its input that the manual does not
publish, within a stated bound. Here each is an opaque function of Config, kept where it meets the bound; where it does not,
the result is the nearest binary32 value, which does. Bounds are checked on integers: exactly for FRCP and FRSQ, and for the
others against an enclosure of the exact result, which is exact where that result is a binary fraction and else far finer than any
distance between a binary32 value and the bound. A value past the bound is never taken. -/

namespace Sys2Proof.Machine

/-- Exponent of one unit in the last place of binary32 at a positive value m * 2^e. -/
def ulpExp (m : Nat) (e : Int) : Int := max (e + log2 m - 23) (-149)

/-- `c` lies within `k` * 2^u of 0. -/
def nearZero (c : Nat) (k : Nat) : Bool :=
  match binary32.dec c with
  | .fin _ m e => m * 2 ^ (e + 149).toNat ≤ k
  | _ => false

/-- Cut a value m * 2^e to fixed point with `P` fraction bits, rounding down. -/
def fixDown (m : Nat) (e : Int) (P : Nat) : Nat := shl m (e + P)

/-- |x - v| ≤ d on integers that stand for fixed-point numbers. -/
def within (x v d : Int) : Bool := decide ((x - v).natAbs ≤ d)

/-- The signed fixed-point value, P fraction bits, of a finite binary32 candidate (exact when P ≥ 149). -/
def fixOf (c P : Nat) : Option Int :=
  match binary32.dec c with
  | .fin s m e => some (sgn s (shl m (e + P)))
  | _ => none

/-- The nearest binary32 to v * 2^-P. -/
def nearest (v : Int) (P : Nat) : Nat := binary32.round .near (decide (v < 0)) v.natAbs (-(P : Int)) false

/-- FRCP: at most 1 ulp. The rule lists no result for ±∞: the model takes a value within one unit of 0, or a zero of the input's sign
(DESIGN CHOICE, assumption 131). -/
def frcp (a cand : Nat) : Nat :=
  match binary32.dec a with
  | .nan => binary32.nan
  | .inf s => if nearZero cand 1 then cand else binary32.signBit s
  | .fin s m e =>
    if m = 0 then binary32.signBit s + binary32.infBits else
    let best := binary32.div .near (.fin false 1 0) (.fin s m e)
    -- exact 1/a; its floor exponent gives the ulp; candidate c accepted when |c * a - 1| ≤ ulp * |a|
    let q := 2 ^ 400 / m
    let u := ulpExp q (-400 - e)
    match binary32.dec cand with
    | .fin t n d =>
      let x := min (d + e) (min 0 (u + e))
      let ca := sgn (s != t) (shl (n * m) (d + e - x))
      if within ca (2 ^ (-x).toNat) (shl m (u + e - x)) then cand else best
    | .inf t => if best = binary32.signBit t + binary32.infBits then cand else best
    | .nan => best

/-- FRSQ: at most 2 ulp. The rule lists no result for +∞: the model takes a value within two units of 0, or +0 (DESIGN CHOICE, assumption
131). With `c` and the bound `b` at 200 fraction bits, the exact 1/√a lies in [c - b, c + b] when (c + b)²a ≥ 1, and (c - b)²a ≤ 1 or c < b. -/
def frsq (a cand : Nat) : Nat :=
  match binary32.dec a with
  | .nan => binary32.nan
  | .inf s => if s then binary32.nan else if nearZero cand 2 then cand else 0
  | .fin s m e =>
    if m = 0 then binary32.signBit s + binary32.infBits else if s then binary32.nan else
    -- 1/sqrt(a) = sqrt(2^-e / m): r is its floor with 200 fraction bits
    let r := isqrt (shl (2 ^ 600) (-e) / (m * 2 ^ 200))
    let best := binary32.round .near false r (-200) true
    let b : Int := (2 * 2 ^ (ulpExp r (-200) + 200).toNat : Nat)
    let sq := fun (x : Int) => x * x * (shl m (e + 149) : Nat)
    let one : Int := 2 ^ 549
    match fixOf cand 200 with
    | some c => if 0 ≤ c + b ∧ one ≤ sq (c + b) ∧ (c < b ∨ sq (c - b) ≤ one) then cand else best
    | none => best

/-- 2^(2^-i) with P fraction bits, rounded down, for i = 1, 2, … by square roots: the product over the set bits of a
fraction. -/
def exp2Aux (P : Nat) : Nat → Nat → Nat → Nat → Nat
  | 0, _, _, acc => acc
  | n + 1, root, frac, acc =>
    let root := isqrt (root * 2 ^ P)
    let acc := if bit frac n then acc * root / 2 ^ P else acc
    exp2Aux P n root frac acc

/-- FEXP2: at most 2 ulp; +∞ beyond the largest finite value, +0 below the smallest subnormal. -/
def fexp2 (a cand : Nat) : Nat :=
  match binary32.dec a with
  | .nan => binary32.nan
  | .inf s => if s then 0 else binary32.infBits
  | .fin s m e =>
    let x := sgn s (shl m (e + 160))
    if 128 * 2 ^ 160 ≤ x then binary32.infBits
    else if x < -149 * 2 ^ 160 then 0 else
    let n := x / 2 ^ 160
    let f := (x % 2 ^ 160).toNat
    let v := exp2Aux 300 160 (2 * 2 ^ 300) f (2 ^ 300)
    let u := max (n - 23) (-149)
    let best := binary32.round .near false v (n - 300) true
    -- candidate c = t * 2^d; exact v * 2^(n-300), exact for f = 0 and else with a relative error of v below 2^-280
    match binary32.dec cand with
    | .fin t k d =>
      let z := min d (min u (n - 300))
      let err := if f = 0 then 0 else shl 1 (n - 280 - z)
      if within (sgn t (shl k (d - z))) (shl v (n - 300 - z)) (2 * shl 1 (u - z) - err) then cand else best
    | _ => best

/-- Fraction bits of log2 y, y in [1,2) with P fraction bits, by squaring. -/
def log2Aux (P : Nat) : Nat → Nat → Nat → Nat
  | 0, _, acc => acc
  | n + 1, y, acc =>
    let y := y * y / 2 ^ P
    if 2 ^ (P + 1) ≤ y then log2Aux P n (y / 2) (2 * acc + 1) else log2Aux P n y (2 * acc)

/-- FLOG2: at most 2 ulp outside [0.5, 2], absolute error at most 2^-22 within. The rule lists no result for +∞: the model gives +∞ (DESIGN
CHOICE, assumption 131). The exact result has 300 fraction bits, with an error below 4 units where `a` is no power of two. -/
def flog2 (a cand : Nat) : Nat :=
  match binary32.dec a with
  | .nan => binary32.nan
  | .inf s => if s then binary32.nan else binary32.infBits
  | .fin s m e =>
    if m = 0 then binary32.signBit true + binary32.infBits else if s then binary32.nan else
    let k := e + log2 m
    let v : Int := k * 2 ^ 300 + log2Aux 700 300 (m * 2 ^ (700 - log2 m)) 0
    let one : Int := 2 ^ 300
    let inMid : Bool := decide (-one ≤ v) && decide (v ≤ one)
    let tol : Int := if inMid then 2 ^ 278 else 2 * 2 ^ (300 + (log2 v.natAbs - 300) - 23)
    let err : Int := if m = 2 ^ log2 m then 0 else 4
    match fixOf cand 300 with
    | some c => if within c v (tol - err) then cand else nearest v 300
    | none => nearest v 300

/-- arctan(1/x) with P fraction bits by its series, `n` terms. -/
def arctanInv (x P : Nat) (n : Nat) : Int :=
  ((upTo 0 n).map (fun k => (if k % 2 = 0 then (1 : Int) else -1) * (2 ^ P / (x ^ (2 * k + 1) * (2 * k + 1)) : Nat))).foldl (· + ·) 0

/-- π with 1000 fraction bits, error below 2^-980 (Machin). -/
def piFix : Int := 4 * (4 * arctanInv 5 1000 220 - arctanInv 239 1000 66)

/-- Terms of a Taylor series with alternating signs: `t` is the current term, `j` the factor index. -/
def taylor (P : Nat) (x2 : Int) : Nat → Nat → Int → Int → Int
  | 0, _, _, acc => acc
  | n + 1, j, t, acc =>
    let t' := -(t * x2 / 2 ^ P / ((j + 1) * (j + 2)))
    taylor P x2 n (j + 2) t' (acc + t')

/-- sin (or cos) of a finite value, with 800 fraction bits, error below 2^-760; exact at 0. -/
def sinFix (isCos : Bool) (s : Bool) (m : Nat) (e : Int) : Int :=
  let x := sgn s (shl m (e + 1000))
  let r := x % (2 * piFix) / 2 ^ 200
  let x2 := r * r / 2 ^ 800
  if isCos then taylor 800 x2 110 0 (2 ^ 800) (2 ^ 800) else taylor 800 x2 110 1 r r

/-- FSIN and FCOS: absolute error at most 2^-22 for every finite value. -/
def fsincos (isCos : Bool) (a cand : Nat) : Nat :=
  match binary32.dec a with
  | .nan => binary32.nan
  | .inf _ => binary32.nan
  | .fin s m e =>
    let v := sinFix isCos s m e
    let err : Int := if m = 0 then 0 else 2 ^ 40
    match fixOf cand 800 with
    | some c => if within c v (2 ^ 778 - err) then cand else nearest v 800
    | none => nearest v 800

end Sys2Proof.Machine
end

