-- ==== Sys2Proof/Machine/Floating.lean ====
section
/-! DEFINITION. Binary32 and binary64 instructions, majors 0x03 and 0x04, and conversions, major 0x05 (R77, R138 to R143).
No floating-point condition raises a fault or a flag (R140). -/

namespace Sys2Proof.Machine

/-- OPMOD [1:0], the rounding mode (R138). -/
def rmode (f : Fields) : RMode := RMode.of (f.opmod.toNat % 4)

/-- vD := fn a b on `n` words; OPMOD [1:0] named. -/
def fltBin (n : Nat) (lop : Lop) (fn : Nat → Nat → Nat) (x : Issue) (s : State) : Res :=
  let sh : Shape := { shBin n 3 with lop := lop }
  issueLanes sh true x s (fun g t => setDst x.f g t n (fn (srcA sh x.f g t n) (srcB sh x.f g t n)))

/-- vD := fn a. -/
def fltUn (n mods : Nat) (lop : Lop) (fn : Nat → Nat) (x : Issue) (s : State) : Res :=
  let sh : Shape := { shUn n mods with lop := lop }
  issueLanes sh true x s (fun g t => setDst x.f g t n (fn (srcA sh x.f g t n)))

/-- vD := a * b + c, rounded once. -/
def fltFma (n : Nat) (f : Fmt) (x : Issue) (s : State) : Res :=
  let sh := shTer n 3
  issueLanes sh true x s (fun g t => setDst x.f g t n
    (f.fma (rmode x.f) (f.dec (srcA sh x.f g t n)) (f.dec (srcB sh x.f g t n)) (f.dec (srcC x.f g t n))))

/-- A function of a of R139: its value from the candidate that Config holds. -/
def elem (fn : Nat → Nat → Nat) (cand : W32 → W32) (x : Issue) (s : State) : Res :=
  fltUn 1 0 .none (fun a => fn a (cand (BitVec.ofNat 32 a)).toNat) x s

def execFadd (x : Issue) (s : State) : Res :=
  fltBin 1 .b (fun a b => binary32.add (rmode x.f) (binary32.dec a) (binary32.dec b)) x s
def execFmul (x : Issue) (s : State) : Res :=
  fltBin 1 .b (fun a b => binary32.mul (rmode x.f) (binary32.dec a) (binary32.dec b)) x s
def execFfma (x : Issue) (s : State) : Res := fltFma 1 binary32 x s
def execFmin (x : Issue) (s : State) : Res := fltBin 1 .b (binary32.minMax false) x s
def execFmax (x : Issue) (s : State) : Res := fltBin 1 .b (binary32.minMax true) x s
def execFdiv (x : Issue) (s : State) : Res :=
  fltBin 1 .b (fun a b => binary32.div (rmode x.f) (binary32.dec a) (binary32.dec b)) x s
def execFsqrt (x : Issue) (s : State) : Res := fltUn 1 3 .a (fun a => binary32.sqrt (rmode x.f) (binary32.dec a)) x s
def execFrcp (x : Issue) (s : State) : Res := elem frcp Config.frcp x s
def execFrsq (x : Issue) (s : State) : Res := elem frsq Config.frsq x s
def execFexp2 (x : Issue) (s : State) : Res := elem fexp2 Config.fexp2 x s
def execFlog2 (x : Issue) (s : State) : Res := elem flog2 Config.flog2 x s
def execFsin (x : Issue) (s : State) : Res := elem (fsincos false) Config.fsin x s
def execFcos (x : Issue) (s : State) : Res := elem (fsincos true) Config.fcos x s

def execDadd (x : Issue) (s : State) : Res :=
  fltBin 2 .b (fun a b => binary64.add (rmode x.f) (binary64.dec a) (binary64.dec b)) x s
def execDmul (x : Issue) (s : State) : Res :=
  fltBin 2 .b (fun a b => binary64.mul (rmode x.f) (binary64.dec a) (binary64.dec b)) x s
def execDfma (x : Issue) (s : State) : Res := fltFma 2 binary64 x s
def execDmin (x : Issue) (s : State) : Res := fltBin 2 .b (binary64.minMax false) x s
def execDmax (x : Issue) (s : State) : Res := fltBin 2 .b (binary64.minMax true) x s
def execDdiv (x : Issue) (s : State) : Res :=
  fltBin 2 .none (fun a b => binary64.div (rmode x.f) (binary64.dec a) (binary64.dec b)) x s
def execDsqrt (x : Issue) (s : State) : Res := fltUn 2 3 .none (fun a => binary64.sqrt (rmode x.f) (binary64.dec a)) x s

/-! ## Conversions (R142, R143) -/

/-- Source and destination format codes. -/
def cvtSrc (f : Fields) : Nat := f.opmod.toNat % 16
def cvtDst (f : Fields) : Nat := f.opmod.toNat / 16
/-- Words that a format code occupies: binary64, INT64 and UINT64 take a pair (R127). -/
def cvtN (c : Nat) : Nat := if c = 1 ∨ c = 12 ∨ c = 13 then 2 else 1

/-- vD := fn a; `ok` says that the codes are of the instruction's kinds. -/
def cvt (ok : Bool) (fn : Nat → Nat) (x : Issue) (s : State) : Res :=
  let m := cvtN (cvtSrc x.f)
  let n := cvtN (cvtDst x.f)
  let sh : Shape := ⟨.v n, .v m, .un, .un, .none, 255, .vec⟩
  issueLanes sh ok x s (fun g t => setDst x.f g t n (fn (srcA sh x.f g t m)))

/-- The format of a code; any format for a code that is none (the instruction is then illegal). -/
def cvtFmt (c : Nat) : Fmt := (fmtOf c).getD binary32
def cvtInt (c : Nat) : Nat × Bool := (intOf c).getD (32, true)

def execF2f (x : Issue) (s : State) : Res :=
  cvt ((fmtOf (cvtSrc x.f)).isSome && (fmtOf (cvtDst x.f)).isSome) (f2f (cvtFmt (cvtSrc x.f)) (cvtFmt (cvtDst x.f))) x s
def execF2i (x : Issue) (s : State) : Res :=
  cvt ((fmtOf (cvtSrc x.f)).isSome && (intOf (cvtDst x.f)).isSome)
    (fun a => f2i (cvtFmt (cvtSrc x.f)) (cvtInt (cvtDst x.f)).1 (cvtInt (cvtDst x.f)).2 a) x s
def execI2f (x : Issue) (s : State) : Res :=
  cvt ((intOf (cvtSrc x.f)).isSome && (fmtOf (cvtDst x.f)).isSome)
    (fun a => i2f (cvtInt (cvtSrc x.f)).1 (cvtInt (cvtSrc x.f)).2 (cvtFmt (cvtDst x.f)) a) x s
def execI2i (x : Issue) (s : State) : Res :=
  cvt ((intOf (cvtSrc x.f)).isSome && (intOf (cvtDst x.f)).isSome)
    (fun a => i2i (cvtInt (cvtSrc x.f)).1 (cvtInt (cvtSrc x.f)).2 (cvtInt (cvtDst x.f)).1 (cvtInt (cvtDst x.f)).2 a) x s

end Sys2Proof.Machine
end

