-- ==== Sys2Proof/Machine/RegWrite.lean ====
section
/-! DEFINITION. What a write to a register page does: the access codes, and the fields that act (R10, R11, R299 to R308, R438). -/

namespace Sys2Proof.Machine

/-! ## One register -/

/-- The write touches bits [hi:lo]; bit `i` is written 1. -/
def touches (m hi lo : Nat) : Bool := bits m hi lo != 0
def hit (m v i : Nat) : Bool := bit (v &&& m) i

/-- The register's value after a write of the bits `m`. -/
def merged (old m v : Nat) : Nat := (old &&& ((2 ^ 64 - 1) ^^^ m)) ||| (v &&& m)

/-- By the access codes alone: RW, W1C and W1S act, CS fields land in the shadow. -/
def plainWrite (s : State) (page : Nat) (r : RegSpec) (b m v : Nat) : State :=
  let s' := setReg s page b (r.written (reg s page b) v m)
  if r.hasCs then setShadow s' page b (r.shadowed (shadow s page b) v m) else s'

/-- BLK_COMMIT_AT: a lower word alone is held; an upper word, or all 8 bytes, arms. -/
def commitAtWrite (s : State) (page m v : Nat) : State :=
  if !touches m 63 32 then { s with regs := { s.regs with armLow := SMap.put 0 s.regs.armLow page (v % 2 ^ 32 + 1) } }
  else if touches m 31 0 then armCommit s page v
  else
    let held := SMap.get 0 s.regs.armLow page
    armCommit s page (v / 2 ^ 32 * 2 ^ 32 + (if held = 0 then reg s page 0x20 % 2 ^ 32 else held - 1))

/-- The common header. -/
def commonWrite (s : State) (fn page : Nat) (r : RegSpec) (b m v : Nat) : State :=
  if b = 8 then (if touches m 1 1 then setQuiesce s page (bit v 1) else s)
  else if b = 0x10 ∨ b = 0x14 then interrupts (plainWrite s page r b m v) page
  else if b = 0x18 then (if hit m v 0 then commit s page else s)
  else if b = 0x20 then commitAtWrite s page m v
  else if b = 0x30 then (if touches m 2 0 then setOwner s fn page (v % 8) else s)
  else s

/-! ## Cores (R52, R57 to R59, R404) -/

/-- CORE_DBG_DATA: the selected register; classes 4 to 6 and numbers out of range ignore the write. -/
def putDbgData (s : State) (c v : Nat) : State :=
  let k := dbgSlot s c
  let g := grp s c k
  let i := dbgIndex s c
  let t := dbgThread s c
  match dbgClass s c with
  | 0 => if i < g.nreg then setGrp s c k (g.setV t i (BitVec.ofNat 32 v)) else s
  | 1 => if i < 64 then setGrp s c k (g.setU i (w64 v)) else s
  | 2 => if i < 8 then setGrp s c k (g.setP t i (bit v 0)) else s
  | 3 => setGrp s c k (g.setThr t { g.thr t with pc := w64 v })
  | 7 => if bit (reg s (pgCore c) 0x100) 11 then setReg s (pgCore c) 0x110 v else s
  | _ => s

/-- CORE_DBG_CTL: the slot and STEPSEL, then HALT, STEP and RESUME. -/
def putDbgCtl (s : State) (c m v : Nat) : State :=
  let s := setReg s (pgCore c) 0x100 (merged (reg s (pgCore c) 0x100) (m &&& 0x83F) v)
  let k := dbgSlot s c
  let s := if hit m v 8 then requestHalt s c k else s
  let s := if hit m v 10 then stepGroup s c k (bit (reg s (pgCore c) 0x100) 11) else s
  if hit m v 9 then resumeGroup s c k else s

def coreWrite (s : State) (c : Nat) (r : RegSpec) (b m v : Nat) : State :=
  if b = 0xC0 then (if hit m v 31 then clearFlt s c else s)
  else if 0x100 ≤ b ∧ b < 0x148 then
    (if !scopeBit s 0 then s
     else if b = 0x100 then putDbgCtl s c m v
     else if b = 0x110 then putDbgData s c (merged (dbgData s c) m v)
     else plainWrite s (pgCore c) r b m v)
  else if 0x280 ≤ b ∧ b < 0x300 then setCtr s (rkey (pgCore c) b) (merged (ctr s (rkey (pgCore c) b)) m v)
  else plainWrite s (pgCore c) r b m v

/-! ## Box Office (R324, R325) -/

/-- The effect of a management command. -/
def mgmtOp (s : State) (page op : Nat) : State :=
  if op = 1 then ctxCreate s page else if op = 2 then ctxKill s page else if op = 3 then qCreate s page
  else if op = 4 then qDestroy s page else if op = 5 then fenAssign s page else if op = 6 then fenShare s page
  else if op = 7 then fenUnshare s page else if op = 8 then ctxQuery s page else refuse s page 1
def boxWrite (s : State) (fn page : Nat) (r : RegSpec) (b m v : Nat) : State :=
  if b = 0x80 then (if touches m 7 0 then mgmt s fn page (fun s => mgmtOp s page (v % 256)) else s) else plainWrite s page r b m v

/-! ## Fabric ports, host port, mailbox, security, power (R266, R295, R315, R373, R376, R382, R384, R413) -/

def xprtWrite (s : State) (n : Nat) (r : RegSpec) (b m v : Nat) : State :=
  if b = 0x80 then
    let s := if touches m 1 1 then setDisable s n (bit v 1) else s
    let s := if hit m v 0 ∧ mayTrain s n then trainPort s n else s
    if hit m v 2 then acceptLink s n else s
  else if b = 0xA0 then (if touches m 1 0 ∧ v % 4 ≠ 3 then setPrbs s n (v % 4) else s)
  else plainWrite s (pgXprt n) r b m v

def hostWriteReg (s : State) (page : Nat) (r : RegSpec) (b m v : Nat) : State :=
  if b = 0x80 then (if touches m 0 0 then { s with pow := { s.pow with modeFlash := v % 2 } } else s) else plainWrite s page r b m v

def rmstWrite (s : State) (page : Nat) (r : RegSpec) (b m v : Nat) : State :=
  if b = 0x84 then (if hit m v 0 then mailboxGo s else s) else plainWrite s page r b m v

/-- Whether a certificate's signature verifies is open where no command says it. -/
def secuWrite (s : State) (page : Nat) (r : RegSpec) (b m v : Nat) : State :=
  if b = 0x90 then
    let s := if hit m v 0 then submit s (freshBit s 20) (freshBit s 21) else s
    if hit m v 1 then relock s else s
  else plainWrite s page r b m v

def pwrcWrite (s : State) (page : Nat) (r : RegSpec) (b m v : Nat) : State :=
  if b = 0x98 then (if hit m v 16 ∧ bits m 15 0 = 0xFFFF then rstCtl s (v % 65536) else s)
  else if b = 0x9C then (if touches m 1 0 then psCtl s (v % 4) else s)
  else if b = 0xA8 then let s := plainWrite s page r b m v; if alarmDue s then alarmAct s else s
  else plainWrite s page r b m v

/-! ## Debug unit (R392 to R402, R406) -/

/-- The instants that act at the write fire at once when they have passed (R276). -/
def curtAtWrite (s : State) (r : RegSpec) (m v : Nat) : State :=
  let s := plainWrite s 0xA r 0x88 m v
  let t := reg s 0xA 0x88
  if t ≠ 0 ∧ mayFire s t 6 then raiseCurtain (setReg s 0xA 0x88 0) 2 else s
def sampAtWrite (s : State) (n : Nat) (r : RegSpec) (m v : Nat) : State :=
  let s := plainWrite s (pgDbug n) r 0x300 m v
  let t := reg s (pgDbug n) 0x300
  if t ≠ 0 ∧ mayFire s t 4 then sampleBank s n else s

def dbug0Write (s : State) (page : Nat) (r : RegSpec) (b m v : Nat) : State :=
  if dbgGated b ∧ !dbgOpen s then s
  else if b = 0x80 then
    let s := plainWrite s page r b m v
    let s := if hit m v 0 then raiseCurtain s 1 else s
    if hit m v 1 then lowerCurtain s else s
  else if b = 0x88 then curtAtWrite s r m v
  else if b = 0xB0 then let s := plainWrite s page r b m v; if hit m v 0 then goDump s else s
  else if b = 0xC0 then (if hit m v 0 then takeSnap s else s)
  else if b = 0x100 then selectRing s (merged (reg s page b) m v)
  else plainWrite s page r b m v

/-! ## Any register -/

/-- A write of the bits `m` to the register of offset `b` of a page. -/
def putReg (s : State) (fn page : Nat) (r : RegSpec) (b m v : Nat) : State :=
  if b < 0x80 then commonWrite s fn page r b m v else
  match blkOf page with
  | some (.core, c) => coreWrite s c r b m v
  | some (.boxo0, _) | some (.boxo, _) => boxWrite s fn page r b m v
  | some (.coll, _) =>
    let s := plainWrite s page r b m v
    if b = 0x88 ∧ hit m v 0 then loadPlan s else s
  | some (.xprt, n) => xprtWrite s n r b m v
  | some (.host, _) => hostWriteReg s page r b m v
  | some (.rmst1, _) => rmstWrite s page r b m v
  | some (.secu, _) => secuWrite s page r b m v
  | some (.pwrc, _) => pwrcWrite s page r b m v
  | some (.dbug0, _) => dbug0Write s page r b m v
  | some (.dbug, n) => if b = 0x300 then sampAtWrite s (n - 1) r m v else plainWrite s page r b m v
  | _ => plainWrite s page r b m v

/-- `n` bytes inside one register; reserved offsets ignore them. -/
def writePiece (s : State) (fn page off n v : Nat) : State :=
  match regAt s.sku page off with
  | some (r, b) => putReg s fn page r b ((2 ^ (8 * n) - 1) * 2 ^ (8 * (off - b))) (v * 2 ^ (8 * (off - b)))
  | none => s

/-- A write of 4 or 8 bytes at a BAR0 offset: 8 bytes at once on a 64-bit register, word by word otherwise. -/
def writeIo (s : State) (fn off n v : Nat) : State :=
  let page := off / 4096
  let o := off % 4096
  if n ≠ 8 then writePiece s fn page o 4 (v % 2 ^ 32)
  else match regAt s.sku page o with
    | some (r, b) =>
      if r.bytes = 8 ∧ b = o then writePiece s fn page o 8 (v % 2 ^ 64)
      else writePiece (writePiece s fn page o 4 (v % 2 ^ 32)) fn page (o + 4) 4 (v / 2 ^ 32 % 2 ^ 32)
    | none => writePiece s fn page (o + 4) 4 (v / 2 ^ 32 % 2 ^ 32)

/-! ## Host accesses to BAR0 (R299, R300) -/

/-- A host write: one that does not cover whole words is discarded and sets PARTIAL; one of other than 4 or 8 aligned bytes goes word by
word in ascending address. -/
def hostRegWrite (s : State) (fn addr size v : Nat) : State :=
  if addr % 4 ≠ 0 ∨ size % 4 ≠ 0 ∨ size = 0 then raiseErr s 6 2
  else if size = 8 ∧ addr % 8 = 0 then pageWrite s fn (addr / 4096) (fun s => writeIo s fn addr 8 v)
  else (upTo 0 (size / 4)).foldl (fun s i =>
    pageWrite s fn ((addr + 4 * i) / 4096) (fun s => writeIo s fn (addr + 4 * i) 4 (v / 2 ^ (32 * i) % 2 ^ 32))) s
def execRegisterWrite (fn addr size value : Nat) (s : State) : Res :=
  .next (if pagesUp s then hostRegWrite s fn addr size value else s)

/-- A block does not answer: a read gives all ones, a write is discarded, RDTIMEOUT. An access that the function may not make asks no
block: a read gives 0, and DROPPED is set (R298); nor does one to an absent page (R301). -/
def noAnswer (s : State) (fn addr : Nat) (write : Bool) (size : Nat) : State :=
  let back := fun (s : State) (v : Nat) => if write then s else emit s (.barRead v false)
  if !reaches s fn (addr / 4096) then back (dropped s) 0
  else if (blkAt s.sku (addr / 4096)).isNone then back s 0
  else back (raiseErr s 6 1) (2 ^ (8 * size) - 1)
def execBar0ReadTimeout (write : Bool) (a : BarAcc) (s : State) : Res :=
  .next (if pagesUp s then noAnswer s a.fn a.addr write a.size else s)

/-! ## The memory window (R148, R175, R313, R378, R384) -/

/-- The address that offset `off` of a function's BAR4 reaches; none beyond the BAR's size, its memory and in the reserved range. -/
def windowAddr (s : State) (fn off : Nat) : Option Nat :=
  if bar4Bytes s fn ≤ off then none else
  let a := if fn = 0 then some (reg s 6 0x88 % 1024 * 2 ^ 30 + off) else carveAddr s (fn - 1) off
  match a with | some x => if x < s.sku.usable then some x else none | none => none

/-- Write the bytes that reach memory, from the lowest on. -/
def windowWrite (s : State) (fn off : Nat) (d : List Byte) : State :=
  let pa := windowAddr s fn off
  match pa with
  | some x => if windowAddr s fn (off + d.length - 1) = some (x + d.length - 1) then writeOk s x d
              else ((upTo 0 d.length).foldl (fun s i => match windowAddr s fn (off + i) with
                | some y => writeOk s y ((d.drop i).take 1) | none => s) s)
  | none => (upTo 0 d.length).foldl (fun s i => match windowAddr s fn (off + i) with
                | some y => writeOk s y ((d.drop i).take 1) | none => s) s

/-- Read them through the home slices: 0 where none does; a damaged sector sets the EP bit and is reported (R173, R175). -/
def windowRead (s : State) (fn off n : Nat) : State :=
  let at' := (upTo 0 n).map (fun i => windowAddr s fn (off + i))
  let d := at'.map (fun a => match a with | some x => nthD 0 (peek s x 1) 0 | none => 0)
  let secs := (at'.filterMap (fun a => a.map (fun x => x / 32))).foldl insertNat []
  let bad := secs.any (sectorPoison s)
  let s := emit (secs.foldl (fun s k => l2Read s (k / 4) (2 ^ (k % 4))) s) (.barRead (ofLE d) bad)
  if bad then aerReport s (fnPort s fn) else s

/-- PF1 has no BAR4. -/
def bar4 (s : State) (fn off : Nat) (write : Bool) (len : Nat) (data : List Byte) : State :=
  if 9 ≤ fn ∨ !(s.pow.power == .idle || s.pow.power == .active) then s
  else if s.pow.power = .active ∧ s.pow.svc < 3 then (if write then s else emit s (.barRead 0 false))
  else
    let s := exitEvent s 3
    if write then windowWrite s fn off data else windowRead s fn off len
def execBar4Access (fn off : Nat) (write : Bool) (len : Nat) (data : List Byte) (s : State) : Res := .next (bar4 s fn off write len data)

/-! ## The status mirror (R309, R310) -/

/-- A block reports; the report of page 0 begins a sweep. RMST_0 does not report while the firmware is down (R356). -/
def mirrorReport (s : State) (page : Nat) : State :=
  if page = 2 ∧ !s.rm.up then s else
  let s := if page = 0 then setReg s 0 0x90 s.time.ft else s
  { s with regs := { s.regs with mirror := SMap.put none s.regs.mirror page (some (w64 (mirrorWord s page)))
                                 stale := SMap.put false s.regs.stale page false } }
def execMirrorReport (page : Nat) (s : State) : Res :=
  .next (if pagesUp s && (blkAt s.sku page).isSome then mirrorReport s page else s)
def execMirrorStaleTimeout (page : Nat) (s : State) : Res :=
  .next (if pagesUp s && (blkAt s.sku page).isSome then
    { s with regs := { s.regs with stale := SMap.put false s.regs.stale page true } } else s)

end Sys2Proof.Machine
end

