-- ==== Sys2Proof/Machine/Remote.lean ====
section
/-! DEFINITION. Requests that other chips send to this one, and the answers to its own requests (R211, R242, R248 to R250, R253 to R259). -/

namespace Sys2Proof.Machine

/-! ## A request at its destination (R248) -/

/-- Region and offset of a packet's system address, the bytes it touches, and the unit of its region's windows. -/
def rqRegion (p : Pkt) : Nat := bits p.addr 47 40
def rqOff (p : Pkt) : Nat := p.addr % 2 ^ 40
def rqLen (p : Pkt) : Nat :=
  if p.kind = 1 then max 1 p.data.length else if p.kind = 2 then max 1 (min 4096 p.op) else if p.kind = 3 then (if bit p.op 3 then 8 else 4) else 8
def winUnit (region : Nat) : Nat := if region = 0 then 65536 else if region = 1 then 4096 else 8

/-- KIND of the windows that match a region (R245, R247). -/
def winKind (region : Nat) : Nat := if region = 1 then 2 else if region = 2 then 1 else region

/-- Word 0 or 1 of export entry `i`. -/
def winWord (s : State) (i k : Nat) : Nat := reg s (expPage i) (expOff i + 8 * k)

/-- Step 1: the entry is valid, of the region's kind, holds every unit, and admits the source. -/
def winMatch (s : State) (p : Pkt) (i : Nat) : Bool :=
  let a := winWord s i 0
  let b := winWord s i 1
  let u := winUnit (rqRegion p)
  bit a 0 && decide (rqRegion p < 3) && bits a 2 1 == winKind (rqRegion p) && decide (bits a 39 16 ≤ rqOff p / u) && decide ((rqOff p + rqLen p - 1) / u ≤ bits b 23 0)
    && decide (bits b 47 32 ≤ p.src) && decide (p.src ≤ bits b 63 48) && bit b (24 + p.spart % 8)

/-- Step 2: R for READ, W for WRITE and SIGF, AT for ATOMIC. -/
def winGrants (a kind : Nat) : Bool := if kind = 2 then bit a 3 else if kind = 3 then bit a 5 else bit a 4

/-- Step 3, and which packets a region takes (R245). -/
def winInside (s : State) (p : Pkt) (part : Nat) : Bool :=
  if rqRegion p = 0 then p.kind != 4
  else if rqRegion p = 1 then (p.kind == 1 || p.kind == 2) && !ioForeign s part (rqOff p)
  else
    let k := rqOff p / 8
    p.kind == 4 && ((match (fence s k).owner with | some c => (ctx s c).part == part | none => false)
      || s.box.shares.any (fun (e : Nat × Option (Nat × Nat)) => match e.2 with
          | some (i, c) => i == k && (ctx s c).part == part | none => false))

/-- What the check answers; the partition is the deciding window's. -/
inductive Verdict | noWindow | perm (part : Nat) | closing (part : Nat) | admitted (part : Nat)
  deriving DecidableEq, Repr

/-- The lowest-numbered matching entry decides. -/
def windowCheck (s : State) (p : Pkt) : Verdict :=
  match (upTo 0 1024).find? (winMatch s p) with
  | none => .noWindow
  | some i =>
    let a := winWord s i 0
    let part := bits a 10 8
    if !winGrants a p.kind || !winInside s p part then .perm part else if bit a 6 then .closing part else .admitted part

/-! ## Performing a request (R211, R212, R249, R250, R257, R259) -/

def reply (s : State) (p : Pkt) (part : Option Nat) (status : Nat) (d : List Byte) : State :=
  if ordered p.kind then answerKept s p part status d else answer s p part status d

/-- Bytes of a request or answer received for work of a partition. -/
def received (s : State) (part : Nat) (p : Pkt) : State := countBank s part 0xB8 (16 + p.data.length)

/-- A read of memory returns what is stored, with the marks of its damaged sectors; a read of a register what the partition's function reads. -/
def readHere (s : State) (p : Pkt) (part : Nat) : State :=
  if rqRegion p = 0 then
    let s := touchRange s (rqOff p) (rqLen p)
    let m := maskOf (((sectorsOf (rqOff p) (rqLen p)).filter (sectorPoison s)).map (fun sec => sec - rqOff p / 32))
    (sendPkt s (some part) { respPkt s p (if m = 0 then 0 else 3) (peek s (rqOff p) (rqLen p)) with marks := m }).1
  else reply s p (some part) 0 (toLE (rqLen p) (readIo s (part + 1) (rqOff p) (rqLen p)))
def writeHere (s : State) (p : Pkt) (part : Nat) : State :=
  if rqRegion p = 0 then reply (writeMem s (rqOff p) p.data (fun sec => bit p.marks (sec - rqOff p / 32))) p (some part) 0 []
  else reply (writeIo s (part + 1) (rqOff p) p.data.length (ofLE p.data)) p (some part) 0 []

/-- An atomic goes to its line's home, which answers it. -/
def atomicHere (s : State) (p : Pkt) : State :=
  let n := if bit p.op 3 then 8 else 4
  arrive s (rqOff p / 128)
    (.ratom p.src (p.op % 8) (bit p.op 3) (bit p.op 4) (rqOff p) (leAt p.data 0 n) (leAt p.data n n) (p.txid % 4096 + 4096 * (p.pseq % 65536)))

/-- An admitted request. -/
def doRemote (s : State) (p : Pkt) (part : Nat) : State :=
  if p.kind = 1 then writeHere s p part else if p.kind = 2 then readHere s p part else if p.kind = 3 then atomicHere s p
  else reply (signal s (rqOff p / 8) (bit p.op 0)) p (some part) 0 []

/-- Check a request whose turn has come, and perform or refuse it. -/
def perform (s : State) (p : Pkt) : State :=
  match windowCheck s p with
  | .noWindow => reply { s with dbg := { s.dbg with nowin := (s.dbg.nowin + 1) % 2 ^ 64 } } p none 1 []
  | .perm part => reply (countBank (received s part p) part 0xC0 1) p (some part) 2 []
  | .closing part =>
    let s := received s part p
    reply (if p.kind = 1 ∨ p.kind = 4 then countBank s part 0xC8 1 else s) p (some part) 5 []
  | .admitted part => doRemote (received s part p) p part

/-! ## Order (R254, R255, R394) -/

/-- The sequence number that a source's next ordered packet has, and how far a packet is ahead of it, modulo 65,536. -/
def expected (s : State) (src : Nat) : Nat := SMap.get 0 s.fab.expect src
def ahead (s : State) (p : Pkt) : Nat := (p.pseq % 65536 + 65536 - expected s p.src) % 65536

/-- The home of an atomic can take it now. -/
def homeTakes (s : State) (p : Pkt) : Bool :=
  p.kind != 3 || !blocked s (rqOff p / 128) || decide ((waitingAt s (homeOf (rqOff p / 128))).length < 256)

/-- The request may be performed now: no Curtain, its die reaches the home slices, and for an ordered one its turn. -/
def mayServe (s : State) (p : Pkt) : Bool := !s.dbg.raised && !d2dBusy s (dieFor s p.src) && homeTakes s p && (!ordered p.kind || ahead s p == 0)

/-- Perform it; an ordered one moves its source's sequence on. -/
def serveRemote (s : State) (p : Pkt) : State :=
  let s := if ordered p.kind then { s with fab := { s.fab with expect := SMap.put 0 s.fab.expect p.src ((p.pseq + 1) % 65536) } } else s
  perform s p

/-- Serve the held requests that have become next, at most `n`. -/
def pumpHeld : Nat → State → State
  | 0, s => s
  | n + 1, s =>
    match s.fab.reorder.find? (mayServe s) with
    | none => s
    | some p => pumpHeld n (serveRemote { s with fab := { s.fab with reorder := dropFirst (fun q => q == p) s.fab.reorder } } p)
def pumpRemote (s : State) : State := pumpHeld s.fab.reorder.length s

/-- The chip receives requests: pages answer, it is Active and has not failed. -/
def remoteUp (s : State) : Bool := s.pow.power == .active && pagesUp s && !s.dbg.fatal

/-- Hold a request in the reorder store of the source's die, or answer RETRY when it does not fit. -/
def holdRemote (s : State) (p : Pkt) : State :=
  if s.fab.reorder.any (fun q => q.src == p.src && q.kind == p.kind && q.pseq == p.pseq && q.txid == p.txid) then s
  else if storedFlits s (dieFor s p.src) + pktFlits p ≤ 8192 then { s with fab := { s.fab with reorder := s.fab.reorder ++ [p] } }
  else answer s p none 6 []

/-- A protocol error counts on the port that received the packet; the command names none, so which of the live ports is open. -/
def protoError (s : State) : State :=
  let l := livePorts s
  if l.isEmpty then s else useFree (countPort s (nthD 0 l (freshNat s 9 % l.length)) 0xF8 1)

/-- An ordered request at the die of its source. -/
def takeOrdered (s : State) (p : Pkt) : State :=
  if mayServe s p then pumpRemote (serveRemote s p)
  else if ahead s p < 1024 then holdRemote s p
  else if 65536 - 1024 ≤ ahead s p then
    (match SMap.get none s.fab.hist (pairKey p.src p.pseq) with | some r => (sendPkt s none r).1 | none => s)
  else protoError s

/-- A READ on arrival. -/
def takeRead (s : State) (p : Pkt) : State := if mayServe s p then serveRemote s p else holdRemote s p

/-- A request packet: one for another chip is transit and none of these commands; a chip without a number answers NO_CHIP. -/
def incoming (s : State) (p : Pkt) (kind : Nat) (f : State → Pkt → State) : State :=
  let p := { p with kind := kind }
  if !remoteUp s then s
  else if chipNo s = 0xFFFF then answer s p none 7 []
  else if p.dst ≠ chipNo s then s else f s p

def execWrite (p : Pkt) (s : State) : Res := .next (incoming s p 1 takeOrdered)
def execRead (p : Pkt) (s : State) : Res := .next (incoming s p 2 takeRead)
def execAtomic (p : Pkt) (s : State) : Res := .next (incoming s p 3 takeOrdered)
def execSigfPacket (p : Pkt) (s : State) : Res := .next (incoming s p 4 takeOrdered)

/-! ## The answer at the source (R242, R256, R258, R259) -/

/-- The request that an answer belongs to: reads and atomics by transaction number, ordered ones by sequence number. -/
def answers (p : Pkt) (r : RReq) : Bool :=
  r.left && r.pkt.dst == p.src && r.pkt.kind == p.op % 16 && (!ordered r.pkt.kind || r.pkt.pseq == p.pseq)
    && (!(r.pkt.kind == 2 || r.pkt.kind == 3) || r.pkt.txid == p.txid)

/-- Fault kind of a status that is neither OK nor RETRY. -/
def respKind (st : Nat) : Nat := if st = 2 then 2 else if st = 3 then 8 else 1
/-- The answer completes the request: OK, damaged data, or a write that a closing window dropped. -/
def respDone (r : RReq) (st : Nat) : Bool := st == 0 || (st == 3 && r.pkt.kind == 2) || (st == 5 && (r.pkt.kind == 1 || r.pkt.kind == 4))

/-- The damaged ranges of an answer's data at packed position `pos`: its marked sectors, all of it where a POISON bears no mark. -/
def ansRanges (st marks addr pos n : Nat) : List (Nat × Nat) :=
  if st = 3 ∧ marks = 0 then [(pos, n)] else pktRanges marks addr pos n

/-- The value of a thread's access from the bytes of the answer. -/
def respVal (a : Acc) (d : List Byte) : Nat :=
  match a.kind with
  | .load | .uload => ofLE ((d.drop (a.addr.toNat - readBase a.addr a.size)).take a.size)
  | _ => ofLE (d.take a.size)
def threadAnswer (s : State) (c gs id st : Nat) (d : List Byte) (marks : Nat) : State :=
  match accAt s c gs id with
  | none => s
  | some a => if st = 0 ∨ st = 3 then finishData s c gs a (respVal a d) (marks != 0 || st == 3) else lateFault s c gs a (respKind st)

/-- A WRITE or SIGF of a thread: the instruction has retired. -/
def storeAnswer (s : State) (c gs : Nat) (r : RReq) (st : Nat) : State :=
  release (if respDone r st then s else postedLoss s c gs (kindStatus (respKind st)) (w64 r.pkt.addr)) c gs

/-- A part of a tile mover's copy. A fault leaves open which words were written (R440). -/
def tmAnswer (s : State) (c : Nat) (r : RReq) (st : Nat) (d : List Byte) (marks : Nat) : State :=
  match (core s c).tmRun with
  | none => s
  | some x =>
    let k := x.cmd
    let l := aside r.pkt.addr (spots s (grp s c k.gslot).ctx k.put (tmPieces k))
    let stop := fun (kind : Nat) => tmFault (if k.put then putPartial s c k l else getPartial s c k l) c k kind r.pkt.addr
    match x.wait.find? (fun w => w.1 == r.id) with
    | none => s
    | some w =>
      if !respDone r st then stop (respKind st)
      else if (marks != 0 || st == 3) && k.unpack != 0 then stop 8
      else
        let x := { x with wait := x.wait.filter (fun w => w.1 != r.id) }
        let x := if k.put then x else { x with src := splice x.src w.2.1 (d.take w.2.2), bad := x.bad ++ ansRanges st marks r.pkt.addr w.2.1 w.2.2 }
        setCore s c { core s c with tmRun := some x }

/-- A part of a COPY or FILL; under the Curtain the data waits for its writes (R394). -/
def copyAnswer (s : State) (q idx : Nat) (x : Cmd) (r : RReq) (st : Nat) (d : List Byte) (marks : Nat) : State :=
  let b := x.bytes
  let at' := fun (i : Nat) => x.wait.any (fun w => decide (w.2.1 ≤ i) && decide (i < w.2.1 + w.2.2))
  match x.wait.find? (fun w => w.1 == r.id) with
  | none => s
  | some w =>
    if !respDone r st then
      cmdFault (copyPartial s (aside r.pkt.addr (rangeSpots s r.ctx true (dstOf b).1 (dstOf b).2)) x.buf
        (fun i => r.pkt.kind == 1 || !at' i)) q idx r.ctx (kindStatus (respKind st)) r.pkt.addr
    else
      let wait := x.wait.filter (fun w => w.1 != r.id)
      if r.pkt.kind = 2 then
        let buf := splice x.buf w.2.1 (d.take w.2.2)
        let bad := x.bad ++ ansRanges st marks r.pkt.addr w.2.1 w.2.2
        let s := updCmd s q idx (fun c => { c with wait := wait, buf := buf, bad := bad })
        if wait.isEmpty && !s.dbg.raised then copyWrite s q idx r.ctx b buf bad else s
      else
        let s := updCmd s q idx (fun c => { c with wait := wait })
        if wait.isEmpty then copyDone s q idx else s

/-- A command of the Box Office: a SIGNAL, or part of a copy. -/
def cmdAnswer (s : State) (q idx : Nat) (r : RReq) (st : Nat) (d : List Byte) (marks : Nat) : State :=
  match cmdAt s q idx with
  | none => s
  | some x =>
    if !x.isRunning then s
    else if r.pkt.kind = 4 then
      (if respDone r st then endCmd s q idx 0 0 else cmdFault s q idx r.ctx (kindStatus (respKind st)) r.pkt.addr)
    else copyAnswer s q idx x r st d marks

/-- A boundary's remote signal. -/
def boundaryAnswer (s : State) (slot : Nat) (r : RReq) (st : Nat) : State :=
  let x := stream s slot
  if !x.live then s
  else if respDone r st then boundaryDone s slot
  else loseCtx s x.ctx (kindStatus (respKind st)) 0 (w64 r.pkt.addr) 0 (some (x.q, x.idx))

/-- The request leaves the list, and its issuer gets the outcome. -/
def settleReq (s : State) (r : RReq) (st : Nat) (d : List Byte) (marks : Nat) : State :=
  let s := { s with fab := { s.fab with reqs := s.fab.reqs.filter (fun x => x.id != r.id) } }
  match r.owner with
  | .thread c g a => threadAnswer s c g a st d marks
  | .store c g _ => storeAnswer s c g r st
  | .tm c => tmAnswer s c r st d marks
  | .cmd q idx => cmdAnswer s q idx r st d marks
  | .boundary slot => boundaryAnswer s slot r st
  | .ended _ => s

/-- Answer NO_ROUTE to the requests that found no route when their turn came, at most `n` (R253). -/
def settleLost : Nat → State → State
  | 0, s => s
  | n + 1, s => match s.fab.reqs.find? (fun r => r.st == .noRoute) with
    | some r => settleLost n (pumpReqs (settleReq s r 4 [] 0))
    | none => s

/-- A request ends: its issuer gets the outcome, and waiting requests take its place. -/
def outcome (s : State) (r : RReq) (st : Nat) (d : List Byte) (marks : Nat) : State :=
  let s := pumpReqs (settleReq s r st d marks)
  settleLost s.fab.reqs.length s

/-- An answer: RETRY marks the request for its resendReq; one without a request is a duplicate or comes too late, and is discarded and
counted (R256, R258). -/
def takeResp (s : State) (p : Pkt) : State :=
  match s.fab.reqs.find? (answers p) with
  | none => { s with fab := { s.fab with late := s.fab.late + 1 } }
  | some r =>
    let s := received s r.pkt.spart p
    if p.status % 16 = 6 then setReq s { r with st := .refused } else outcome s r (p.status % 16) p.data p.marks
def execResp (p : Pkt) (s : State) : Res :=
  .next (if remoteUp s && p.dst == chipNo s then takeResp s p else s)

def reqAt (s : State) (id : Nat) : Option RReq := s.fab.reqs.find? (fun r => r.id == id)

/-- 10 µs after RETRY the packet leaves again as it was; with no route in service the source answers NO_ROUTE itself (R253). -/
def resendReq (s : State) (r : RReq) : State :=
  let x := sendPkt s (some r.pkt.spart) r.pkt
  if x.2 then setReq x.1 { r with st := .sent } else outcome s r 4 [] 0
def execRetryResend (id : Nat) (s : State) : Res :=
  match reqAt s id with
  | some r => .next (if remoteUp s && r.st == .refused then resendReq s r else s)
  | none => .next s

/-- 2 ms after it was first sent, the Curtain's time aside (R395), a request is abandoned; one that found no route ends at once. -/
def execRemoteRequestTimeout (id : Nat) (s : State) : Res :=
  match reqAt s id with
  | some r => .next (if remoteUp s && !s.dbg.raised && r.st != .waits && (r.st == .noRoute || decide (r.sent + 2000000 ≤ s.time.nsRun)) then outcome s r 1 [] 0 else s)
  | none => .next s

end Sys2Proof.Machine
end

