-- ==== Sys2Proof/Machine/LoadReturn.lean ====
section
/-! DEFINITION. The ends of outstanding accesses: data for loads, accesses to register pages, and reads that nothing answers (R49, R79, R81,
R160, R165, R175, R199, R202, R296, R439). -/

namespace Sys2Proof.Machine

/-! ## LOAD_RETURN -/

/-- A sector of a core's L1 is damaged: a clean one is fetched again, a dirty one is poisoned (R176). -/
def l1Damage (s : State) (c line i : Nat) : State :=
  let x := l1Line s c line
  if x.st = .i ∨ !bit x.valid i then s
  else if bit x.dirty i then updL1 s c line (fun y => { y with poison := y.poison ||| 2 ^ i })
  else corrected (updL1 s c line (fun y => { y with valid := y.valid - 2 ^ i, poison := y.poison - (if bit y.poison i then 2 ^ i else 0) })) 1 c line

/-- A sector of an L2 slice is damaged (R176). -/
def l2Damage (s : State) (line i : Nat) : State :=
  match l2Find s line with
  | some w => let x := l2At s line w
              if bit x.valid i then setL2 s line w { x with poison := x.poison ||| 2 ^ i } else s
  | none => s

/-- A damaged entry of an engine's queue: the issuing group's context is lost with POISON (R177). -/
def queueDamage (s : State) (c gs : Nat) (pc : W64) (mask order : Nat) : State := grants (engineFault s c gs 8 pc 0 mask order) c

/-- The counters of a block (R404, R405, R408). -/
def isCounter (b : Blk) (off : Nat) : Bool :=
  off % 8 == 0 && match b with
  | .core => (decide (0x280 ≤ off) && decide (off < 0x300)) || (decide (0x380 ≤ off) && decide (off < 0x3A0))
  | .dbug => decide (0x80 ≤ off) && decide (off ≤ 0xF0)
  | .xprt => decide (0xC0 ≤ off) && decide (off ≤ 0x100)
  | _ => false

/-- The effect of an error in a structure that holds what the error names; otherwise nothing happens (R176, R177, R181, R406, R408). -/
def takeErr (s : State) : StoreErr → State
  | .corr t n loc => if partFitted s.sku t n then corrected s t n loc else s
  | .vreg c gs t r =>
    let g := grp s c gs
    if g.occ && decide (t < 32) && decide (r < g.nreg) then setGrp s c gs { g with vpoison := SMap.put false g.vpoison (256 * t + r) true } else s
  | .ureg c gs r =>
    let g := grp s c gs
    if g.occ && decide (r < 64) then setGrp s c gs { g with upoison := SMap.put false g.upoison r true } else s
  | .preds c gs => let g := grp s c gs
                   if g.occ then setGrp s c gs { g with ppoison := true } else s
  | .tile c k =>
    if s.sku.core c && decide (k < 65536) then setCore s c { core s c with tpoison := SMap.put false (core s c).tpoison k true } else s
  | .weights c shadow =>
    let k := core s c
    if s.sku.core c then setCore s c (if shadow then { k with shadow := { k.shadow with poison := true } }
      else { k with active := { k.active with poison := true } }) else s
  | .mxEntry c i => (match ((core s c).mxq.drop i).head? with
      | some k => queueDamage s c k.gslot k.pc k.mask k.order | none => s)
  | .tmEntry c i => (match ((core s c).tmq.drop i).head? with
      | some k => queueDamage s c k.gslot k.pc k.mask k.order | none => s)
  | .icLine c line => (match icFind s c line with
      | some w => corrected (setCore s c { core s c with icache := SMap.put 0 (core s c).icache (icKey line w) 0 }) 1 c line
      | none => s)
  | .xlat c cx page =>
    if (core s c).tlb.contains (cx, page) then
      corrected (setCore s c { core s c with tlb := (core s c).tlb.filter (fun x => x != (cx, page)) }) 1 c page
    else s
  | .sharedXlat cx page =>
    if s.mem.stlb.contains (cx, page) then
      corrected { s with mem := { s.mem with stlb := s.mem.stlb.filter (fun x => x != (cx, page)) } } 16 0 page
    else s
  | .l1 c line i => if i < 4 then l1Damage s c line i else s
  | .l2 line i => if i < 4 then l2Damage s line i else s
  | .hbm sec => if 32 * sec < s.sku.memBytes then { s with mem := { s.mem with poison := SMap.put false s.mem.poison sec true } } else s
  | .loft slot t i =>
    let x := stream s slot
    if x.live && x.tiles.any (fun y => y.t == t) && decide (32 * i < x.tileBytes)
    then setStream s slot (x.setTile t (fun y => { y with poison := SMap.put false y.poison i true })) else s
  | .counter page off => (match blkAt s.sku page with
      | some (b, n) => if isCounter b off then corrected (setCtr s (rkey page off) (2 ^ 64 - 1)) b.code n off else s
      | none => s)
  | .fec n corr unc => if s.sku.port n then countPort (countPort s n 0xE8 corr) n 0xF0 unc else s

/-- The thread's own buffered stores give every byte of the access (R209 rule 3). -/
def forwarded (g : Group) (a : Acc) (pa : Nat) : Bool :=
  (upTo 0 a.size).all (fun i => g.sb.any (fun e => match e.pa with
    | some p => e.th == a.th && decide (e.id < a.id) && decide (p ≤ pa + i) && decide (pa + i < p + e.size)
    | none => false))

/-- The load's bytes are there: the L1 holds the sector, or the store buffer the bytes; those of a set's one load are in no buffer. -/
def loadHit (s : State) (c gs : Nat) (a : Acc) (pa : Nat) : Bool :=
  let x := l1Line s c (pa / 128)
  (x.st != .i && bit x.valid (pa % 128 / 32)) || (a.kind == .load && forwarded (grp s c gs) a pa)

/-- A load from L1 (R79, R160, R209); the line's use was counted when the load issued or its line was filled. -/
def loadMem (s : State) (c gs : Nat) (a : Acc) (pa : Nat) : State :=
  let g := grp s c gs
  if a.policy = 2 ∨ !mayPerform g a ∨ !loadHit s c gs a pa ∨ (a.kind = .uload ∧ !noStoreTo g a) then s else
  let x := l1Line s c (pa / 128)
  let all := forwarded g a pa
  let d := forwardMem g a.th a.id pa ((x.data.drop (pa % 128) ++ List.replicate a.size 0).take a.size)
  finishData s c gs a (ofLE d) (!all && bit x.poison (pa % 128 / 32))

/-- A load from a thatched page: decoded; damaged or contradictory data faults with POISON (R175, R199). -/
def loadThatch (s : State) (c gs : Nat) (a : Acc) (ix off : Nat) : State :=
  if !mayPerform (grp s c gs) a then s else
  let s := thTouch (touchRange s (ix + 8 * (off / 4096)) 8) ix off a.size
  match thRead s ix off a.size with
  | some d => finishData s c gs a (ofLE d) false
  | none => finishData s c gs a 0 true

/-- An access to a register page of this chip: what the partition's function reads, or a write as it makes it. -/
def regAccess (s : State) (c gs : Nat) (a : Acc) (off : Nat) : State :=
  let fn := (ctx s (grp s c gs).ctx).part + 1
  match a.kind with
  | .ldio => finish s c gs a (readIo s fn off a.size)
  | .stio => writeIo (finish s c gs a 0) fn off a.size (a.data.getD 0)
  | _ => s

/-- The bytes of a load from a HOST page; with the link down the load faults (R314). -/
def hostReturn (s : State) (c gs : Nat) (a : Acc) (host : List Byte) : State :=
  if !linkUp s (hostPort s (ctx s (grp s c gs).ctx).part) then lateFault s c gs a 1
  else if host.length = a.size then finish s c gs a (ofLE host) else s

/-- What the data of an access does when it arrives; `host` are the bytes of a load from a HOST page. -/
def loadReturn (s : State) (c gs : Nat) (a : Acc) (host : List Byte) : State :=
  match a.kind, a.dest with
  | .load, .mem pa => loadMem s c gs a pa
  | .uload, .mem pa => loadMem s c gs a pa
  | .load, .thatch ix off => loadThatch s c gs a ix off
  | .uload, .thatch ix off => loadThatch s c gs a ix off
  | .load, .host _ => hostReturn s c gs a host
  | .uload, .host _ => hostReturn s c gs a host
  | .ldio, .io off => regAccess s c gs a off
  | .stio, .io off => regAccess s c gs a off
  | _, _ => s
/-- The errors that were found take effect first; then the access ends, where there is one. -/
def execLoadReturn (c gs id : Nat) (host : List Byte) (errs : List StoreErr) (s : State) : Res :=
  .next (if !memUp s then s else
    let s := errs.foldl takeErr s
    match accAt s c gs id with
    | some a => loadReturn s c gs a host
    | none => s)

/-! ## No answer -/

/-- 0xFFFF_FFFF in each word. -/
def allOnes (n : Nat) : Nat := 2 ^ (8 * n) - 1

/-- 1 µs without an answer: a read returns all ones, a write is discarded (R81). -/
def registerTimeout (s : State) (c gs : Nat) (a : Acc) : State :=
  match a.kind, a.dest with
  | .ldio, .io _ => finish s c gs a (allOnes a.size)
  | .stio, .io _ => finish s c gs a 0
  | _, _ => s
def execRegisterAccessTimeout (c gs id : Nat) (s : State) : Res :=
  match accAt s c gs id with
  | some a => .next (registerTimeout s c gs a)
  | none => .next s

/-- The pieces that a command reads before it starts. -/
def cmdReads (s : State) (cx : Nat) (b : List Byte) : List (Piece × Spot) :=
  let small := fun (a n : Nat) => spots s cx false (pieces a 0 n (n / 32 + 2) 0 n)
  match pkOp b with
  | 1 => small (leAt b 32 8) (8 * leAt b 47 1)
  | 2 => small (leAt b 24 8) 64
  | 3 => rangeSpots s cx false (leAt b 16 8) (leAt b 40 8)
  | 5 => rangeSpots s cx false (leAt b 16 8) (leAt b 40 8)
  | _ => []

/-- A command whose host bytes do not come faults at the first of them. -/
def cmdHostFault (s : State) (q idx : Nat) : State :=
  match cmdAt s q idx with
  | none => s
  | some x =>
    let cx := (queue s q).ctx
    match startable s q idx (pkOp x.bytes), (cmdReads s cx x.bytes).find? (fun p => match p.2 with | .host _ => true | _ => false) with
    | some _, some p => if x.stale || gateErr s x then s else cmdFault s q idx cx 5 p.1.addr
    | _, _ => s

/-- A read of host memory has no completion within 50 ms. -/
def hostTimeout (s : State) (o : HostRead) : State :=
  match o with
  | .acc c gs id => (match accAt s c gs id with
      | some a => (match a.dest with | .host _ => lateFault s c gs a 1 | _ => s)
      | none => s)
  | .fetch q => if running s && (queue s q).fetches && (queue s q).ring.getLsbD 0 && (ctx s (queue s q).ctx).st == 1 then fetch s q none else s
  | .cmd q idx => cmdHostFault s q idx
  | .tm c => (match (core s c).tmRun with | some r => if r.host.isEmpty then s else tmHostFault s c r | none => s)
def execHostCompletionTimeout (o : HostRead) (s : State) : Res := .next (hostTimeout s o)

end Sys2Proof.Machine
end

