-- ==== Sys2Proof/Machine/Flags.lean ====
section
/-! DEFINITION. Predicate results. The block has no flag register: its compares write predicate registers (R28, R77). -/

namespace Sys2Proof.Machine

/-- ISETP on two 32-bit values: OPMOD [2:0] is the test, [3] unsigned (R77). -/
def isetpTest (opmod a b : Nat) : Bool :=
  let sg := !bit opmod 3
  let x := intVal 32 sg a
  let y := intVal 32 sg b
  let op := opmod % 8
  if op = 0 then x == y else if op = 1 then x != y else if op = 2 then decide (x < y) else if op = 3 then decide (x ≤ y)
  else if op = 4 then decide (y < x) else decide (y ≤ x)

/-- FSETP and DSETP (R77, R140): OPMOD [3] changes nothing between floating-point values. -/
def fsetpTest (f : Fmt) (opmod a b : Nat) : Bool := (f.dec a).test (opmod % 8) (f.dec b)

/-- PLOP: bit 2 * pA + pB of the truth table (R77). -/
def plopBit (table : Nat) (pa pb : Bool) : Bool := bit table (2 * pa.toNat + pb.toNat)

end Sys2Proof.Machine
end

