-- ==== Sys2Proof/Machine/Move.lean ====
section
/-! DEFINITION. Compare and move instructions, majors 0x06 and 0x07 (R71, R77, R78, R140). -/

namespace Sys2Proof.Machine

/-! ## Compare -/

def shCmp (n : Nat) : Shape := ⟨.p, .v n, .v n, .un, .b, 15, .vec⟩

/-- pD := test a b; tests 6 and 7 are reserved. -/
def cmpBin (n : Nat) (test : Nat → Nat → Bool) (x : Issue) (s : State) : Res :=
  let sh := shCmp n
  issueLanes sh (x.f.opmod.toNat % 8 < 6) x s (fun g t =>
    g.setP t x.f.dst.toNat (test (srcA sh x.f g t n) (srcB sh x.f g t n)))

def execIsetp (x : Issue) (s : State) : Res := cmpBin 1 (isetpTest x.f.opmod.toNat) x s
def execFsetp (x : Issue) (s : State) : Res := cmpBin 1 (fsetpTest binary32 x.f.opmod.toNat) x s
def execDsetp (x : Issue) (s : State) : Res := cmpBin 2 (fsetpTest binary64 x.f.opmod.toNat) x s

def execPlop (x : Issue) (s : State) : Res :=
  issueLanes ⟨.p, .p, .p, .un, .none, 15, .vec⟩ true x s (fun g t =>
    g.setP t x.f.dst.toNat (plopBit x.f.opmod.toNat (g.p t x.f.srca.toNat) (g.p t x.f.srcb.toNat)))

/-! ## Move -/

def shMov : Shape := ⟨.v 1, .v 1, .un, .un, .a, 0, .vec⟩
def execMov (x : Issue) (s : State) : Res :=
  issueLanes shMov true x s (fun g t => setDst x.f g t 1 (srcA shMov x.f g t 1))

/-- SEL's source c is a predicate whatever IC holds (DEDUCED, assumption 12). -/
def shSel : Shape := ⟨.v 1, .v 1, .v 1, .p, .a, 0, .vec⟩
def execSel (x : Issue) (s : State) : Res :=
  issueLanes shSel true x s (fun g t =>
    setDst x.f g t 1 (if g.p t x.f.srcc.toNat then srcA shSel x.f g t 1 else srcB shSel x.f g t 1))

/-- Special source of index `i` for thread `t` (R71). -/
def special (s : State) (x : Issue) (t i : Nat) : Nat :=
  let g := grp s x.core x.gslot
  if i = 0 then t else if i = 1 then g.gid else if i = 2 then g.team else if i = 3 then x.core
  else if i = 4 then chipNo s else if i = 5 then s.time.ft else if i = 6 then g.ctx else g.tag % 65536

def execMovS (x : Issue) (s : State) : Res :=
  let i := x.f.srca.toNat
  let n := if i = 5 then 2 else 1
  issue ⟨.v n, .un, .un, .un, .none, 0, .vec⟩ (i < 8) true x s (fun s _ act =>
    setGrp s x.core x.gslot (act.foldl (fun g t => setDst x.f g t n (special s x t i)) (grp s x.core x.gslot)))

/-! ## Across threads (R78) -/

/-- Vector register `r` of threads `ts` is owed by no outstanding access (R75). -/
def regSettled (g : Group) (ts : List Nat) (r : Nat) : Bool :=
  r == 255 || g.accs.all (fun a => a.kind == .uload || !(ts.contains a.th) || !(meets (r, 1) a.owed))

/-- The thread that lane `t` of a SHFL reads. -/
def shflFrom (f : Fields) (g : Group) (t : Nat) : Nat := srcB ⟨.v 1, .v 1, .v 1, .un, .none, 0, .vec⟩ f g t 1 % 32

/-- The value that lane `t` of a SHFL receives, from the group as it stood. -/
def shflVal (f : Fields) (g : Group) (t : Nat) : W32 :=
  if f.ua then (g.u f.srca.toNat).setWidth 32 else g.v (shflFrom f g t) f.srca.toNat

def execShfl (x : Issue) (s : State) : Res :=
  let sh : Shape := ⟨.v 1, .v 1, .v 1, .un, .none, 0, .vec⟩
  let own : Shape := { sh with a := if x.f.ua then .v 1 else .un }
  issueBad sh true (x.f.ua || regSettled (grp s x.core x.gslot) lanes x.f.srca.toNat)
    (fun g act => act.filter (fun t => (poisonedReads own x.f g [t]) != []
      || (!x.f.ua && SMap.get false g.vpoison (256 * shflFrom x.f g t + x.f.srca.toNat)))) x s
    (fun s _ act =>
      let old := grp s x.core x.gslot
      setGrp s x.core x.gslot (act.foldl (fun g t => g.setV t x.f.dst.toNat (shflVal x.f old t)) old))

/-- VOTE.ANY, VOTE.ALL: `q` combines pA over the acting threads. -/
def vote (q : (Nat → Bool) → List Nat → Bool) (x : Issue) (s : State) : Res :=
  issue ⟨.p, .p, .un, .un, .none, 0, .vec⟩ true true x s (fun s _ act =>
    let g := grp s x.core x.gslot
    let r := q (fun t => g.p t x.f.srca.toNat) act
    setGrp s x.core x.gslot (act.foldl (fun g t => g.setP t x.f.dst.toNat r) g))

def execVoteAny (x : Issue) (s : State) : Res := vote (fun p l => l.any p) x s
def execVoteAll (x : Issue) (s : State) : Res := vote (fun p l => l.all p) x s
def execVoteBallot (x : Issue) (s : State) : Res :=
  issue ⟨.v 1, .p, .un, .un, .none, 0, .vec⟩ true true x s (fun s _ act =>
    let g := grp s x.core x.gslot
    let m := maskOf (act.filter (fun t => g.p t x.f.srca.toNat))
    setGrp s x.core x.gslot (act.foldl (fun g t => g.setV t x.f.dst.toNat (BitVec.ofNat 32 m)) g))

end Sys2Proof.Machine
end

