-- ==== Sys2Proof/Machine/Serve.lean ====
section
/-! DEFINITION. The order in which the Box Office serves partitions and queues (R332), and the commands of a queue as they start. -/

namespace Sys2Proof.Machine

/-! ## Whose turn it is (R332) -/

/-- The opcode's own conditions hold, as far as the chip decides them. -/
def ownReady (s : State) (q : Nat) (c : Cmd) : Bool :=
  let cx := (queue s q).ctx
  match pkOp c.bytes with
  | 2 => streamDecide s q c.idx cx [] c.bytes != .wait
  | 8 => mapReady s cx c.bytes
  | 11 => collDecide s q c.idx cx c.bytes != .wait
  | _ => true

/-- The queue has a command able to start. -/
def ableQueue (s : State) (q : Nat) : Bool :=
  match (queue s q).cmds.find? Cmd.isWaiting with
  | some c => (startable s q c.idx (pkOp c.bytes)).isSome && (c.stale || gateErr s c || ownReady s q c)
  | none => false

/-- The queues able to start a command, rising, and their partition. -/
def ableQueues (s : State) : List Nat := (s.box.queues.map (fun (x : Nat × Queue) => x.1)).filter (ableQueue s)
def partOf (s : State) (q : Nat) : Nat := (ctx s (queue s q).ctx).part

/-- The first of a rising list after `last`, and from its start again. -/
def nextAfter (l : List Nat) (last : Nat) : Option Nat := (l.find? (fun x => decide (last < x))).or l.head?

/-- The partition served next: in turn, of those with a queue able to start a command. -/
def partNext (s : State) : Option Nat :=
  let l := ableQueues s
  nextAfter ((upTo 0 8).filter (fun p => l.any (fun q => partOf s q == p))) s.box.lastPart

/-- The queue served last in a partition, and how many commands it has started in its round. -/
def roundOf (s : State) (p : Nat) : Nat × Nat := SMap.get (65536, 0) s.box.served p

/-- The queue that a partition serves next: the one in its round while it may start more, up to 2^priority; else the next in ascending
number (the order within a round is the model's, assumption 128). -/
def queueNext (s : State) (p : Nat) : Option Nat :=
  let l := (ableQueues s).filter (fun q => partOf s q == p)
  let r := roundOf s p
  if l.contains r.1 && decide (r.2 < 2 ^ (queue s r.1).prio) then some r.1 else nextAfter l r.1

/-- It is the queue's turn; a queue without a command able to start takes no turn. -/
def servesNow (s : State) (q : Nat) : Bool :=
  !ableQueue s q || (match partNext s with | some p => p == partOf s q && queueNext s p == some q | none => false)

/-- The queue has started one more command. -/
def markServed (s : State) (q p : Nat) : State :=
  let r := roundOf s p
  let n := if r.1 = q ∧ r.2 < 2 ^ (queue s q).prio then r.2 + 1 else 1
  { s with box := { s.box with lastPart := p, served := SMap.put (65536, 0) s.box.served p (q, n) } }

/-- `f` starts the command in its queue's turn, and is then counted. -/
def inOrderOf (s : State) (q idx : Nat) (f : State → State) : State :=
  if !servesNow s q then s else
  let t := f s
  if (cmdAt s q idx).any Cmd.isWaiting && !(cmdAt t q idx).any Cmd.isWaiting then markServed t q (partOf s q) else t

/-! ## The commands of a queue -/

def execLaunch (q idx : Nat) (host : List Byte) (s : State) : Res := .next (inOrderOf s q idx (launchStart q idx host))
def execStream (q idx : Nat) (host : List Byte) (s : State) : Res := .next (inOrderOf s q idx (streamStart q idx host))
def execCopy (q idx : Nat) (host : List Byte) (s : State) : Res := .next (inOrderOf s q idx (copyStart q idx host))
def execFill (q idx : Nat) (host : List Byte) (s : State) : Res := .next (inOrderOf s q idx (fillStart q idx host))
def execPack (q idx : Nat) (host : List Byte) (s : State) : Res := .next (inOrderOf s q idx (packStart q idx host))
def execSignal (q idx : Nat) (s : State) : Res := .next (inOrderOf s q idx (signalStart q idx))
def execWait (q idx : Nat) (s : State) : Res := .next (inOrderOf s q idx (waitStart q idx))
def execMap (q idx : Nat) (s : State) : Res := .next (inOrderOf s q idx (mapStart q idx))
def execUnmap (q idx : Nat) (s : State) : Res := .next (inOrderOf s q idx (unmapStart q idx))
def execRelease (q idx : Nat) (s : State) : Res := .next (inOrderOf s q idx (releaseStart q idx))
def execCollective (q idx : Nat) (s : State) : Res := .next (inOrderOf s q idx (collStart q idx))
def execTagCancel (q idx : Nat) (s : State) : Res := .next (inOrderOf s q idx (cancelStart q idx))
def execNopCommand (q idx : Nat) (s : State) : Res := .next (inOrderOf s q idx (nopStart q idx))

end Sys2Proof.Machine
end

