-- ==== Sys2Proof/Machine/TileLoad.lean ====
section
/-! DEFINITION. LD.T, which may read tile memory while an engine of the core writes it (R47, R80, R119, R205, R210, R231). -/

namespace Sys2Proof.Machine

/-- Where in the image of a copy the bytes at packed positions [lo, lo + n) go: whole groups where it unpacks. -/
def TmCmd.span (k : TmCmd) (lo n : Nat) : Nat × Nat :=
  if k.unpack = 0 then (lo, n) else
  let g := mxGroup k.unpack
  (lo / g * 2048, (ceilDiv (lo + n) g - lo / g) * 2048)

/-- The ranges of tile memory that the engine commands in progress on a core write for groups of team slot `ts`. -/
def engineWrites (k : Core) (ts : Nat) : List (Nat × Nat) :=
  let team := fun gs => (SMap.get Group.empty k.groups gs).tslot == ts
  k.mxRuns.flatMap (fun r => if team r.cmd.gslot then mxWrites r.cmd else [])
  ++ (match k.tmRun with
   | some r => if !r.cmd.put && team r.cmd.gslot then [(r.cmd.a.toNat + r.cmd.moved, (r.cmd.span 0 r.src.length).2)] else []
   | none => [])

/-- Tile memory with what the matrix runs in progress write. -/
def runsDone (s : State) (c : Nat) : State :=
  (core s c).mxRuns.foldl (fun s r => if r.cmd.kind = .run then mxVecs s c r (runK r.cmd.c.toNat) else s) s

/-- Tile memory with what the copy in progress writes; places whose bytes have not come yet keep what they hold. -/
def copyDone' (s : State) (c : Nat) (r : TmRun) : State :=
  let k := r.cmd
  let ts := (grp s c k.gslot).tslot
  let open' := (r.wait.map Prod.snd ++ r.host).map (fun q => k.span q.1 q.2)
  open'.foldl (fun s' q => tileWrite s' c ts (k.a.toNat + k.moved + q.1) (tileRead s c ts (k.a.toNat + k.moved + q.1) q.2) (fun _ => false))
    (writeImage s c r (k.image r.src))

/-- The state in which the engine commands in progress on a core have written their results. -/
def engineNext (s : State) (c : Nat) : State :=
  match (core s c).tmRun with
  | some r => if r.cmd.put then s else copyDone' s c r
  | none => runsDone s c

/-- The bytes at `off` as a thread reads them: each aligned word that an engine command in progress writes is old or new (R205, R231). -/
def racedRead (s : State) (c ts off n : Nat) : List Byte :=
  if (engineWrites (core s c) ts).any (fun r => overlaps (off / 4 * 4) (n + off % 4) r.1 r.2) then
    let lo := off / 4 * 4
    let next := engineNext s c
    (((upTo 0 (ceilDiv (off + n - lo) 4)).flatMap (fun i =>
      mixWord s (lo / 4 + i) (tileRead s c ts (lo + 4 * i) 4) (tileRead next c ts (lo + 4 * i) 4))).drop (off - lo)).take n
  else tileRead s c ts off n

def ldtLane (x : Issue) (old : Group) (s : State) (t : Nat) : LaneRes :=
  let n := accSize x.f
  let a := tileAddr x.f old t n
  let ts := old.tslot
  if a.toNat % n ≠ 0 then .fault 3 (some a)
  else if tileSize (tm s x.core ts) ≤ a.toNat then .fault 1 (some a)
  else if tileBad s x.core ts a.toNat n then .fault 8 (some a)
  else
    let g := grp s x.core x.gslot
    let v := ofLE (forwardTile g t a.toNat (racedRead s x.core ts a.toNat n))
    .ok (setGrp (useFree s) x.core x.gslot (if n < 4 then g.setV t x.f.dst.toNat (BitVec.ofNat 32 (if sxOf x.f then sext (8 * n) 32 v else v))
      else if x.f.dst = 0xFF then g
      else (upTo 0 (n / 4)).foldl (fun g i => g.setV t (x.f.dst.toNat + i) (BitVec.ofNat 32 (v / 2 ^ (32 * i)))) g))
def execLdT (x : Issue) (s : State) : Res := tileExec (shLdT x.f) (accOk x.f) x s (ldtLane x)

end Sys2Proof.Machine
end

