-- ==== Sys2Proof/Machine/Uniform.lean ====
section
/-! DEFINITION. Uniform instructions, major 0x02, but for ULD.G (R71, R73, R78). -/

namespace Sys2Proof.Machine

def shUBin (mods : Nat) : Shape := ⟨.u, .u, .u, .un, .b, mods, .uni⟩

/-- uD := fn width a b; a 32-bit result is zero-extended (R69). -/
def uniBin (mods : Nat) (fn : Nat → Nat → Nat → Nat) (x : Issue) (s : State) : Res :=
  let n := wN x.f
  let sh := shUBin mods
  issueUni sh true x s (fun _ g => BitVec.ofNat 64 (fn (32 * n) (srcA sh x.f g 0 n) (srcB sh x.f g 0 n)))

def shUmov : Shape := ⟨.u, .u, .un, .un, .a, 1, .uni⟩
/-- OPMOD [0] selects 64 bits (R73; DEDUCED, assumption 13: although MOV, whose OPMOD it reads, names none). -/
def execUmov (x : Issue) (s : State) : Res :=
  issueUni shUmov true x s (fun _ g => BitVec.ofNat 64 (srcA shUmov x.f g 0 (wN x.f)))
def execUiadd (x : Issue) (s : State) : Res := uniBin 3 iAdd x s
def execUisub (x : Issue) (s : State) : Res := uniBin 3 iSub x s
def execUimul (x : Issue) (s : State) : Res := uniBin 7 (fun w => iMul w (opSg x.f) (opHi x.f)) x s
def execUand (x : Issue) (s : State) : Res := uniBin 3 (fun _ a b => a &&& b) x s
def execUor (x : Issue) (s : State) : Res := uniBin 3 (fun _ a b => a ||| b) x s
def execUshl (x : Issue) (s : State) : Res := uniBin 3 iShl x s
def execUshr (x : Issue) (s : State) : Res := uniBin 3 (fun w => iShr w (opSg x.f)) x s

/-- sr.tid is illegal here (R71). -/
def execUmovS (x : Issue) (s : State) : Res :=
  let i := x.f.srca.toNat
  issueUni ⟨.u, .un, .un, .un, .none, 0, .uni⟩ (0 < i && i < 8) x s (fun s _ => BitVec.ofNat 64 (special s x 0 i))

/-- vA of thread i, whatever its state; IC must be 1 and i 0 to 31. -/
def execUrdlane (x : Issue) (s : State) : Res :=
  let i := x.f.srcc.toNat
  let r := x.f.srca.toNat
  issueBad ⟨.u, .v 1, .un, .un, .none, 0, .uni⟩ (x.f.ic && i < 32) (regSettled (grp s x.core x.gslot) [i] r)
    (fun g act => if r != 255 && SMap.get false g.vpoison (256 * i + r) then act else []) x s
    (fun s _ _ =>
      let g := grp s x.core x.gslot
      setGrp s x.core x.gslot (g.setU x.f.dst.toNat ((g.v i r).setWidth 64)))

end Sys2Proof.Machine
end

