-- ==== Sys2Proof/Machine/Dispatch.lean ====
section
/-! DEFINITION. One arm per command: a direct call of its meaning. -/

namespace Sys2Proof.Machine

/-- The effect of a command on everything but the queue. -/
def exec (i : Instr) (s : State) : Host.Outcome State Fault Refusal :=
  match i with
  | .iadd x => Sys2Proof.Machine.execIadd x s
  | .isub x => Sys2Proof.Machine.execIsub x s
  | .imul x => Sys2Proof.Machine.execImul x s
  | .imad x => Sys2Proof.Machine.execImad x s
  | .imin x => Sys2Proof.Machine.execImin x s
  | .imax x => Sys2Proof.Machine.execImax x s
  | .iabs x => Sys2Proof.Machine.execIabs x s
  | .and_ x => Sys2Proof.Machine.execAnd x s
  | .or_ x => Sys2Proof.Machine.execOr x s
  | .xor x => Sys2Proof.Machine.execXor x s
  | .not_ x => Sys2Proof.Machine.execNot x s
  | .shl x => Sys2Proof.Machine.execShl x s
  | .shr x => Sys2Proof.Machine.execShr x s
  | .popc x => Sys2Proof.Machine.execPopc x s
  | .clz x => Sys2Proof.Machine.execClz x s
  | .umov x => Sys2Proof.Machine.execUmov x s
  | .uiadd x => Sys2Proof.Machine.execUiadd x s
  | .uisub x => Sys2Proof.Machine.execUisub x s
  | .uimul x => Sys2Proof.Machine.execUimul x s
  | .uand x => Sys2Proof.Machine.execUand x s
  | .uor x => Sys2Proof.Machine.execUor x s
  | .ushl x => Sys2Proof.Machine.execUshl x s
  | .ushr x => Sys2Proof.Machine.execUshr x s
  | .umovS x => Sys2Proof.Machine.execUmovS x s
  | .urdlane x => Sys2Proof.Machine.execUrdlane x s
  | .uldG x => Sys2Proof.Machine.execUldG x s
  | .fadd x => Sys2Proof.Machine.execFadd x s
  | .fmul x => Sys2Proof.Machine.execFmul x s
  | .ffma x => Sys2Proof.Machine.execFfma x s
  | .fmin x => Sys2Proof.Machine.execFmin x s
  | .fmax x => Sys2Proof.Machine.execFmax x s
  | .fdiv x => Sys2Proof.Machine.execFdiv x s
  | .fsqrt x => Sys2Proof.Machine.execFsqrt x s
  | .frcp x => Sys2Proof.Machine.execFrcp x s
  | .frsq x => Sys2Proof.Machine.execFrsq x s
  | .fexp2 x => Sys2Proof.Machine.execFexp2 x s
  | .flog2 x => Sys2Proof.Machine.execFlog2 x s
  | .fsin x => Sys2Proof.Machine.execFsin x s
  | .fcos x => Sys2Proof.Machine.execFcos x s
  | .dadd x => Sys2Proof.Machine.execDadd x s
  | .dmul x => Sys2Proof.Machine.execDmul x s
  | .dfma x => Sys2Proof.Machine.execDfma x s
  | .dmin x => Sys2Proof.Machine.execDmin x s
  | .dmax x => Sys2Proof.Machine.execDmax x s
  | .ddiv x => Sys2Proof.Machine.execDdiv x s
  | .dsqrt x => Sys2Proof.Machine.execDsqrt x s
  | .f2f x => Sys2Proof.Machine.execF2f x s
  | .f2i x => Sys2Proof.Machine.execF2i x s
  | .i2f x => Sys2Proof.Machine.execI2f x s
  | .i2i x => Sys2Proof.Machine.execI2i x s
  | .isetp x => Sys2Proof.Machine.execIsetp x s
  | .fsetp x => Sys2Proof.Machine.execFsetp x s
  | .dsetp x => Sys2Proof.Machine.execDsetp x s
  | .plop x => Sys2Proof.Machine.execPlop x s
  | .mov x => Sys2Proof.Machine.execMov x s
  | .movS x => Sys2Proof.Machine.execMovS x s
  | .sel x => Sys2Proof.Machine.execSel x s
  | .shfl x => Sys2Proof.Machine.execShfl x s
  | .voteAny x => Sys2Proof.Machine.execVoteAny x s
  | .voteAll x => Sys2Proof.Machine.execVoteAll x s
  | .voteBallot x => Sys2Proof.Machine.execVoteBallot x s
  | .ldG x => Sys2Proof.Machine.execLdG x s
  | .stG x => Sys2Proof.Machine.execStG x s
  | .ldT x => Sys2Proof.Machine.execLdT x s
  | .stT x => Sys2Proof.Machine.execStT x s
  | .ldIo x => Sys2Proof.Machine.execLdIo x s
  | .stIo x => Sys2Proof.Machine.execStIo x s
  | .cleanL1 x => Sys2Proof.Machine.execCleanL1 x s
  | .invL1 x => Sys2Proof.Machine.execInvL1 x s
  | .atomAdd x => Sys2Proof.Machine.execAtomAdd x s
  | .atomMin x => Sys2Proof.Machine.execAtomMin x s
  | .atomMax x => Sys2Proof.Machine.execAtomMax x s
  | .atomExch x => Sys2Proof.Machine.execAtomExch x s
  | .atomCas x => Sys2Proof.Machine.execAtomCas x s
  | .barG x => Sys2Proof.Machine.execBarG x s
  | .barT x => Sys2Proof.Machine.execBarT x s
  | .fenceCore x => Sys2Proof.Machine.execFenceCore x s
  | .fenceChip x => Sys2Proof.Machine.execFenceChip x s
  | .fenceSys x => Sys2Proof.Machine.execFenceSys x s
  | .fenceIo x => Sys2Proof.Machine.execFenceIo x s
  | .waitf x => Sys2Proof.Machine.execWaitf x s
  | .waitfTimeout core gslot th => Sys2Proof.Machine.execWaitfTimeout core gslot th s
  | .sigf x => Sys2Proof.Machine.execSigf x s
  | .bra x => Sys2Proof.Machine.execBra x s
  | .braR x => Sys2Proof.Machine.execBraR x s
  | .call x => Sys2Proof.Machine.execCall x s
  | .callR x => Sys2Proof.Machine.execCallR x s
  | .ret x => Sys2Proof.Machine.execRet x s
  | .exit_ x => Sys2Proof.Machine.execExit x s
  | .yield x => Sys2Proof.Machine.execYield x s
  | .trap x => Sys2Proof.Machine.execTrap x s
  | .brk x => Sys2Proof.Machine.execBrk x s
  | .nop x => Sys2Proof.Machine.execNop x s
  | .mxLoadw x => Sys2Proof.Machine.execMxLoadw x s
  | .mxSwap x => Sys2Proof.Machine.execMxSwap x s
  | .mxRun x => Sys2Proof.Machine.execMxRun x s
  | .mxDrain x => Sys2Proof.Machine.execMxDrain x s
  | .tmGet x => Sys2Proof.Machine.execTmGet x s
  | .tmPut x => Sys2Proof.Machine.execTmPut x s
  | .tmWait x => Sys2Proof.Machine.execTmWait x s
  | .alloc x => Sys2Proof.Machine.execAlloc x s
  | .allocResult core gslot id region => Sys2Proof.Machine.execAllocResult core gslot id region s
  | .free x => Sys2Proof.Machine.execFree x s
  | .claimTake core => Sys2Proof.Machine.execClaimTake core s
  | .matrixCommandStart core => Sys2Proof.Machine.execMatrixCommandStart core s
  | .matrixCommandComplete core => Sys2Proof.Machine.execMatrixCommandComplete core s
  | .tileMoverCommandStart core => Sys2Proof.Machine.execTileMoverCommandStart core s
  | .tileMoverCommandComplete core host => Sys2Proof.Machine.execTileMoverCommandComplete core host s
  | .loadGrant => Sys2Proof.Machine.execLoadGrant s
  | .loadReturn core gslot id host errs => Sys2Proof.Machine.execLoadReturn core gslot id host errs s
  | .icacheFill core gslot pc => Sys2Proof.Machine.execIcacheFill core gslot pc s
  | .breakpointHalt core gslot pc => Sys2Proof.Machine.execBreakpointHalt core gslot pc s
  | .barrierWatchdogExpiry core team slot => Sys2Proof.Machine.execBarrierWatchdogExpiry core team slot s
  | .faultRecordWrite core => Sys2Proof.Machine.execFaultRecordWrite core s
  | .faultRecordCopy core => Sys2Proof.Machine.execFaultRecordCopy core s
  | .halt fn core gslot => Sys2Proof.Machine.execHalt fn core gslot s
  | .groupHalted core gslot => Sys2Proof.Machine.execGroupHalted core gslot s
  | .resume fn core gslot => Sys2Proof.Machine.execResume fn core gslot s
  | .step fn core gslot stepsel => Sys2Proof.Machine.execStep fn core gslot stepsel s
  | .stepRetire core gslot => Sys2Proof.Machine.execStepRetire core gslot s
  | .teamAdmit part => Sys2Proof.Machine.execTeamAdmit part s
  | .preemptTeam core tslot why => Sys2Proof.Machine.execPreemptTeam core tslot why s
  | .teamSaved core tslot => Sys2Proof.Machine.execTeamSaved core tslot s
  | .teamRestore core idx => Sys2Proof.Machine.execTeamRestore core idx s
  | .quantumExpiry part => Sys2Proof.Machine.execQuantumExpiry part s
  | .gets core line => Sys2Proof.Machine.execGets core line s
  | .getx core line => Sys2Proof.Machine.execGetx core line s
  | .putm core line => Sys2Proof.Machine.execPutm core line s
  | .l1BypassRead core gslot id => Sys2Proof.Machine.execL1BypassRead core gslot id s
  | .l1BypassWrite core gslot id => Sys2Proof.Machine.execL1BypassWrite core gslot id s
  | .atomicAtHome core gslot id => Sys2Proof.Machine.execAtomicAtHome core gslot id s
  | .recall core line => Sys2Proof.Machine.execRecall core line s
  | .forward core line => Sys2Proof.Machine.execForward core line s
  | .directoryAnswer core line => Sys2Proof.Machine.execDirectoryAnswer core line s
  | .recallTimeout core line => Sys2Proof.Machine.execRecallTimeout core line s
  | .agentProbe die line => Sys2Proof.Machine.execAgentProbe die line s
  | .agentWrite addr data poisoned => Sys2Proof.Machine.execAgentWrite addr data poisoned s
  | .poolEntryGrant die waiting freed => Sys2Proof.Machine.execPoolEntryGrant die waiting freed s
  | .patrolScrub granule corrected uncorrectable => Sys2Proof.Machine.execPatrolScrub granule corrected uncorrectable s
  | .chipFatalError code type inst addr => Sys2Proof.Machine.execChipFatalError code type inst addr s
  | .partitionError kind number => Sys2Proof.Machine.execPartitionError kind number s
  | .d2dFlitCrcFail port => Sys2Proof.Machine.execD2dFlitCrcFail port s
  | .d2dRetrain port lostLock => Sys2Proof.Machine.execD2dRetrain port lostLock s
  | .d2dRetrainComplete port ok => Sys2Proof.Machine.execD2dRetrainComplete port ok s
  | .packetFetch q host => Sys2Proof.Machine.execPacketFetch q host s
  | .launch q idx host => Sys2Proof.Machine.execLaunch q idx host s
  | .stream q idx host => Sys2Proof.Machine.execStream q idx host s
  | .copy q idx host => Sys2Proof.Machine.execCopy q idx host s
  | .fill q idx host => Sys2Proof.Machine.execFill q idx host s
  | .pack q idx host => Sys2Proof.Machine.execPack q idx host s
  | .packGranuleReturn ctx pa => Sys2Proof.Machine.execPackGranuleReturn ctx pa s
  | .signal q idx => Sys2Proof.Machine.execSignal q idx s
  | .wait q idx => Sys2Proof.Machine.execWait q idx s
  | .waitTimeout q idx => Sys2Proof.Machine.execWaitTimeout q idx s
  | .map_ q idx => Sys2Proof.Machine.execMap q idx s
  | .unmap q idx => Sys2Proof.Machine.execUnmap q idx s
  | .release q idx => Sys2Proof.Machine.execRelease q idx s
  | .pinDrop ctx handle => Sys2Proof.Machine.execPinDrop ctx handle s
  | .collective q idx => Sys2Proof.Machine.execCollective q idx s
  | .tagCancel q idx => Sys2Proof.Machine.execTagCancel q idx s
  | .nopCommand q idx => Sys2Proof.Machine.execNopCommand q idx s
  | .commandCompletion q idx => Sys2Proof.Machine.execCommandCompletion q idx s
  | .doorbellWrite fn q value => Sys2Proof.Machine.execDoorbellWrite fn q value s
  | .ctxCreate fn page => Sys2Proof.Machine.execCtxCreate fn page s
  | .ctxKill fn page => Sys2Proof.Machine.execCtxKill fn page s
  | .qCreate fn page => Sys2Proof.Machine.execQCreate fn page s
  | .qDestroy fn page => Sys2Proof.Machine.execQDestroy fn page s
  | .fenAssign fn page => Sys2Proof.Machine.execFenAssign fn page s
  | .fenShare fn page => Sys2Proof.Machine.execFenShare fn page s
  | .fenUnshare fn page => Sys2Proof.Machine.execFenUnshare fn page s
  | .ctxQuery fn page => Sys2Proof.Machine.execCtxQuery fn page s
  | .barkerTileRead die slot => Sys2Proof.Machine.execBarkerTileRead die slot s
  | .readTagGrant die waiting freed => Sys2Proof.Machine.execReadTagGrant die waiting freed s
  | .tileReady slot => Sys2Proof.Machine.execTileReady slot s
  | .boundaryEvent slot => Sys2Proof.Machine.execBoundaryEvent slot s
  | .write p => Sys2Proof.Machine.execWrite p s
  | .read_ p => Sys2Proof.Machine.execRead p s
  | .atomic p => Sys2Proof.Machine.execAtomic p s
  | .sigfPacket p => Sys2Proof.Machine.execSigfPacket p s
  | .resp p => Sys2Proof.Machine.execResp p s
  | .coll port p => Sys2Proof.Machine.execColl port p s
  | .mcast port p => Sys2Proof.Machine.execMcast port p s
  | .mgmt port msg => Sys2Proof.Machine.execMgmt port msg s
  | .flitReceive port flit => Sys2Proof.Machine.execFlitReceive port flit s
  | .ackTimeout port => Sys2Proof.Machine.execAckTimeout port s
  | .fastRetrainComplete port ok => Sys2Proof.Machine.execFastRetrainComplete port ok s
  | .retryResend id => Sys2Proof.Machine.execRetryResend id s
  | .remoteRequestTimeout id => Sys2Proof.Machine.execRemoteRequestTimeout id s
  | .windowCloseExpiry entry => Sys2Proof.Machine.execWindowCloseExpiry entry s
  | .portTrainingComplete port loopNs => Sys2Proof.Machine.execPortTrainingComplete port loopNs s
  | .riggingAnnouncement port chip aport major minor members => Sys2Proof.Machine.execRiggingAnnouncement port chip aport major minor members s
  | .riggingDarkTimeout port => Sys2Proof.Machine.execRiggingDarkTimeout port s
  | .linkSignalLoss port => Sys2Proof.Machine.execLinkSignalLoss port s
  | .planChange => Sys2Proof.Machine.execPlanChange s
  | .planPortDown port => Sys2Proof.Machine.execPlanPortDown port s
  | .retrain fn port => Sys2Proof.Machine.execRetrain fn port s
  | .disable fn port b => Sys2Proof.Machine.execDisable fn port b s
  | .accept fn port => Sys2Proof.Machine.execAccept fn port s
  | .prbsModeWrite fn port mode => Sys2Proof.Machine.execPrbsModeWrite fn port mode s
  | .linkMeasurement port t1 t2 t3 t4 locked hops errest => Sys2Proof.Machine.execLinkMeasurement port t1 t2 t3 t4 locked hops errest s
  | .servoUpdate => Sys2Proof.Machine.execServoUpdate s
  | .grandmasterTimeout => Sys2Proof.Machine.execGrandmasterTimeout s
  | .ptmDialogue ht ft => Sys2Proof.Machine.execPtmDialogue ht ft s
  | .scheduledCommit page => Sys2Proof.Machine.execScheduledCommit page s
  | .counterSample part => Sys2Proof.Machine.execCounterSample part s
  | .slotOpen slot => Sys2Proof.Machine.execSlotOpen slot s
  | .abortNotice reason => Sys2Proof.Machine.execAbortNotice reason s
  | .cancelNotice cid => Sys2Proof.Machine.execCancelNotice cid s
  | .collectiveTimeout cid => Sys2Proof.Machine.execCollectiveTimeout cid s
  | .pieceResendTimeout cid piece port => Sys2Proof.Machine.execPieceResendTimeout cid piece port s
  | .load fn => Sys2Proof.Machine.execLoad fn s
  | .planLoadComplete => Sys2Proof.Machine.execPlanLoadComplete s
  | .blkCommit fn page => Sys2Proof.Machine.execBlkCommit fn page s
  | .blkCommitAtWrite fn page value => Sys2Proof.Machine.execBlkCommitAtWrite fn page value s
  | .blkOwnerWrite fn page value => Sys2Proof.Machine.execBlkOwnerWrite fn page value s
  | .quiesce fn page b => Sys2Proof.Machine.execQuiesce fn page b s
  | .blockQuiesced page => Sys2Proof.Machine.execBlockQuiesced page s
  | .en fn page b => Sys2Proof.Machine.execEn fn page b s
  | .fltInfoClear fn core => Sys2Proof.Machine.execFltInfoClear fn core s
  | .registerWrite fn addr size value => Sys2Proof.Machine.execRegisterWrite fn addr size value s
  | .bar0ReadTimeout write size => Sys2Proof.Machine.execBar0ReadTimeout write size s
  | .bar4Access fn off write len data => Sys2Proof.Machine.execBar4Access fn off write len data s
  | .configRequest fn what => Sys2Proof.Machine.execConfigRequest fn what s
  | .mirrorReport page => Sys2Proof.Machine.execMirrorReport page s
  | .mirrorStaleTimeout page => Sys2Proof.Machine.execMirrorStaleTimeout page s
  | .hostLinkDown port => Sys2Proof.Machine.execHostLinkDown port s
  | .perstAssert => Sys2Proof.Machine.execPerstAssert s
  | .perstDeassert => Sys2Proof.Machine.execPerstDeassert s
  | .pfFlr => Sys2Proof.Machine.execPfFlr s
  | .vfFlr n => Sys2Proof.Machine.execVfFlr n s
  | .warmReset fn key => Sys2Proof.Machine.execWarmReset fn key s
  | .mailboxGo fn => Sys2Proof.Machine.execMailboxGo fn s
  | .mctpRequest opcode seq args => Sys2Proof.Machine.execMctpRequest opcode seq args s
  | .mctpControl code eid => Sys2Proof.Machine.execMctpControl code eid s
  | .getInfo chan => Sys2Proof.Machine.execGetInfo chan s
  | .getHealth chan => Sys2Proof.Machine.execGetHealth chan s
  | .getLog chan => Sys2Proof.Machine.execGetLog chan s
  | .setPowerLimit chan => Sys2Proof.Machine.execSetPowerLimit chan s
  | .loadPlan plan => Sys2Proof.Machine.execLoadPlan plan s
  | .fwUpdate image => Sys2Proof.Machine.execFwUpdate image s
  | .secureErase chan => Sys2Proof.Machine.execSecureErase chan s
  | .selfTest chan => Sys2Proof.Machine.execSelfTest chan s
  | .scrubPartition chan => Sys2Proof.Machine.execScrubPartition chan s
  | .longOperationComplete fail found => Sys2Proof.Machine.execLongOperationComplete fail found s
  | .pldmGetSensor sensor => Sys2Proof.Machine.execPldmGetSensor sensor s
  | .pldmFirmwareUpdate image => Sys2Proof.Machine.execPldmFirmwareUpdate image s
  | .getVersion args => Sys2Proof.Machine.execGetVersion args s
  | .getCapabilities args => Sys2Proof.Machine.execGetCapabilities args s
  | .negotiateAlgorithms args => Sys2Proof.Machine.execNegotiateAlgorithms args s
  | .getDigests args => Sys2Proof.Machine.execGetDigests args s
  | .getCertificate args => Sys2Proof.Machine.execGetCertificate args s
  | .challenge args => Sys2Proof.Machine.execChallenge args s
  | .getMeasurements index => Sys2Proof.Machine.execGetMeasurements index s
  | .smbusAlertResponse won => Sys2Proof.Machine.execSmbusAlertResponse won s
  | .submit fn sigOk revoked => Sys2Proof.Machine.execSubmit fn sigOk revoked s
  | .relock fn => Sys2Proof.Machine.execRelock fn s
  | .ringmasterWatchdog => Sys2Proof.Machine.execRingmasterWatchdog s
  | .ringmasterRestartComplete => Sys2Proof.Machine.execRingmasterRestartComplete s
  | .telemetrySample tier sensors => Sys2Proof.Machine.execTelemetrySample tier sensors s
  | .junctionComparator temp => Sys2Proof.Machine.execJunctionComparator temp s
  | .thermtrip => Sys2Proof.Machine.execThermtrip s
  | .overcurrent => Sys2Proof.Machine.execOvercurrent s
  | .inletOvertemp temp => Sys2Proof.Machine.execInletOvertemp temp s
  | .undervoltage => Sys2Proof.Machine.execUndervoltage s
  | .lossOf52v => Sys2Proof.Machine.execLossOf52v s
  | .inputOvervoltage => Sys2Proof.Machine.execInputOvervoltage s
  | .pShortBreak => Sys2Proof.Machine.execPShortBreak s
  | .limiterEvaluation mean => Sys2Proof.Machine.execLimiterEvaluation mean s
  | .pwrEnAssert => Sys2Proof.Machine.execPwrEnAssert s
  | .pwrEnDeassert => Sys2Proof.Machine.execPwrEnDeassert s
  | .auxPowerOn straps perst => Sys2Proof.Machine.execAuxPowerOn straps perst s
  | .auxPowerLoss => Sys2Proof.Machine.execAuxPowerLoss s
  | .railsGood => Sys2Proof.Machine.execRailsGood s
  | .bootVerified => Sys2Proof.Machine.execBootVerified s
  | .secondaryFirmwareLoaded => Sys2Proof.Machine.execSecondaryFirmwareLoaded s
  | .hbmTrainingComplete failed => Sys2Proof.Machine.execHbmTrainingComplete failed s
  | .fabricTrainingTimeout => Sys2Proof.Machine.execFabricTrainingTimeout s
  | .serviceEntry => Sys2Proof.Machine.execServiceEntry s
  | .idleRequest fn req => Sys2Proof.Machine.execIdleRequest fn req s
  | .idleEntryComplete => Sys2Proof.Machine.execIdleEntryComplete s
  | .ftAlarm => Sys2Proof.Machine.execFtAlarm s
  | .raise fn => Sys2Proof.Machine.execRaise fn s
  | .curtainInstant => Sys2Proof.Machine.execCurtainInstant s
  | .jtagCurtain => Sys2Proof.Machine.execJtagCurtain s
  | .jtagInstruction code => Sys2Proof.Machine.execJtagInstruction code s
  | .curtainQuiet => Sys2Proof.Machine.execCurtainQuiet s
  | .lower fn => Sys2Proof.Machine.execLower fn s
  | .go fn => Sys2Proof.Machine.execGo fn s
  | .dumpComplete ok => Sys2Proof.Machine.execDumpComplete ok s
  | .take fn => Sys2Proof.Machine.execTake fn s
  | .snapshotComplete ok => Sys2Proof.Machine.execSnapshotComplete ok s
  | .carouselSelect fn value => Sys2Proof.Machine.execCarouselSelect fn value s
  | .timedCommandStart q idx => Sys2Proof.Machine.execTimedCommandStart q idx s
  | .overcurrentRelease => Sys2Proof.Machine.execOvercurrentRelease s
  | .undervoltageRelease => Sys2Proof.Machine.execUndervoltageRelease s
  | .input52vPresent => Sys2Proof.Machine.execInput52vPresent s
  | .thermtripRelease temp => Sys2Proof.Machine.execThermtripRelease temp s
  | .hostLinkTrained port rate width flit => Sys2Proof.Machine.execHostLinkTrained port rate width flit s
  | .hostCompletionTimeout owner => Sys2Proof.Machine.execHostCompletionTimeout owner s
  | .registerAccessTimeout core gslot id => Sys2Proof.Machine.execRegisterAccessTimeout core gslot id s
  | .scrubComplete what n => Sys2Proof.Machine.execScrubComplete what n s

end Sys2Proof.Machine
end

