-- ==== Sys2Proof/Machine/Tick.lean ====
section
/-! DEFINITION. The passing of time: what one step does when no command waits, one nanosecond (assumption 3). -/

namespace Sys2Proof.Machine

/-! ## Fabric time (R267, R268, R271, R273) -/

/-- On the oscillator: one ft, and while a slew is left one more or none, once in 5,000 ns: at most 200 ppm. -/
def tickOsc (t : Time) : Time :=
  let due := decide (4999 ≤ t.phase) && t.slew != 0
  let adv := if !due then 1 else if 0 < t.slew then 2 else 0
  { t with ft := (t.ft + adv) % 2 ^ 64, phase := if t.phase < 4999 then t.phase + 1 else if due then 0 else t.phase
           slew := if !due then t.slew else if 0 < t.slew then t.slew - 1 else t.slew + 1 }

/-- On the crystal: a tick every 1,953,125 / 64 ns. -/
def tickXtal (t : Time) : Time :=
  let x := t.xtal + 64
  if x < 1953125 then { t with xtal := x }
  else { t with xtal := x - 1953125, ft := (t.ft + (if 27 ≤ x - 1953125 then 30518 else 30517)) % 2 ^ 64 }

def tickFt (p : Power) (t : Time) : Time :=
  match p with | .off => t | .dormant => tickXtal t | .idle => tickOsc t | .active => tickOsc t

/-! ## Core cycles (R48, R404) -/

/-- Core cycles of this nanosecond: the Top die's clocks run in Active. -/
def newCycles (s : State) : Nat := if s.pow.power = .active then (s.time.ccAcc + clockMhz s) / 1000 else 0

/-- The clocks after the nanosecond; two of them stand still under the Curtain (R395). -/
def tickClocks (s : State) : State :=
  let n := newCycles s
  let run := (!s.dbg.raised).toNat
  let t := s.time
  { s with time := { tickFt s.pow.power t with
      ccAcc := if s.pow.power = .active then (t.ccAcc + clockMhz s) % 1000 else t.ccAcc
      cc := (t.cc + n) % 2 ^ 64, nsRun := t.nsRun + run, ccRun := t.ccRun + n * run } }

/-- A watchdog count advances; it stays at its limit until it fires. -/
def watchOn (n : Nat) (w : Option Watch) : Option Watch := w.map (fun x => { x with count := min x.limit (x.count + n) })

/-- The barrier counts of a core; those of a preempted team or with a halted participant pause. -/
def tickCore (n : Nat) (k : Core) : Core :=
  let halted := fun (gs : Nat) => (SMap.get Group.empty k.groups gs).halted
  let out := fun (ts : Nat) => (SMap.get Team.empty k.teams ts).preempt
  { k with
    groups := k.groups.map (fun (g : Nat × Group) =>
      (g.1, if g.2.halted || out g.2.tslot then g.2 else { g.2 with watch := watchOn n g.2.watch }))
    teams := k.teams.map (fun (t : Nat × Team) =>
      (t.1, if t.2.preempt || t.2.gslots.any halted then t.2 else { t.2 with watch := watchOn n t.2.watch })) }

/-- A thread of the group is in one of two states. -/
def anyIn (g : Group) (p q : ThStat) : Bool := g.threads.any (fun t => t.stat == p || t.stat == q)

/-- The cycle events of a core: 0x09 matrix engine busy, 0x0B group waiting for the claim, 0x0D tile mover waiting for a grant or a
tile, 0x0E group at a barrier, 0x0F group in WAITF. -/
def cycleEvents (n : Nat) (s : State) (c : Nat) : State :=
  let k := core s c
  let s := match k.mxRuns with | r :: _ => pmcG s c r.cmd.gslot 0x09 n | [] => s
  let s := match k.tmq with
    | x :: _ => if x.isStream && k.tmRun.isNone && k.mxRuns.isEmpty && !(k.grant && headReady s c) then pmcG s c x.gslot 0x0D n else s
    | [] => s
  k.groups.foldl (fun (s : State) (g : Nat × Group) =>
    let s := if g.2.mxWait then pmcG s c g.1 0x0B n else s
    let s := if anyIn g.2 .barG .barT then pmcG s c g.1 0x0E n else s
    if anyIn g.2 .waitF .waitF then pmcG s c g.1 0x0F n else s) s

/-- Issue slots of a core that have no eligible group. -/
def slotsIdle (s : State) (c : Nat) : Nat :=
  ((upTo 0 4).filter (fun k => (upTo 0 16).all (fun i => !eligible s c (4 * i + k)))).length

/-- What a core counts in every cycle: core cycles, and in event 0x03 issue slots with no eligible group. An idle slot is work of no
context: only a counter without a filter counts it. A core whose counters were never configured selects no event. -/
def coreCycles (n : Nat) (s : State) (c : Nat) : State :=
  let s := count s (rkey (pgCore c) 0x380) n
  if s.regs.val.any (fun (x : Nat × Option W64) => x.1 / 4096 == pgCore c) then pmcAny s c 3 (n * slotsIdle s c) else s

/-- Core cycles count on every enabled core, events where there is work; nothing counts under the Curtain (R394, R395). -/
def tickCores (n : Nat) (s : State) : State :=
  if n = 0 || s.dbg.raised || !pagesUp s then s else
  let s := (upTo 0 144).foldl (fun s c => if s.sku.core c then coreCycles n s c else s) s
  let s := s.cores.foldl (fun (s : State) (k : Nat × Core) => cycleEvents n s k.1) s
  { s with cores := s.cores.map (fun (k : Nat × Core) => (k.1, tickCore n k.2)) }

/-- A flit waits on a channel that the port carries for nothing but a credit. -/
def starved (p : Port) : Bool :=
  (upTo 0 4).any (fun vc => match headOf p vc with
    | some f => carries p.lstate vc && (takeCredit p vc (bits (hdrOf f.2) 26 24)).isNone
    | none => false)

/-- CRSTALL counts the nanoseconds in which a queued flit waits for a credit (R408). -/
def tickPorts (s : State) : State :=
  s.fab.ports.foldl (fun (s : State) (x : Nat × Port) => if starved x.2 then countPort s x.1 0x100 1 else s) s

/-! ## Work that goes on by itself -/

/-- A COPY whose parts all came while the Curtain was up writes them. -/
def pumpCopies (s : State) : State :=
  s.box.queues.foldl (fun (s : State) (x : Nat × Queue) => x.2.cmds.foldl (fun (s : State) c =>
    if c.isRunning && pkOp c.bytes == 3 && c.wait.isEmpty && !c.buf.isEmpty then copyWrite s x.1 c.idx x.2.ctx c.bytes c.buf c.bad else s) s) s

/-- Teardowns go on (R350), collectives send what they can (R288), held remote requests are served (R255), copies are written. -/
def pumpAll (s : State) : State :=
  if s.dbg.raised || s.dbg.fatal || !pagesUp s then s
  else
    let s := pumpColl (tearAll s)
    if running s then pumpCopies (pumpRemote (pumpReqs (replay s))) else s

/-- One nanosecond passes. -/
def tick (s : State) : State := let n := newCycles s; pumpAll (tickPorts (tickCores n (tickClocks s)))

end Sys2Proof.Machine
end

