-- ==== Sys2Proof/Safety.lean ====
section
/-! DEFINITION. The terms that claims use: what may differ between two states, when memory is in its canonical form, when
a thread instruction issues, and what an issue leaves alone. -/

namespace Sys2Proof.Machine

/-- A step that ends in a next state. -/
def Runs (s : State) : Prop := ∃ s', step s = .next s'

/-! ## Parts of the state -/

/-- The parts of State, one a field. -/
inductive Part
  | pending | free | sku | time | mem | regs | ctr | cores | box | streams | tags | fab | coll | pow | rm | dbg | out
  deriving DecidableEq, Repr

/-- One part is the same in two states. -/
def Part.same (k : Part) (s t : State) : Prop :=
  match k with
  | .pending => t.pending = s.pending
  | .free => t.free = s.free
  | .sku => t.sku = s.sku
  | .time => t.time = s.time
  | .mem => t.mem = s.mem
  | .regs => t.regs = s.regs
  | .ctr => t.ctr = s.ctr
  | .cores => t.cores = s.cores
  | .box => t.box = s.box
  | .streams => t.streams = s.streams
  | .tags => t.tags = s.tags
  | .fab => t.fab = s.fab
  | .coll => t.coll = s.coll
  | .pow => t.pow = s.pow
  | .rm => t.rm = s.rm
  | .dbg => t.dbg = s.dbg
  | .out => t.out = s.out

/-- From `s` to `t` only the listed parts change. -/
def Touches (l : List Part) (s t : State) : Prop := ∀ k : Part, k ∉ l → k.same s t

/-! ## Memory -/

/-- The canonical form of device memory: bytes, and poison marks of sectors (R148, R175). -/
def Memory.wf (m : Mem) : Bool := SMap.wf 0 m.hbm && SMap.wf false m.poison

/-- The L2 is in order: a line in use holds 128 bytes, lies in a way of its home slice and set, and in one way only; a sector that is
valid and not dirty holds what the stack holds, whose mark it may lack but not exceed; no way is listed twice (R158, R159, R175). -/
structure Memory.sound (m : Mem) : Prop where
  keys  : (m.l2.map (fun (x : Nat × L2Line) => x.1)).Nodup
  place : ∀ k, let x := SMap.get L2Line.empty m.l2 k
    x.used = true → k / 16 = homeOf x.line * 1024 + l2Set x.line ∧ x.data.length = 128
  marks : ∀ k, ∀ i < 4, let x := SMap.get L2Line.empty m.l2 k
    bit x.dirty i = true ∨ bit x.poison i = true → x.used = true ∧ bit x.valid i = true
  clean : ∀ k, ∀ i < 4, let x := SMap.get L2Line.empty m.l2 k
    x.used = true → bit x.valid i = true → bit x.dirty i = false → (x.data.drop (32 * i)).take 32 = SMap.getList 0 m.hbm (32 * (4 * x.line + i)) 32 ∧
      (bit x.poison i = true → SMap.get false m.poison (4 * x.line + i) = true)
  once  : ∀ j k, (SMap.get L2Line.empty m.l2 j).used = true → (SMap.get L2Line.empty m.l2 k).used = true →
    (SMap.get L2Line.empty m.l2 j).line = (SMap.get L2Line.empty m.l2 k).line → j = k

/-! ## Issue of a thread instruction -/

/-- The set at `x.pc` issues and acts for the lanes `act` (R34 to R37, R67, R72, R75, R177): the gate is open, the encoding is
legal, nothing that the instruction reads or writes is owed, and no lane reads a damaged register (`bad` lists those that do). -/
structure IssuesBad (sh : Shape) (ok : Bool) (bad : Group → List Nat → List Nat) (x : Issue) (s : State) (set act : List Nat) :
    Prop where
  gate    : gate s x = some set
  legal   : legal (grp s x.core x.gslot).nreg sh x.f = true
  own     : ok = true
  acts    : act = acting x.f (grp s x.core x.gslot) set
  settled : interlocked sh x.f (grp s x.core x.gslot) act = true
  clean   : bad (grp s x.core x.gslot) act = []

/-- The same, with the damaged registers of the operand fields. -/
abbrev Issues (sh : Shape) (ok : Bool) (x : Issue) (s : State) (set act : List Nat) : Prop :=
  IssuesBad sh ok (poisonedReads sh x.f) x s set act

/-- The threads of the issuing set that are not branched elsewhere stand at the next instruction, every other thread where it
stood, and no thread's state changes (R35, R63). -/
def MovesOn (x : Issue) (set : List Nat) (s t : State) : Prop :=
  ∀ k < 32, ((grp t x.core x.gslot).thr k).pc = (if k ∈ set then x.pc + insLen x.f else ((grp s x.core x.gslot).thr k).pc)
    ∧ ((grp t x.core x.gslot).thr k).stat = ((grp s x.core x.gslot).thr k).stat

/-- Only group `x.gslot` of core `x.core`, the counters, and the note of which group an issue slot served last change. -/
structure OnlyGroup (x : Issue) (s t : State) : Prop where
  parts  : Touches [.cores, .ctr] s t
  cores  : ∀ c, c ≠ x.core → core t c = core s c
  groups : ∀ g, g ≠ x.gslot → grp t x.core g = grp s x.core g
  rest   : core t x.core = { core s x.core with groups := (core t x.core).groups, lastIss := (core t x.core).lastIss }

/-- In the group, only threads, registers, the count of issues, and the marks of a step or breakpoint that has been passed change. -/
def OnlyRegs (x : Issue) (s t : State) : Prop :=
  let g := grp s x.core x.gslot
  let h := grp t x.core x.gslot
  h = { g with threads := h.threads, vreg := h.vreg, vpoison := h.vpoison, ureg := h.ureg, upoison := h.upoison
               stepReq := none, passBp := h.passBp, stepping := h.stepping, issues := g.issues + 1 }

/-- Vector registers other than the `n` from `r` on in the lanes `act` keep their values. -/
def VecKept (x : Issue) (act : List Nat) (r n : Nat) (s t : State) : Prop :=
  ∀ k j, k < 32 → j < 256 → ¬(k ∈ act ∧ r ≠ 255 ∧ r ≤ j ∧ j < r + n) →
    (grp t x.core x.gslot).v k j = (grp s x.core x.gslot).v k j

/-- Uniform registers keep their values. -/
def UniKept (x : Issue) (s t : State) : Prop := (grp t x.core x.gslot).ureg = (grp s x.core x.gslot).ureg

/-- Predicates other than predicate `p` of the lanes `act` keep their values. -/
def PredKept (x : Issue) (act : List Nat) (p : Option Nat) (s t : State) : Prop :=
  ∀ k j, k < 32 → j < 8 → ¬(k ∈ act ∧ p = some j) → (grp t x.core x.gslot).p k j = (grp s x.core x.gslot).p k j

/-- An instruction that writes only vector registers: it moves on, and changes only the `n` registers from `r` on in the acting
lanes. -/
structure WritesVec (x : Issue) (set act : List Nat) (r n : Nat) (s t : State) : Prop where
  only  : OnlyGroup x s t
  regs  : OnlyRegs x s t
  moves : MovesOn x set s t
  vec   : VecKept x act r n s t
  uni   : UniKept x s t
  preds : PredKept x act none s t

/-- An instruction that writes only uniform register `r`. -/
structure WritesUni (x : Issue) (set : List Nat) (r : Nat) (s t : State) : Prop where
  only  : OnlyGroup x s t
  regs  : OnlyRegs x s t
  moves : MovesOn x set s t
  vec   : VecKept x [] 255 0 s t
  uni   : ∀ j, j ≠ r → (grp t x.core x.gslot).u j = (grp s x.core x.gslot).u j
  preds : PredKept x [] none s t

/-- An instruction that writes only predicate `p` of the acting lanes. -/
structure WritesPred (x : Issue) (set act : List Nat) (p : Nat) (s t : State) : Prop where
  only  : OnlyGroup x s t
  regs  : OnlyRegs x s t
  moves : MovesOn x set s t
  vec   : VecKept x [] 255 0 s t
  uni   : UniKept x s t
  preds : PredKept x act (some p) s t

/-- The set has moved on and waits for answers: no register, predicate, buffered store or waiting thread of the group changes, nor
another group or core, nor a byte that the L2 and memory hold. -/
structure Pends (x : Issue) (set : List Nat) (s t : State) : Prop where
  parts  : Touches [.cores, .ctr, .mem] s t
  bytes  : Memory.wf s.mem = true → Memory.sound s.mem → ∀ i, sector t i = sector s i
  cores  : ∀ c, c ≠ x.core → core t c = core s c
  groups : ∀ g, g ≠ x.gslot → grp t x.core g = grp s x.core g
  moves  : MovesOn x set s t
  preds  : PredKept x [] none s t
  vreg   : (grp t x.core x.gslot).vreg = (grp s x.core x.gslot).vreg
  ureg   : (grp t x.core x.gslot).ureg = (grp s x.core x.gslot).ureg
  sb     : (grp t x.core x.gslot).sb = (grp s x.core x.gslot).sb
  waits  : (grp t x.core x.gslot).waits = (grp s x.core x.gslot).waits

/-- The instruction faults for the lanes `l` of its set and does nothing: its group stops with every thread where it stood, and one
record of the kind waits to be written (R49, R52, R67). -/
structure FaultsWhole (x : Issue) (l : List Nat) (kind : Nat) (s t : State) : Prop where
  parts  : Touches [.cores, .ctr, .dbg] s t
  cores  : ∀ c, c ≠ x.core → core t c = core s c
  groups : ∀ g, g ≠ x.gslot → grp t x.core g = grp s x.core g
  stops  : grp t x.core x.gslot = { grp s x.core x.gslot with stopped := true, stepReq := none, stepping := false }
  queued : ∃ r : FaultRec, (core t x.core).faults = (core s x.core).faults ++ [r] ∧ r.kind = kind ∧ r.mask = maskOf l ∧
    r.gslot = x.gslot ∧ r.pc = x.pc ∧ r.addr = 0 ∧ r.engine = false ∧ r.ins = none

end Sys2Proof.Machine
end

