-- ==== Sys2Proof/WellFormed.lean ====
section
/-! DEFINITION. When a command is well formed: every number that names a part of the module lies in the range the manual
gives it (cores R8, group slots R28, threads R29, queues R327, pages R301, ports R19, dies R19, partitions R321, team slots
R28, functions R296, stream slots R182). A meaning is total all the same: a command outside these ranges changes nothing. -/

namespace Sys2Proof

/-- An issue names a core and a group slot, at an instruction address. -/
def Issue.wf (x : Issue) : Bool := decide (x.core < 144) && decide (x.gslot < 64) && x.pc.toNat % 8 == 0

/-- Every operand of the command lies in its range. -/
def Instr.wf (i : Instr) : Bool :=
  match i with
  | .iadd x | .isub x | .imul x | .imad x | .imin x | .imax x
  | .iabs x | .and_ x | .or_ x | .xor x | .not_ x | .shl x
  | .shr x | .popc x | .clz x | .umov x | .uiadd x | .uisub x
  | .uimul x | .uand x | .uor x | .ushl x | .ushr x | .umovS x
  | .urdlane x | .uldG x | .fadd x | .fmul x | .ffma x | .fmin x
  | .fmax x | .fdiv x | .fsqrt x | .frcp x | .frsq x | .fexp2 x
  | .flog2 x | .fsin x | .fcos x | .dadd x | .dmul x | .dfma x
  | .dmin x | .dmax x | .ddiv x | .dsqrt x | .f2f x | .f2i x
  | .i2f x | .i2i x | .isetp x | .fsetp x | .dsetp x | .plop x
  | .mov x | .movS x | .sel x | .shfl x | .voteAny x | .voteAll x
  | .voteBallot x | .ldG x | .stG x | .ldT x | .stT x | .ldIo x
  | .stIo x | .cleanL1 x | .invL1 x | .atomAdd x | .atomMin x | .atomMax x
  | .atomExch x | .atomCas x | .barG x | .barT x | .fenceCore x | .fenceChip x
  | .fenceSys x | .fenceIo x | .waitf x | .sigf x | .bra x | .braR x
  | .call x | .callR x | .ret x | .exit_ x | .yield x | .trap x
  | .brk x | .nop x | .mxLoadw x | .mxSwap x | .mxRun x | .mxDrain x
  | .tmGet x | .tmPut x | .tmWait x | .alloc x | .free x => x.wf
  | .waitfTimeout core gslot th => decide (core < 144) && decide (gslot < 64) && decide (th < 32)
  | .allocResult core gslot _ _ => decide (core < 144) && decide (gslot < 64)
  | .claimTake core | .matrixCommandStart core | .matrixCommandComplete core | .tileMoverCommandStart core
  | .faultRecordWrite core | .faultRecordCopy core => decide (core < 144)
  | .tileMoverCommandComplete core _ => decide (core < 144)
  | .loadGrant | .planChange | .servoUpdate | .grandmasterTimeout
  | .planLoadComplete | .perstAssert | .perstDeassert | .pfFlr
  | .ringmasterWatchdog | .ringmasterRestartComplete | .thermtrip | .overcurrent
  | .undervoltage | .lossOf52v | .inputOvervoltage | .pShortBreak
  | .pwrEnAssert | .pwrEnDeassert | .auxPowerLoss | .railsGood
  | .bootVerified | .secondaryFirmwareLoaded | .fabricTrainingTimeout | .serviceEntry
  | .idleEntryComplete | .ftAlarm | .curtainInstant | .jtagCurtain
  | .curtainQuiet | .overcurrentRelease | .undervoltageRelease | .input52vPresent => true
  | .loadReturn core gslot _ _ _ => decide (core < 144) && decide (gslot < 64)
  | .icacheFill core gslot _ | .breakpointHalt core gslot _ => decide (core < 144) && decide (gslot < 64)
  | .barrierWatchdogExpiry core _ _ => decide (core < 144)
  | .halt fn core gslot | .resume fn core gslot => decide (fn < 10) && decide (core < 144) && decide (gslot < 64)
  | .groupHalted core gslot | .stepRetire core gslot => decide (core < 144) && decide (gslot < 64)
  | .step fn core gslot _ => decide (fn < 10) && decide (core < 144) && decide (gslot < 64)
  | .teamAdmit part | .quantumExpiry part | .counterSample part => decide (part < 8)
  | .preemptTeam core tslot _ => decide (core < 144) && decide (tslot < 16)
  | .teamSaved core tslot => decide (core < 144) && decide (tslot < 16)
  | .teamRestore core _ => decide (core < 144)
  | .gets core _ | .getx core _ | .putm core _ | .recall core _
  | .forward core _ | .directoryAnswer core _ | .recallTimeout core _ => decide (core < 144)
  | .l1BypassRead core gslot _ | .l1BypassWrite core gslot _ | .atomicAtHome core gslot _ | .registerAccessTimeout core gslot _ => decide (core < 144) && decide (gslot < 64)
  | .agentProbe die _ => decide (die < 4)
  | .agentWrite _ _ _ => true
  | .poolEntryGrant die _ _ | .readTagGrant die _ _ => decide (die < 4)
  | .patrolScrub _ _ _ => true
  | .chipFatalError _ _ _ _ => true
  | .partitionError kind _ => decide (kind < 3)
  | .d2dFlitCrcFail f => decide (f.die < 4)
  | .ackTimeout port | .riggingDarkTimeout port | .linkSignalLoss port
  | .planPortDown port => decide (port < 32)
  | .hostLinkDown port => decide (port < 2)
  | .d2dRetrain port _ | .d2dRetrainComplete port _ => decide (port < 4)
  | .fastRetrainComplete port _ => decide (port < 32)
  | .packetFetch q _ => decide (q < 65536)
  | .launch q _ _ | .stream q _ _ | .copy q _ _ | .fill q _ _
  | .pack q _ _ => decide (q < 65536)
  | .packGranuleReturn _ _ => true
  | .signal q _ | .wait q _ | .waitTimeout q _ | .map_ q _
  | .unmap q _ | .release q _ | .collective q _ | .tagCancel q _
  | .nopCommand q _ | .commandCompletion q _ | .timedCommandStart q _ => decide (q < 65536)
  | .pinDrop _ _ => true
  | .doorbellWrite fn q _ => decide (fn < 10) && decide (q < 65536)
  | .ctxCreate fn page | .ctxKill fn page | .qCreate fn page | .qDestroy fn page
  | .fenAssign fn page | .fenShare fn page | .fenUnshare fn page | .ctxQuery fn page
  | .blkCommit fn page => decide (fn < 10) && decide (page < 16384)
  | .barkerTileRead die slot => decide (die < 4) && decide (slot < 64)
  | .tileReady slot | .boundaryEvent slot => decide (slot < 64)
  | .slotOpen slot => decide (slot < 1024)
  | .write _ | .read_ _ | .atomic _ | .sigfPacket _
  | .resp _ => true
  | .coll port _ | .mcast port _ => decide (port < 32)
  | .mgmt port _ => decide (port < 32)
  | .flitReceive port _ => decide (port < 32)
  | .retryResend _ | .remoteRequestTimeout _ => true
  | .windowCloseExpiry entry => decide (entry < 8 * 128)
  | .portTrainingComplete port _ => decide (port < 32)
  | .riggingAnnouncement port _ _ _ _ _ => decide (port < 32)
  | .retrain fn port | .accept fn port => decide (fn < 10) && decide (port < 32)
  | .disable fn port _ => decide (fn < 10) && decide (port < 32)
  | .prbsModeWrite fn port _ => decide (fn < 10) && decide (port < 32)
  | .linkMeasurement port _ _ _ _ _ _ _ => decide (port < 32)
  | .ptmDialogue _ _ => true
  | .scheduledCommit page | .blockQuiesced page | .mirrorReport page | .mirrorStaleTimeout page => decide (page < 16384)
  | .abortNotice _ => true
  | .cancelNotice _ | .collectiveTimeout _ => true
  | .pieceResendTimeout _ _ port => decide (port < 32)
  | .load fn | .mailboxGo fn | .relock fn | .raise fn
  | .lower fn | .go fn | .take fn => decide (fn < 10)
  | .blkCommitAtWrite fn page _ | .blkOwnerWrite fn page _ => decide (fn < 10) && decide (page < 16384)
  | .quiesce fn page _ | .en fn page _ => decide (fn < 10) && decide (page < 16384)
  | .fltInfoClear fn core => decide (fn < 10) && decide (core < 144)
  | .registerWrite fn _ _ _ => decide (fn < 10)
  | .bar0ReadTimeout _ a => decide (a.fn < 10)
  | .bar4Access fn _ _ _ _ => decide (fn < 10)
  | .configRequest fn _ => decide (fn < 10)
  | .vfFlr n => decide (n < 8)
  | .warmReset fn _ => decide (fn < 10)
  | .mctpRequest opcode _ _ => decide (opcode < 65536)
  | .mctpControl _ _ => true
  | .getInfo chan | .getHealth chan | .getLog chan | .setPowerLimit chan
  | .secureErase chan | .selfTest chan | .scrubPartition chan => decide (chan < 2)
  | .loadPlan _ => true
  | .fwUpdate _ | .pldmFirmwareUpdate _ => true
  | .longOperationComplete _ _ => true
  | .pldmGetSensor sensor => decide (sensor < 65536)
  | .getVersion _ | .getCapabilities _ | .negotiateAlgorithms _ | .getDigests _
  | .getCertificate _ | .challenge _ => true
  | .getMeasurements _ => true
  | .smbusAlertResponse _ => true
  | .submit fn _ _ => decide (fn < 10)
  | .telemetrySample tier _ => decide (tier ≤ 4)
  | .junctionComparator _ | .inletOvertemp _ | .thermtripRelease _ => true
  | .limiterEvaluation _ => true
  | .auxPowerOn _ _ => true
  | .hbmTrainingComplete failed => failed.all (fun h => decide (h < 16 + 16384))
  | .idleRequest fn _ => decide (fn < 10)
  | .jtagInstruction _ => true
  | .dumpComplete _ | .snapshotComplete _ => true
  | .carouselSelect fn _ => decide (fn < 10)
  | .hostLinkTrained port _ _ _ => decide (port < 2)
  | .hostCompletionTimeout _ => true
  | .scrubComplete what _ => decide (what < 3)

end Sys2Proof
end

