-- ==== Sys2Proof/Certificates/Slice0/Obligations.lean ====
section
/-! DEFINITION. The statements about the machine, one `Obligations.<Name>` each. A statement about a command gives the
state that `exec` answers with, so that it says at once where the command completes and what it leaves as it was. -/

open Sys2Proof Sys2Proof.Machine

/-- Integer instructions (R77, R141): when the set issues, each acting lane's destination takes the operation on w-bit operands
(w is 32 or 64 by OPMOD [0]), results wrap, and nothing else of the machine changes but counters. SHL and SHR shift by b mod w;
IMUL and IMAD take the low or, by OPMOD [2], the high half; signedness is OPMOD [1]; IABS always reads a as signed. That IMAD adds
c to the high half too is the model's reading (assumption 11). -/
def Obligations.IntegerResults : Prop :=
  ∀ (x : Issue) (s : State) (set act : List Nat),
    let n := if bit x.f.opmod.toNat 0 then 2 else 1
    let w := 32 * n
    let sg := bit x.f.opmod.toNat 1
    let hi := bit x.f.opmod.toNat 2
    let val := fun (a : BitVec w) => if sg then a.toInt else (a.toNat : Int)
    let prod := fun (a b : BitVec w) => BitVec.ofInt w (val a * val b / (if hi then 2 ^ w else 1))
    ∀ e ∈ ([(shBin n 3, .iadd x, fun a b _ => a + b), (shBin n 3, .isub x, fun a b _ => a - b),
        (shBin n 7, .imul x, fun a b _ => prod a b), (shTer n 7, .imad x, fun a b c => prod a b + c),
        (shBin n 3, .imin x, fun a b _ => if val a ≤ val b then a else b),
        (shBin n 3, .imax x, fun a b _ => if val a ≤ val b then b else a),
        (shUn n 3, .iabs x, fun a _ _ => if a.toInt < 0 then -a else a),
        (shBin n 3, .and_ x, fun a b _ => a &&& b), (shBin n 3, .or_ x, fun a b _ => a ||| b),
        (shBin n 3, .xor x, fun a b _ => a ^^^ b), (shUn n 3, .not_ x, fun a _ _ => ~~~a),
        (shBin n 3, .shl x, fun a b _ => a <<< (b.toNat % w)),
        (shBin n 3, .shr x, fun a b _ => if sg then a.sshiftRight (b.toNat % w) else a >>> (b.toNat % w)),
        (shUn n 3, .popc x, fun a _ _ => BitVec.ofNat w ((List.range w).countP (fun i => a.getLsbD i))),
        (shUn n 3, .clz x, fun a _ _ => a.clz)] :
        List (Shape × Instr × (BitVec w → BitVec w → BitVec w → BitVec w))),
      Issues e.1 true x s set act →
      ∃ t, exec e.2.1 s = .next t ∧ WritesVec x set act x.f.dst.toNat n s t ∧
        ∀ k ∈ act, ∀ i < n, x.f.dst.toNat ≠ 255 →
          let g := grp s x.core x.gslot
          (grp t x.core x.gslot).v k (x.f.dst.toNat + i) =
            (e.2.2 (BitVec.ofNat w (srcA e.1 x.f g k n)) (BitVec.ofNat w (srcB e.1 x.f g k n))
              (BitVec.ofNat w (srcC x.f g k n))).extractLsb' (32 * i) 32

/-- Uniform instructions (R69, R71, R73): once per issue, uniform register DST takes the operation on 32 or 64 bits, zero-extended;
UMOV.S copies a special value. Nothing else of the machine
changes but counters. That UMOV reads OPMOD [0] is the model's reading (assumption 13). -/
def Obligations.UniformResults : Prop :=
  (∀ (x : Issue) (s : State) (set act : List Nat),
    let n := if bit x.f.opmod.toNat 0 then 2 else 1
    let w := 32 * n
    let sg := bit x.f.opmod.toNat 1
    let hi := bit x.f.opmod.toNat 2
    let val := fun (a : BitVec w) => if sg then a.toInt else (a.toNat : Int)
    ∀ e ∈ ([(shUmov, .umov x, fun a _ => a), (shUBin 3, .uiadd x, fun a b => a + b), (shUBin 3, .uisub x, fun a b => a - b),
        (shUBin 7, .uimul x, fun a b => BitVec.ofInt w (val a * val b / (if hi then 2 ^ w else 1))),
        (shUBin 3, .uand x, fun a b => a &&& b), (shUBin 3, .uor x, fun a b => a ||| b),
        (shUBin 3, .ushl x, fun a b => a <<< (b.toNat % w)),
        (shUBin 3, .ushr x, fun a b => if sg then a.sshiftRight (b.toNat % w) else a >>> (b.toNat % w))] :
        List (Shape × Instr × (BitVec w → BitVec w → BitVec w))),
      Issues e.1 true x s set act →
      ∃ t, exec e.2.1 s = .next t ∧ WritesUni x set x.f.dst.toNat s t ∧
        (grp t x.core x.gslot).u x.f.dst.toNat =
          (e.2.2 (BitVec.ofNat w (srcA e.1 x.f (grp s x.core x.gslot) 0 n))
            (BitVec.ofNat w (srcB e.1 x.f (grp s x.core x.gslot) 0 n))).setWidth 64) ∧
  (∀ (x : Issue) (s : State) (set act : List Nat),
    Issues ⟨.u, .un, .un, .un, .none, 0, .uni⟩ (0 < x.f.srca.toNat && x.f.srca.toNat < 8) x s set act →
    ∃ t, exec (.umovS x) s = .next t ∧ WritesUni x set x.f.dst.toNat s t ∧
      let g := grp s x.core x.gslot
      (grp t x.core x.gslot).u x.f.dst.toNat = BitVec.ofNat 64 (match x.f.srca.toNat with
        | 1 => g.gid | 2 => g.team | 3 => x.core | 4 => chipNo s | 5 => s.time.ft | 6 => g.ctx | _ => g.tag % 2 ^ 16))

/-- Binary32 and binary64 arithmetic (R77, R138, R139): each acting lane's destination takes the exact result rounded once in the mode
of OPMOD [1:0] (FFMA and DFMA round once), and nothing else of the machine changes but counters. A NaN operand, and an invalid
operation, give the canonical NaN. -/
def Obligations.FloatResults : Prop :=
  (∀ (x : Issue) (s : State) (set act : List Nat),
    let m := RMode.of (x.f.opmod.toNat % 4)
    ∀ e ∈ ([(1, binary32, { shBin 1 3 with lop := .b }, .fadd x, fun f a b _ => f.add m a b),
        (1, binary32, { shBin 1 3 with lop := .b }, .fmul x, fun f a b _ => f.enc m (a.mul b)),
        (1, binary32, shTer 1 3, .ffma x, fun f a b c => f.add m (a.mul b) c),
        (1, binary32, { shBin 1 3 with lop := .b }, .fdiv x, fun f a b _ => f.div m a b),
        (1, binary32, { shUn 1 3 with lop := .a }, .fsqrt x, fun f a _ _ => f.sqrt m a),
        (2, binary64, { shBin 2 3 with lop := .b }, .dadd x, fun f a b _ => f.add m a b),
        (2, binary64, { shBin 2 3 with lop := .b }, .dmul x, fun f a b _ => f.enc m (a.mul b)),
        (2, binary64, shTer 2 3, .dfma x, fun f a b c => f.add m (a.mul b) c),
        (2, binary64, { shBin 2 3 with lop := .none }, .ddiv x, fun f a b _ => f.div m a b),
        (2, binary64, { shUn 2 3 with lop := .none }, .dsqrt x, fun f a _ _ => f.sqrt m a)] :
        List (Nat × Fmt × Shape × Instr × (Fmt → FV → FV → FV → Nat))),
      Issues e.2.2.1 true x s set act →
      ∃ t, exec e.2.2.2.1 s = .next t ∧ WritesVec x set act x.f.dst.toNat e.1 s t ∧
        ∀ k ∈ act, ∀ i < e.1, x.f.dst.toNat ≠ 255 →
          let g := grp s x.core x.gslot
          let f := e.2.1
          (grp t x.core x.gslot).v k (x.f.dst.toNat + i) =
            (BitVec.ofNat f.width (e.2.2.2.2 f (f.dec (srcA e.2.2.1 x.f g k e.1)) (f.dec (srcB e.2.2.1 x.f g k e.1))
              (f.dec (srcC x.f g k e.1)))).extractLsb' (32 * i) 32) ∧
  (∀ (f : Fmt) (m : RMode) (a : FV), f.add m .nan a = f.nan ∧ f.add m a .nan = f.nan ∧ f.enc m (FV.nan.mul a) = f.nan ∧
    f.enc m (a.mul .nan) = f.nan ∧ f.div m .nan a = f.nan ∧ f.div m a .nan = f.nan ∧ f.sqrt m .nan = f.nan ∧
    (∀ n e, 0 < n → f.sqrt m (.fin true n e) = f.nan) ∧ f.add m (.inf true) (.inf false) = f.nan ∧
    (∀ b c e, f.enc m ((FV.inf b).mul (.fin c 0 e)) = f.nan ∧ f.div m (.fin b 0 e) (.fin c 0 e) = f.nan ∧
      f.div m (.inf b) (.inf c) = f.nan))

/-- R140, whole: FMIN, FMAX, DMIN and DMAX order -0 below +0 (encodings compare as sign and magnitude); with one NaN they return the
other operand, with two the canonical NaN. FSETP and DSETP with a NaN set the predicate for NE and clear it for every other test;
without one, they compare values. No floating-point condition raises a fault or keeps a flag: each instruction completes on every
operand, and writes nothing but its destination. -/
def Obligations.FloatMinMaxCompare : Prop :=
  ∀ (x : Issue) (s : State) (set act : List Nat),
    let nan := fun (f : Fmt) (a : Nat) => decide (f.infBits < a % 2 ^ (f.eb + f.mb))
    let mag := fun (f : Fmt) (a : Nat) => (a % 2 ^ (f.eb + f.mb) : Int)
    let ord := fun (f : Fmt) (a : Nat) => if bit a (f.eb + f.mb) then -mag f a - 1 else mag f a
    let valu := fun (f : Fmt) (a : Nat) => if bit a (f.eb + f.mb) then -mag f a else mag f a
    let pick := fun (f : Fmt) (up : Bool) (a b : Nat) =>
      if nan f a ∧ nan f b then f.nan else if nan f a then b else if nan f b then a
      else if decide (ord f a ≤ ord f b) != up then a else b
    let op := x.f.opmod.toNat % 8
    let test := fun (f : Fmt) (a b : Nat) =>
      if nan f a ∨ nan f b then decide (op = 1)
      else match op with
        | 0 => decide (valu f a = valu f b) | 1 => decide (valu f a ≠ valu f b) | 2 => decide (valu f a < valu f b)
        | 3 => decide (valu f a ≤ valu f b) | 4 => decide (valu f b < valu f a) | _ => decide (valu f b ≤ valu f a)
    (∀ e ∈ ([(1, binary32, false, .fmin x), (1, binary32, true, .fmax x), (2, binary64, false, .dmin x), (2, binary64, true, .dmax x)] :
        List (Nat × Fmt × Bool × Instr)),
      let sh : Shape := { shBin e.1 3 with lop := .b }
      Issues sh true x s set act →
      ∃ t, exec e.2.2.2 s = .next t ∧ WritesVec x set act x.f.dst.toNat e.1 s t ∧
        ∀ k ∈ act, ∀ i < e.1, x.f.dst.toNat ≠ 255 →
          let g := grp s x.core x.gslot
          (grp t x.core x.gslot).v k (x.f.dst.toNat + i) =
            (BitVec.ofNat e.2.1.width (pick e.2.1 e.2.2.1 (srcA sh x.f g k e.1) (srcB sh x.f g k e.1))).extractLsb' (32 * i) 32) ∧
    (∀ e ∈ ([(1, binary32, .fsetp x), (2, binary64, .dsetp x)] : List (Nat × Fmt × Instr)),
      Issues (shCmp e.1) (x.f.opmod.toNat % 8 < 6) x s set act →
      ∃ t, exec e.2.2 s = .next t ∧ WritesPred x set act x.f.dst.toNat s t ∧
        ∀ k ∈ act, let g := grp s x.core x.gslot
          (grp t x.core x.gslot).p k x.f.dst.toNat =
            test e.2.1 (srcA (shCmp e.1) x.f g k e.1) (srcB (shCmp e.1) x.f g k e.1))

/-- FRCP, FRSQ, FEXP2, FLOG2, FSIN and FCOS (R139): each is one fixed function of its operand, the same on every core, in every state
and for every issue, with the results that the manual gives special operands; it completes on every operand and writes nothing but
its destination. Which value within its bound the function returns is left open (assumption 1). -/
def Obligations.ElementaryResults : Prop :=
  ∃ rcp rsq ex2 lg2 sin cos : Nat → Nat,
    (∀ (x : Issue) (s : State) (set act : List Nat),
      let sh : Shape := { shUn 1 0 with lop := .none }
      ∀ e ∈ ([(.frcp x, rcp), (.frsq x, rsq), (.fexp2 x, ex2), (.flog2 x, lg2), (.fsin x, sin), (.fcos x, cos)] :
          List (Instr × (Nat → Nat))),
        Issues sh true x s set act →
        ∃ t, exec e.1 s = .next t ∧ WritesVec x set act x.f.dst.toNat 1 s t ∧
          ∀ k ∈ act, x.f.dst.toNat ≠ 255 →
            (grp t x.core x.gslot).v k x.f.dst.toNat = BitVec.ofNat 32 (e.2 (srcA sh x.f (grp s x.core x.gslot) k 1))) ∧
    rcp 0 = 0x7F800000 ∧ rcp 0x80000000 = 0xFF800000 ∧ rsq 0 = 0x7F800000 ∧ rsq 0x80000000 = 0xFF800000 ∧
    lg2 0 = 0xFF800000 ∧ lg2 0x80000000 = 0xFF800000 ∧ sin 0x7F800000 = 0x7FC00000 ∧ sin 0xFF800000 = 0x7FC00000 ∧
    cos 0x7F800000 = 0x7FC00000 ∧ cos 0xFF800000 = 0x7FC00000 ∧
    (∀ a, 0x80000000 < a → a ≤ 0xFF800000 → rsq a = 0x7FC00000 ∧ lg2 a = 0x7FC00000) ∧
    (∀ a, 0x43000000 ≤ a → a ≤ 0x7F800000 → ex2 a = 0x7F800000) ∧ (∀ a, 0xC3150000 < a → a ≤ 0xFF800000 → ex2 a = 0) ∧
    (∀ a, 0x7F800000 < a % 2 ^ 31 →
      rcp a = 0x7FC00000 ∧ rsq a = 0x7FC00000 ∧ ex2 a = 0x7FC00000 ∧ lg2 a = 0x7FC00000 ∧ sin a = 0x7FC00000 ∧ cos a = 0x7FC00000)

/-- Conversions (R142, R143): OPMOD names the formats, a pair for the 64-bit ones; F2F and I2F round to nearest even, F2I rounds
toward zero, and integers saturate at the destination's range. Each completes on every operand and writes nothing but its
destination. Codes of the wrong kind raise ILLEGAL for the whole set and do nothing. -/
def Obligations.ConversionResults : Prop :=
  ∀ (x : Issue) (s : State) (set act : List Nat),
    let src := x.f.opmod.toNat % 16
    let dst := x.f.opmod.toNat / 16
    let words := fun (c : Nat) => if c = 1 ∨ c = 12 ∨ c = 13 then 2 else 1
    let flt := fun (c : Nat) => decide (c < 6)
    let int := fun (c : Nat) => decide (6 ≤ c) && decide (c < 14)
    let fmt := fun (c : Nat) => [binary32, binary64, binary16, bfloat16, e4m3, e5m2].getD c binary32
    let width := fun (c : Nat) => 8 * 2 ^ ((c - 6) / 2)
    let sg := fun (c : Nat) => decide (c % 2 = 0)
    let sat := fun (v : Int) =>
      let lo : Int := if sg dst then -2 ^ (width dst - 1) else 0
      let hi : Int := if sg dst then 2 ^ (width dst - 1) - 1 else 2 ^ width dst - 1
      ((if v < lo then lo else if hi < v then hi else v) % 2 ^ width dst).toNat
    let ival := fun (a : Nat) => if sg src then (BitVec.ofNat (width src) a).toInt else ((BitVec.ofNat (width src) a).toNat : Int)
    let chop := fun (a : Nat) => match (fmt src).dec a with
      | .nan => 0
      | .inf b => if b then -2 ^ 64 else 2 ^ 64
      | .fin b m e => (if b then -1 else 1) * (if 0 ≤ e then (m * 2 ^ e.toNat : Int) else m / 2 ^ (-e).toNat)
    let sh : Shape := ⟨.v (words dst), .v (words src), .un, .un, .none, 255, .vec⟩
    ∀ e ∈ ([(.f2f x, flt src && flt dst, f2f (fmt src) (fmt dst)), (.f2i x, flt src && int dst, fun a => sat (chop a)),
        (.i2f x, int src && flt dst, fun a => i2f (width src) (sg src) (fmt dst) a),
        (.i2i x, int src && int dst, fun a => sat (ival a))] : List (Instr × Bool × (Nat → Nat))),
      (Issues sh e.2.1 x s set act →
        ∃ t, exec e.1 s = .next t ∧ WritesVec x set act x.f.dst.toNat (words dst) s t ∧
          ∀ k ∈ act, ∀ i < words dst, x.f.dst.toNat ≠ 255 →
            (grp t x.core x.gslot).v k (x.f.dst.toNat + i) =
              (BitVec.ofNat 64 (e.2.2 (srcA sh x.f (grp s x.core x.gslot) k (words src)))).extractLsb' (32 * i) 32) ∧
      (gate s x = some set → e.2.1 = false → ∃ t, exec e.1 s = .next t ∧ FaultsWhole x set 4 s t)

/-- Moves and predicate results (R71, R77): MOV and SEL (whose source c is a predicate whatever IC holds: the model's reading,
assumption 12), MOV.S for every special source, ISETP on signed or unsigned 32-bit values, PLOP by its truth table. Each completes,
writes its destination in the acting lanes, and leaves every other register and the rest of the machine but counters. -/
def Obligations.MoveCompareResults : Prop :=
  (∀ (x : Issue) (s : State) (set act : List Nat),
    let g := grp s x.core x.gslot
    ∀ e ∈ ([(shMov, .mov x, fun k => srcA shMov x.f g k 1),
        (shSel, .sel x, fun k => if g.p k x.f.srcc.toNat then srcA shSel x.f g k 1 else srcB shSel x.f g k 1)] :
        List (Shape × Instr × (Nat → Nat))),
      Issues e.1 true x s set act →
      ∃ t, exec e.2.1 s = .next t ∧ WritesVec x set act x.f.dst.toNat 1 s t ∧
        ∀ k ∈ act, x.f.dst.toNat ≠ 255 → (grp t x.core x.gslot).v k x.f.dst.toNat = BitVec.ofNat 32 (e.2.2 k)) ∧
  (∀ (x : Issue) (s : State) (set act : List Nat),
    let g := grp s x.core x.gslot
    let i := x.f.srca.toNat
    let n := if i = 5 then 2 else 1
    Issues ⟨.v n, .un, .un, .un, .none, 0, .vec⟩ (i < 8) x s set act →
    ∃ t, exec (.movS x) s = .next t ∧ WritesVec x set act x.f.dst.toNat n s t ∧
      ∀ k ∈ act, ∀ j < n, x.f.dst.toNat ≠ 255 → (grp t x.core x.gslot).v k (x.f.dst.toNat + j) =
        (BitVec.ofNat 64 (match i with
          | 0 => k | 1 => g.gid | 2 => g.team | 3 => x.core | 4 => chipNo s | 5 => s.time.ft | 6 => g.ctx
          | _ => g.tag % 2 ^ 16)).extractLsb' (32 * j) 32) ∧
  (∀ (x : Issue) (s : State) (set act : List Nat),
    let g := grp s x.core x.gslot
    let op := x.f.opmod.toNat
    let val := fun (a : Nat) => if op.testBit 3 then ((BitVec.ofNat 32 a).toNat : Int) else (BitVec.ofNat 32 a).toInt
    let test := fun (a b : Int) => match op % 8 with
      | 0 => decide (a = b) | 1 => decide (a ≠ b) | 2 => decide (a < b) | 3 => decide (a ≤ b) | 4 => decide (b < a)
      | _ => decide (b ≤ a)
    ∀ e ∈ ([(shCmp 1, decide (op % 8 < 6), .isetp x,
          fun k => test (val (srcA (shCmp 1) x.f g k 1)) (val (srcB (shCmp 1) x.f g k 1))),
        (⟨.p, .p, .p, .un, .none, 15, .vec⟩, true, .plop x,
          fun k => op.testBit (2 * (g.p k x.f.srca.toNat).toNat + (g.p k x.f.srcb.toNat).toNat))] :
        List (Shape × Bool × Instr × (Nat → Bool))),
      Issues e.1 e.2.1 x s set act →
      ∃ t, exec e.2.2.1 s = .next t ∧ WritesPred x set act x.f.dst.toNat s t ∧
        ∀ k ∈ act, (grp t x.core x.gslot).p k x.f.dst.toNat = e.2.2.2 k)

/-- R78, whole: SHFL takes vA of thread vB mod 32 as it stood, in the set or not; VOTE.ANY and VOTE.ALL combine pA over the acting
threads only; bit i of VOTE.BALLOT is 1 exactly when thread i acts and its pA is 1; URDLANE copies vA of thread i, zero-extended, whatever
thread i does, and is illegal with IC = 0 or SRCC outside 0 to 31. Each leaves the rest of the machine but counters. -/
def Obligations.CrossLaneResults : Prop :=
  (∀ (x : Issue) (s : State) (set act : List Nat),
    let g := grp s x.core x.gslot
    let sh : Shape := ⟨.v 1, .v 1, .v 1, .un, .none, 0, .vec⟩
    let own : Shape := ⟨.v 1, if x.f.ua then .v 1 else .un, .v 1, .un, .none, 0, .vec⟩
    let src := fun k => srcB sh x.f g k 1 % 32
    IssuesBad sh true (fun g act => act.filter (fun k => poisonedReads own x.f g [k] != []
      || (!x.f.ua && SMap.get false g.vpoison (256 * src k + x.f.srca.toNat)))) x s set act →
    (x.f.ua = true ∨ regSettled g lanes x.f.srca.toNat = true) →
    ∃ t, exec (.shfl x) s = .next t ∧ WritesVec x set act x.f.dst.toNat 1 s t ∧
      ∀ k ∈ act, x.f.dst.toNat ≠ 255 → (grp t x.core x.gslot).v k x.f.dst.toNat =
        if x.f.ua then (g.u x.f.srca.toNat).setWidth 32 else g.v (src k) x.f.srca.toNat) ∧
  (∀ (x : Issue) (s : State) (set act : List Nat),
    let g := grp s x.core x.gslot
    let pA := fun k => g.p k x.f.srca.toNat
    ∀ e ∈ ([(.voteAny x, act.any pA), (.voteAll x, act.all pA)] : List (Instr × Bool)),
      Issues ⟨.p, .p, .un, .un, .none, 0, .vec⟩ true x s set act →
      ∃ t, exec e.1 s = .next t ∧ WritesPred x set act x.f.dst.toNat s t ∧
        ∀ k ∈ act, (grp t x.core x.gslot).p k x.f.dst.toNat = e.2) ∧
  (∀ (x : Issue) (s : State) (set act : List Nat),
    let g := grp s x.core x.gslot
    Issues ⟨.v 1, .p, .un, .un, .none, 0, .vec⟩ true x s set act →
    ∃ t, exec (.voteBallot x) s = .next t ∧ WritesVec x set act x.f.dst.toNat 1 s t ∧
      ∀ k ∈ act, x.f.dst.toNat ≠ 255 → ∀ i < 32,
        ((grp t x.core x.gslot).v k x.f.dst.toNat).getLsbD i = (decide (i ∈ act) && g.p i x.f.srca.toNat)) ∧
  (∀ (x : Issue) (s : State) (set act : List Nat),
    let g := grp s x.core x.gslot
    let i := x.f.srcc.toNat
    let r := x.f.srca.toNat
    (IssuesBad ⟨.u, .v 1, .un, .un, .none, 0, .uni⟩ (x.f.ic && decide (i < 32))
        (fun g act => if r != 255 && SMap.get false g.vpoison (256 * i + r) then act else []) x s set act →
      regSettled g [i] r = true →
      ∃ t, exec (.urdlane x) s = .next t ∧ WritesUni x set x.f.dst.toNat s t ∧
        (grp t x.core x.gslot).u x.f.dst.toNat = (g.v i r).setWidth 64) ∧
    (gate s x = some set → x.f.ic = false ∨ 32 ≤ i → ∃ t, exec (.urdlane x) s = .next t ∧ FaultsWhole x set 4 s t))

/-- Accesses that wait for an answer (R79, R81, R84, R157, R209, R439): when every acting lane's address is aligned, on this chip and
permitted, LD.G (from memory or a thatched page), LD.IO, ST.IO and the atomics leave one outstanding access for each acting lane in
rising order, ULD.G one for the whole set; the set moves on, no register is written yet, no byte of memory changes, and the rest of the
machine but counters, caches and translation caches is as it was. With more than one acting lane the pages are among the translations
that the shared cache holds; then no table is read. -/
def Obligations.AccessesIssue : Prop :=
  ∀ (x : Issue) (s : State) (set act : List Nat) (d : Nat → Target),
    let g := grp s x.core x.gslot
    let n := accSize x.f
    let w := if bit x.f.opmod.toNat 0 then 2 else 1
    let at' := fun k => memAddr x.f g k n
    let pair := fun k => (BitVec.ofNat 64 (regVal g k x.f.ua x.f.srca.toNat 2) : W64)
    let dest := fun (y : Target) => match y with
      | .mem p => Dest.mem p | .thatch i o => .thatch i o | .io o => .io o | .host b => .host b | .fault _ => .none
    let memory := fun (y : Target) => match y with | .mem _ => true | _ => false
    let loads := fun (y : Target) => match y with | .mem _ => true | .thatch _ _ => true | _ => false
    let page := fun (y : Target) => match y with | .io _ => true | _ => false
    let atom := fun (op mods : Nat) (i : Instr) =>
      (i, shAtom w (op == 4) mods, true, Use.atom, 4 * w, x.f.dst.toNat, pair,
        (fun k => AccKind.atom op (bit x.f.opmod.toNat 1) (srcB (shAtom w (op == 4) 3) x.f g k w)
          (if op = 4 then srcC x.f g k w else 0)),
        (fun _ => (none : Option Nat)), memory)
    let recorded := fun (a : Acc) => (a.kind, a.mask, a.addr, a.dest, a.size, a.dst, a.data)
    let held := fun (addr : Nat → W64) => s.mem.stlb.length ≤ 8192 ∧ ∀ k ∈ act, xlatHeld s g.ctx (vaOf (addr k)) = true
    (∀ e ∈ ([(.ldG x, shLdG x.f, accOk x.f, .load, n, x.f.dst.toNat, at', fun _ => .load, fun _ => none, loads),
        (.ldIo x, shLdIo x.f, ioOk x.f, .ldio, n, x.f.dst.toNat, at', fun _ => .ldio, fun _ => none, page),
        (.stIo x, shStIo x.f, ioOk x.f && dataOk x.f, .stio, n, 255, at', fun _ => .stio, fun k => some (storeVal x.f g k n), page),
        atom 0 1 (.atomAdd x), atom 1 3 (.atomMin x), atom 2 3 (.atomMax x), atom 3 1 (.atomExch x), atom 4 1 (.atomCas x)] :
        List (Instr × Shape × Bool × Use × Nat × Nat × (Nat → W64) × (Nat → AccKind) × (Nat → Option Nat) × (Target → Bool))),
      let (i, sh, ok, use, size, dst, addr, kind, data, takes) := e
      Issues sh ok x s set act →
      (∀ k ∈ act, (addr k).toNat % size = 0 ∧ isLocal (addr k) = true ∧ access s g.ctx use (vaOf (addr k)) = d k ∧
        takes (d k) = true) → (act.length ≤ 1 ∨ held addr) →
      ∃ t, exec i s = .next t ∧ Pends x set s t ∧
        (held addr → t.mem = { s.mem with stlb := t.mem.stlb, plru := t.mem.plru }) ∧
        (grp t x.core x.gslot).accs.map recorded = g.accs.map recorded ++
          act.map (fun k => (kind k, 2 ^ k, addr k, dest (d k), size, dst, data k))) ∧
    (Issues shUld (accOk x.f && decide (n ≤ 8) && x.f.ua) x s set act →
      (at' 0).toNat % n = 0 → isLocal (at' 0) = true → access s g.ctx .load (vaOf (at' 0)) = d 0 → loads (d 0) = true →
      ∃ t, exec (.uldG x) s = .next t ∧ Pends x set s t ∧
        (grp t x.core x.gslot).accs.map recorded = g.accs.map recorded ++
          [(.uload, maskOf set, at' 0, dest (d 0), n, x.f.dst.toNat, none)])

/-- Stores and tile memory (R79, R80, R209, R210). A ST.G whose line the core does not hold in E or M, or with policy bypass, waits in
the store buffer and changes no byte; one whose sector the core holds is in the L1 at once, its sector dirty. No byte that the L2 and
memory hold changes. ST.T reaches the team's tile memory, LD.T reads it, sign- or zero-extending a size below 4 B. With an empty store
buffer, one acting lane for the stores, and for LD.T no engine command under way that writes tile memory. -/
def Obligations.StoresAndTileMemory : Prop :=
  ∀ (x : Issue) (s : State) (set act : List Nat),
    let g := grp s x.core x.gslot
    let n := accSize x.f
    let k := act.headD 0
    let a := memAddr x.f g k n
    let va := tileAddr x.f g k n
    g.sb = [] →
    (∀ pa : Nat, Issues (shStG x.f) (accOk x.f && dataOk x.f) x s set act → act = [k] → g.accs = [] → a.toNat % n = 0 →
      isLocal a = true → access s g.ctx .store (vaOf a) = .mem pa →
      ∃ t, exec (.stG x) s = .next t ∧ MovesOn x set s t ∧ PredKept x [] none s t ∧ UniKept x s t ∧ VecKept x [] 255 0 s t ∧
        Touches [.cores, .ctr, .mem] s t ∧
        (Memory.wf s.mem = true → Memory.sound s.mem → ∀ i, sector t i = sector s i) ∧
        (policyOf x.f = 2 ∨ ownsLine s x.core pa = false →
          (grp t x.core x.gslot).sb.map (fun e => (e.th, e.dest, e.size, e.data)) =
            [(k, if policyOf x.f = 2 then StTo.bypass pa else StTo.l1 pa, n, storeVal x.f g k n)]) ∧
        (policyOf x.f ≠ 2 → ownsLine s x.core pa = true → (l1Line s x.core (pa / 128)).data.length = 128 →
          (grp t x.core x.gslot).sb = [] ∧ bit (l1Line t x.core (pa / 128)).dirty (pa % 128 / 32) = true ∧
          ((l1Line t x.core (pa / 128)).data.drop (pa % 128)).take n = toLE n (storeVal x.f g k n))) ∧
    (Issues (shStT x.f) (accOk x.f && dataOk x.f) x s set act → act = [k] → va.toNat % n = 0 →
      va.toNat < tileSize (tm s x.core g.tslot) → (tm s x.core g.tslot).tgran.Nodup →
      ∃ t, exec (.stT x) s = .next t ∧ MovesOn x set s t ∧ Touches [.cores, .ctr] s t ∧ (grp t x.core x.gslot).sb = [] ∧
        tileRead t x.core g.tslot va.toNat n = toLE n (storeVal x.f g k n) ∧
        (∀ p, (∀ i < n, tilePhys (tm s x.core g.tslot) (va.toNat + i) ≠ some p) →
          SMap.get 0 (core t x.core).tmem p = SMap.get 0 (core s x.core).tmem p)) ∧
    (Issues (shLdT x.f) (accOk x.f) x s set act → engineWrites (core s x.core) g.tslot = [] →
      (∀ j ∈ act, let b := tileAddr x.f g j n; b.toNat % n = 0 ∧ b.toNat < tileSize (tm s x.core g.tslot) ∧
        tileBad s x.core g.tslot b.toNat n = false) →
      ∃ t, exec (.ldT x) s = .next t ∧ MovesOn x set s t ∧ Touches [.cores, .ctr, .free] s t ∧
        VecKept x act x.f.dst.toNat ((n + 3) / 4) s t ∧ UniKept x s t ∧ PredKept x act none s t ∧
        ∀ j ∈ act, x.f.dst.toNat ≠ 255 → let v := ofLE (tileRead s x.core g.tslot (tileAddr x.f g j n).toNat n)
          ∀ i < (n + 3) / 4, (grp t x.core x.gslot).v j (x.f.dst.toNat + i) =
            if n < 4 then (if bit x.f.opmod.toNat 3 then (BitVec.ofNat (8 * n) v).signExtend 32 else BitVec.ofNat 32 v)
            else (BitVec.ofNat (8 * n) v).extractLsb' (32 * i) 32)

/-- Precise faults (R49, R52, R79): when every acting lane of a load, store, register access or atomic names a misaligned address, one
record MISALIGNED waits, with the acting lanes in its mask and the lowest address; the group stops; the acting lanes stand at the
instruction again, the others of the set go on; no register, access, buffered store or byte of memory changes. -/
def Obligations.MisalignedFaults : Prop :=
  ∀ (x : Issue) (s : State) (set act : List Nat),
    let g := grp s x.core x.gslot
    let n := accSize x.f
    let w := if bit x.f.opmod.toNat 0 then 2 else 1
    let pair := fun k => (BitVec.ofNat 64 (regVal g k x.f.ua x.f.srca.toNat 2) : W64)
    ∀ e ∈ ([(.ldG x, true, shLdG x.f, accOk x.f, n, fun k => memAddr x.f g k n),
        (.stG x, true, shStG x.f, accOk x.f && dataOk x.f, n, fun k => memAddr x.f g k n),
        (.ldIo x, true, shLdIo x.f, ioOk x.f, n, fun k => memAddr x.f g k n),
        (.stIo x, true, shStIo x.f, ioOk x.f && dataOk x.f, n, fun k => memAddr x.f g k n),
        (.ldT x, false, shLdT x.f, accOk x.f, n, fun k => tileAddr x.f g k n),
        (.stT x, false, shStT x.f, accOk x.f && dataOk x.f, n, fun k => tileAddr x.f g k n),
        (.atomAdd x, true, shAtom w false 1, true, 4 * w, pair), (.atomMin x, true, shAtom w false 3, true, 4 * w, pair),
        (.atomMax x, true, shAtom w false 3, true, 4 * w, pair), (.atomExch x, true, shAtom w false 1, true, 4 * w, pair),
        (.atomCas x, true, shAtom w true 1, true, 4 * w, pair)] : List (Instr × Bool × Shape × Bool × Nat × (Nat → W64))),
      let (i, device, sh, ok, size, addr) := e
      Issues sh ok x s set act → act ≠ [] →
      (∀ k ∈ act, (addr k).toNat % size ≠ 0 ∧ (device = true → isLocal (addr k) = true)) →
      ∃ t, exec i s = .next t ∧ Touches [.cores, .ctr, .dbg] s t ∧
        let h := grp t x.core x.gslot
        h.stopped = true ∧ h.vreg = g.vreg ∧ h.ureg = g.ureg ∧ h.accs = g.accs ∧ h.sb = g.sb ∧
        (∀ k < 32, (h.thr k).pc = if k ∈ act then x.pc else if k ∈ set then x.pc + insLen x.f else (g.thr k).pc) ∧
        PredKept x [] none s t ∧
        ∃ r : FaultRec, (core t x.core).faults = (core s x.core).faults ++ [r] ∧ r.kind = 3 ∧ r.mask = maskOf act ∧ r.pc = x.pc ∧
          r.gslot = x.gslot ∧ (∃ k ∈ act, r.addr = addr k) ∧ ∀ k ∈ act, r.addr.toNat ≤ (addr k).toNat

/-- CLEAN.L1 and INV.L1 (R82): for one acting lane whose earlier stores have left the buffer and whose core has no write-back on its
way, every line that the L1 holds within the widened ranges is clean afterwards, and after INV.L1 gone; the set moves on and no
register, access or buffered store of the group changes. -/
def Obligations.CacheMaintenance : Prop :=
  ∀ (x : Issue) (s : State) (set : List Nat) (k : Nat),
    let g := grp s x.core x.gslot
    let ranges := l1Ranges s g.ctx (BitVec.ofNat 64 (regVal g k x.f.ua x.f.srca.toNat 2)) (srcB shRange x.f g k 1)
    Issues shRange true x s set [k] →
    (∀ a ∈ s.mem.putms, a.core ≠ x.core) → (∀ e ∈ g.sb, e.th = k → ∀ pa, e.dest ≠ .l1 pa) →
    ∀ e ∈ ([(.cleanL1 x, false), (.invL1 x, true)] : List (Instr × Bool)),
      ∃ t, exec e.1 s = .next t ∧ Touches [.mem, .cores, .ctr] s t ∧ MovesOn x set s t ∧
        (grp t x.core x.gslot).vreg = g.vreg ∧ (grp t x.core x.gslot).ureg = g.ureg ∧
        (grp t x.core x.gslot).accs = g.accs ∧ (grp t x.core x.gslot).sb = g.sb ∧
        ∀ line, (∃ r ∈ ranges, r.1 ≤ 128 * line ∧ 128 * line < r.2) →
          (l1Line t x.core line).dirty = 0 ∧ (e.2 = true → l1Find t x.core line = none)

/-- Barriers (R43 to R45, R48, R86): a thread that executes BAR.G or BAR.T leaves its set, to continue at the next instruction. When
every thread of the group (of every group of the team) has arrived or exited, every waiting thread runs again; otherwise the
acting threads wait, and a watchdog count runs from 0 at the first arrival. A barrier is ready when the acting threads' loads and
atomics have returned and their stores have left the buffer (R47). -/
def Obligations.BarrierResults : Prop :=
  ∀ (x : Issue) (s : State) (set act : List Nat),
    let g := grp s x.core x.gslot
    let tm' := tm s x.core g.tslot
    let here := fun (p : ThStat) (gs k : Nat) => (gs = x.gslot ∧ k ∈ act) ∨ ((grp s x.core gs).thr k).stat = .exited ∨
      ((grp s x.core gs).thr k).stat = p
    Issues shNone true x s set act → act ≠ [] → lanesQuiet s x = true → x.gslot ∈ tm'.gslots → tm'.gslots.Nodup →
    (∀ gs ∈ tm'.gslots, (grp s x.core gs).threads.length ≤ 32 ∧ (grp s x.core gs).tslot = g.tslot) →
    (∃ t, exec (.barG x) s = .next t ∧ Touches [.cores, .ctr] s t ∧ (grp t x.core x.gslot).vreg = g.vreg ∧
      (∀ k < 32, ((grp t x.core x.gslot).thr k).pc = if k ∈ set then x.pc + insLen x.f else (g.thr k).pc) ∧
      ((∀ k < 32, here .barG x.gslot k) →
        ∀ k < 32, k ∈ act ∨ (g.thr k).stat = .barG → ((grp t x.core x.gslot).thr k).stat = .running) ∧
      ((∃ k < 32, ¬here .barG x.gslot k) →
        (∀ k ∈ act, ((grp t x.core x.gslot).thr k).stat = .barG) ∧
        (∀ k < 32, (g.thr k).stat = .barG → ((grp t x.core x.gslot).thr k).stat = .barG) ∧
        (g.watch = none → (grp t x.core x.gslot).watch = some { count := 0, limit := barLimit s x.core }))) ∧
    (∃ t, exec (.barT x) s = .next t ∧ Touches [.cores, .ctr] s t ∧ (grp t x.core x.gslot).vreg = g.vreg ∧
      (∀ k < 32, ((grp t x.core x.gslot).thr k).pc = if k ∈ set then x.pc + insLen x.f else (g.thr k).pc) ∧
      ((∀ gs ∈ tm'.gslots, ∀ k < 32, here .barT gs k) →
        ∀ gs ∈ tm'.gslots, ∀ k < 32, (gs = x.gslot ∧ k ∈ act) ∨ ((grp s x.core gs).thr k).stat = .barT →
          ((grp t x.core gs).thr k).stat = .running) ∧
      ((∃ gs ∈ tm'.gslots, ∃ k < 32, ¬here .barT gs k) →
        (∀ k ∈ act, ((grp t x.core x.gslot).thr k).stat = .barT) ∧
        (tm'.watch = none → (tm t x.core g.tslot).watch = some { count := 0, limit := barLimit s x.core })))

/-- Fences and NOP (R87, R93): a fence whose conditions hold for its group retires and changes nothing; one whose conditions do not
hold is not ready, and nothing happens at all. -/
def Obligations.FenceResults : Prop :=
  ∀ (x : Issue) (s : State) (set act : List Nat),
    let g := grp s x.core x.gslot
    let k := core s x.core
    let quiet := g.sb = [] ∧ (∀ a ∈ g.accs, a.kind = .ldio ∨ a.kind = .stio ∨ a.kind = .alloc) ∧ mxPending k x.gslot = 0 ∧
      tmPending k x.gslot = 0
    let acked := ∀ r ∈ groupReqs s x.core x.gslot, ordered r.pkt.kind = false
    let pages := (∀ a ∈ g.accs, a.kind ≠ .ldio ∧ a.kind ≠ .stio) ∧
      ∀ r ∈ groupReqs s x.core x.gslot, bits r.pkt.addr 47 40 ≠ 1
    Issues shNone true x s set act →
    ∀ e ∈ ([(.fenceCore x, quiet), (.fenceChip x, quiet), (.fenceSys x, quiet ∧ acked), (.fenceIo x, quiet ∧ pages),
        (.nop x, True)] : List (Instr × Prop)),
      (e.2 → ∃ t, exec e.1 s = .next t ∧ OnlyGroup x s t ∧ OnlyRegs x s t ∧ MovesOn x set s t ∧ VecKept x [] 255 0 s t ∧
        UniKept x s t ∧ PredKept x [] none s t) ∧
      (¬e.2 → exec e.1 s = .next s)

/-- WAITF, its timeout and SIGF on this chip (R88 to R90, R346), for one acting lane: on a slot that the context owns or shares, WAITF
answers 0 or, with the error flag, 1 at once when the slot is signalled, and otherwise waits, until vC core cycles have passed if
vC is not 0; the timeout answers 2; SIGF signals the slot, adds the error flag of OPMOD [0], and releases every thread that waits on
it. A malformed reference raises ADDRESS, a slot of another context PERMISSION. -/
def Obligations.FenceSlotResults : Prop :=
  (∀ (x : Issue) (s : State) (set : List Nat) (k sl : Nat),
    let g := grp s x.core x.gslot
    let a := lfref x g k
    let n := srcC x.f g k 1
    let f := fence s sl
    Issues shWaitf true x s set [k] → waitSlot s a = some sl → slotMine s g.ctx sl = true →
    ∃ t, exec (.waitf x) s = .next t ∧ OnlyGroup x s t ∧ UniKept x s t ∧ PredKept x [k] none s t ∧
      ((grp t x.core x.gslot).thr k).pc = x.pc + insLen x.f ∧
      (f.sig = true → ((grp t x.core x.gslot).thr k).stat = .running ∧ VecKept x [k] x.f.dst.toNat 1 s t ∧
        (x.f.dst.toNat ≠ 255 → (grp t x.core x.gslot).v k x.f.dst.toNat = if f.err then 1 else 0)) ∧
      (f.sig = false → ((grp t x.core x.gslot).thr k).stat = .waitF ∧ VecKept x [] 255 0 s t ∧
        (grp t x.core x.gslot).waits = g.waits ++
          [{ th := k, slot := sl, dst := x.f.dst.toNat, till := if n = 0 then none else some (s.time.ccRun + n) }])) ∧
  (∀ (c gs k : Nat) (w : WaitRec) (s : State),
    let g := grp s c gs
    g.waits.find? (fun v => v.th == k && match v.till with | some n => decide (n ≤ s.time.ccRun) | none => false) = some w →
    k < g.threads.length → k < 32 → w.dst < 256 →
    ∃ t, exec (.waitfTimeout c gs k) s = .next t ∧ Touches [.cores] s t ∧ ((grp t c gs).thr k).stat = .running ∧
      ((grp t c gs).thr k).pc = (g.thr k).pc ∧ (∀ v ∈ (grp t c gs).waits, v.th ≠ k) ∧
      (w.dst ≠ 255 → (grp t c gs).v k w.dst = 2) ∧ (∀ i, i ≠ gs → grp t c i = grp s c i) ∧ (∀ d, d ≠ c → core t d = core s d)) ∧
  (∀ (x : Issue) (s : State) (set : List Nat) (k sl : Nat),
    let g := grp s x.core x.gslot
    Issues shSigf true x s set [k] → fref (lfref x g k) = .loc sl → slotMine s g.ctx sl = true →
    ∃ t, exec (.sigf x) s = .next t ∧ Touches [.box, .cores, .ctr, .dbg] s t ∧
      fence t sl = { fence s sl with sig := true, err := (fence s sl).err || bit x.f.opmod.toNat 0 } ∧
      (∀ j, j ≠ sl → fence t j = fence s j) ∧
      ∀ c gs, (∀ w ∈ (grp t c gs).waits, w.slot ≠ sl) ∧
        ∀ w ∈ (grp s c gs).waits, w.slot = sl → w.th < 32 → w.th < (grp s c gs).threads.length →
          ((grp t c gs).thr w.th).stat = .running) ∧
  (∀ (x : Issue) (s : State) (set : List Nat) (k sl : Nat),
    let g := grp s x.core x.gslot
    let faults := fun (i : Instr) (kind : Nat) => ∃ t, exec i s = .next t ∧ (grp t x.core x.gslot).stopped = true ∧
      ((grp t x.core x.gslot).thr k).pc = x.pc ∧ (grp t x.core x.gslot).vreg = g.vreg ∧ t.box = s.box ∧
      ∃ r : FaultRec, (core t x.core).faults = (core s x.core).faults ++ [r] ∧ r.kind = kind ∧ r.addr = lfref x g k
    (Issues shWaitf true x s set [k] → (fref (lfref x g k) = .bad → faults (.waitf x) 1) ∧
      (fref (lfref x g k) = .loc sl → slotMine s g.ctx sl = false → faults (.waitf x) 2)) ∧
    (Issues shSigf true x s set [k] → (fref (lfref x g k) = .bad → faults (.sigf x) 1) ∧
      (fref (lfref x g k) = .loc sl → slotMine s g.ctx sl = false → faults (.sigf x) 2)))

/-- Control transfer (R35, R37, R63, R91 to R93). BRA and CALL go to the target of the instruction, BRA.R, CALL.R and RET to the address
in the source; CALL and CALL.R first write the address of the next instruction to the destination pair; a target at or below
the branch marks the set, so does YIELD; lanes that do not act go on. A target that is no multiple of 8 raises MISALIGNED. EXIT
is ready once no access, buffered store or remote request of the acting threads is left (assumption 36); it ends them, and the last exit
of a group whose engine commands are complete releases its slot. -/
def Obligations.ControlResults : Prop :=
  ∀ (x : Issue) (s : State) (set act : List Nat),
    let g := grp s x.core x.gslot
    let near : W64 := match x.f.long with
      | some i => i
      | none => x.pc + 8 * (x.f.srca ++ x.f.srcb ++ x.f.srcc : BitVec 24).signExtend 64
    let far := fun k => (BitVec.ofNat 64 (regVal g k x.f.ua x.f.srca.toNat 2) : W64)
    (∀ e ∈ ([(.bra x, shBra, false, fun _ => near), (.braR x, shBraR, false, far), (.call x, shCall, true, fun _ => near),
        (.callR x, shCallR, true, far), (.ret x, shBraR, false, far)] : List (Instr × Shape × Bool × (Nat → W64))),
      let (i, sh, link, target) := e
      Issues sh true x s set act →
      ((∀ k ∈ act, (target k).toNat % 8 = 0) →
        ∃ t, exec i s = .next t ∧ OnlyGroup x s t ∧ OnlyRegs x s t ∧ UniKept x s t ∧ PredKept x [] none s t ∧
          VecKept x act (if link then x.f.dst.toNat else 255) 2 s t ∧
          (∀ k < 32, ((grp t x.core x.gslot).thr k).stat = (g.thr k).stat ∧ ((grp t x.core x.gslot).thr k).pc =
            if k ∈ act then target k else if k ∈ set then x.pc + insLen x.f else (g.thr k).pc) ∧
          ∀ k ∈ act, (((grp t x.core x.gslot).thr k).mark = decide ((target k).toNat ≤ x.pc.toNat)) ∧
            (link = true → x.f.dst.toNat ≠ 255 → (grp t x.core x.gslot).v64 k x.f.dst.toNat = x.pc + insLen x.f)) ∧
      (act ≠ [] → (∀ k ∈ act, (target k).toNat % 8 ≠ 0) →
        ∃ t, exec i s = .next t ∧ (grp t x.core x.gslot).stopped = true ∧ (grp t x.core x.gslot).vreg = g.vreg ∧
          (∀ k ∈ act, ((grp t x.core x.gslot).thr k).pc = x.pc) ∧
          ∃ r : FaultRec, (core t x.core).faults = (core s x.core).faults ++ [r] ∧ r.kind = 3 ∧ r.mask = maskOf act)) ∧
    (Issues shNone true x s set act → act ≠ [] →
      (∃ t, exec (.yield x) s = .next t ∧ OnlyGroup x s t ∧ OnlyRegs x s t ∧ MovesOn x set s t ∧ VecKept x [] 255 0 s t ∧
        UniKept x s t ∧ PredKept x [] none s t ∧ ∀ k ∈ set, ((grp t x.core x.gslot).thr k).mark = true) ∧
      (lanesDone s x = false → exec (.exit_ x) s = .next s) ∧
      ((∀ e ∈ g.sb, e.th ∉ act) → (∀ a ∈ g.accs, ∀ k ∈ act, a.mask.testBit k = false) →
        (∀ r ∈ groupReqs s x.core x.gslot, ∀ k ∈ act, r.owner ≠ .store x.core x.gslot k) →
        ∃ t, exec (.exit_ x) s = .next t ∧ Touches [.cores, .ctr, .box, .streams, .regs] s t ∧
        (∀ k ∈ act, ((grp t x.core x.gslot).thr k).stat = .exited) ∧
        ((∀ k, k < g.threads.length → k ∈ act ∨ (g.thr k).stat = .exited) →
          mxPending (core s x.core) x.gslot = 0 → tmPending (core s x.core) x.gslot = 0 → (grp t x.core x.gslot).occ = false)))

/-- TRAP and BRK (R51, R61, R93): TRAP raises TRAP with the 16-bit code of its word, BRK in an ordinary context raises BRK, for the
acting threads, which stand at the instruction; in a debug context BRK retires and halts the group with cause 4. -/
def Obligations.TrapResults : Prop :=
  ∀ (x : Issue) (s : State) (set act : List Nat),
    let g := grp s x.core x.gslot
    let debug := (ctx s g.ctx).debug
    let faults := fun (i : Instr) (kind code : Nat) => ∃ t, exec i s = .next t ∧ Touches [.cores, .ctr, .dbg] s t ∧
      (grp t x.core x.gslot).stopped = true ∧ (grp t x.core x.gslot).vreg = g.vreg ∧
      (∀ k < 32, ((grp t x.core x.gslot).thr k).pc =
        if k ∈ act then x.pc else if k ∈ set then x.pc + insLen x.f else (g.thr k).pc) ∧
      ∃ r : FaultRec, (core t x.core).faults = (core s x.core).faults ++ [r] ∧ r.kind = kind ∧ r.code = code ∧
        r.mask = maskOf act ∧ r.pc = x.pc ∧ r.ctx = g.ctx ∧ r.tag = g.tag ∧ r.gslot = x.gslot
    Issues shNone true x s set act → act ≠ [] →
    faults (.trap x) 6 (x.f.srcb.toNat * 256 + x.f.srcc.toNat) ∧ (debug = false → faults (.brk x) 7 0) ∧
    (debug = true → ∃ t, exec (.brk x) s = .next t ∧ OnlyGroup x s t ∧ MovesOn x set s t ∧ VecKept x [] 255 0 s t ∧
      (grp t x.core x.gslot).halted = true ∧ (grp t x.core x.gslot).cause = 4 ∧ (grp t x.core x.gslot).stopped = false)

/-- The matrix instructions at issue and the claim (R74, R94, R95, R103 to R106). A group that holds the claim, or takes it because
nobody holds or waits for it, enqueues the command with its uniform operands as read, while 16 are not outstanding; taking the claim
clears both weight sets unless the group was the last holder, and then a last holder whose team is saved gets its sets back no more. Otherwise the instruction is not ready and the group waits. MX.DRAIN
issues once the group's commands are done, and ends the claim. A free claim goes to the next waiting group in slot order. -/
def Obligations.MatrixIssue : Prop :=
  (∀ (x : Issue) (s : State) (set act : List Nat),
    let g := grp s x.core x.gslot
    let k := core s x.core
    let waits := fun (i : Instr) => exec i s =
      .next (if k.claim = some x.gslot then s else setGrp s x.core x.gslot { g with mxWait := true })
    (∀ e ∈ ([(.mxLoadw x, 2, .loadw), (.mxSwap x, 0, .swap), (.mxRun x, 3, .run)] : List (Instr × Nat × MxKind)),
      let (i, n, kind) := e
      Issues (shMx n) true x s set act →
      (mxCan k x.gslot = false → waits i) ∧
      (mxCan k x.gslot = true → ∃ t, exec i s = .next t ∧ Touches [.cores, .ctr, .box, .dbg] s t ∧ MovesOn x set s t ∧
        t.box = { s.box with saved := t.box.saved } ∧ (∀ c, c ≠ x.core → core t c = core s c) ∧
        (∀ j, j ≠ x.gslot → grp t x.core j = { grp s x.core j with mxBack := (grp t x.core j).mxBack }) ∧
        (k.claim = some x.gslot ∨ k.last = some x.gslot → t.box = s.box ∧ ∀ j, j ≠ x.gslot → grp t x.core j = grp s x.core j) ∧
        (grp t x.core x.gslot).vreg = g.vreg ∧ (grp t x.core x.gslot).ureg = g.ureg ∧ (grp t x.core x.gslot).sb = g.sb ∧
        (grp t x.core x.gslot).accs = g.accs ∧
        let h := core t x.core
        h.claim = some x.gslot ∧ h.order = k.order + 1 ∧ h.tmq = k.tmq ∧ h.tmem = k.tmem ∧ h.mxRuns = k.mxRuns ∧
        (k.claim = some x.gslot ∨ k.last = some x.gslot → h.active = k.active ∧ h.shadow = k.shadow) ∧
        (k.claim = none → k.last ≠ some x.gslot → h.active = WSet.zero ∧ h.shadow = WSet.zero) ∧
        (k.claim = none → h.last = some x.gslot ∧ (grp t x.core x.gslot).mxWait = false) ∧
        (k.claim = some x.gslot ∨ g.mxBack = none → h.mxq = k.mxq ++
          [{ kind := kind, gslot := x.gslot, pc := x.pc, mask := maskOf set, a := g.u x.f.srca.toNat
             b := g.u x.f.srcb.toNat, c := g.u x.f.srcc.toNat, order := k.order }]))) ∧
    (Issues (shMx 0) true x s set act →
      (mxCan k x.gslot = false → waits (.mxDrain x)) ∧
      (mxCan k x.gslot = true → mxPending k x.gslot ≠ 0 → exec (.mxDrain x) s = .next s) ∧
      (mxCan k x.gslot = true → mxPending k x.gslot = 0 → ∃ t, exec (.mxDrain x) s = .next t ∧
        Touches [.cores, .ctr, .box, .dbg, .streams] s t ∧ MovesOn x set s t ∧ (core t x.core).claim = none ∧
        (core t x.core).tmem = k.tmem ∧ (core t x.core).tmq = k.tmq ∧ (grp t x.core x.gslot).vreg = g.vreg ∧
        (grp t x.core x.gslot).ureg = g.ureg))) ∧
  (∀ (c gs : Nat) (s : State),
    let k := core s c
    let first := match k.last with | some l => l + 1 | none => 0
    let after := fun j => (j + 64 - first % 64) % 64
    let waiting := fun j => (grp s c j).occ = true ∧ (grp s c j).mxWait = true
    running s = true → k.claim = none → gs < 64 → waiting gs → (∀ j < 64, waiting j → after gs ≤ after j) →
    ∃ t, exec (.claimTake c) s = .next t ∧ Touches [.cores, .box, .dbg] s t ∧ (core t c).claim = some gs ∧ (core t c).last = some gs ∧
      (grp t c gs).mxWait = false ∧ (∀ j, j ≠ gs → grp t c j = { grp s c j with mxBack := (grp t c j).mxBack }) ∧ (core t c).tmem = k.tmem ∧
      (k.last = some gs → (core t c).active = k.active ∧ (core t c).shadow = k.shadow) ∧
      (k.last ≠ some gs → (core t c).active = WSet.zero ∧ (core t c).shadow = WSet.zero))

/-- Matrix commands (R98, R107 to R114, R119, R121, R124, R132, R177). A command that may start is checked first: a reserved word raises
ILLEGAL, a range that is not aligned to 256 MISALIGNED, one past the team's allocation ADDRESS, a damaged one POISON; the group stops,
its later commands go and the claim ends, with no effect. MX.SWAP exchanges the sets; MX.LOADW loads the shadow set and MX.RUN writes
512 bytes of results for each vector when they complete; result i is the products with row or column i of the active block, added one at
a time in rising order, from 0 or from the word there, and a place outside the block gets 0 or keeps its word. -/
def Obligations.MatrixCommands : Prop :=
  (∀ (c : Nat) (s : State) (m : MxCmd),
    let k := core s c
    let ts := (grp s c m.gslot).tslot
    let ranges := mxReads m ++ mxWrites m
    let badWord := (m.kind = .loadw ∧ shapeOk m.b.toNat = false) ∨ (m.kind = .run ∧ runOk m.c.toNat = false)
    let odd := ∃ r ∈ ranges, r.1 % 256 ≠ 0
    let past := ∃ r ∈ ranges, tileSize (tm s c ts) < r.1 + r.2
    let hurt := (∃ r ∈ mxReads m, tileBad s c ts r.1 r.2 = true) ∨ (m.kind = .run ∧ k.active.poison = true)
    let faults := fun (kind : Nat) => ∃ t, exec (.matrixCommandStart c) s = .next t ∧ Touches [.cores, .ctr, .dbg] s t ∧
      (core t c).claim = none ∧ (core t c).tmem = k.tmem ∧ (core t c).active = k.active ∧ (core t c).shadow = k.shadow ∧
      (grp t c m.gslot).stopped = true ∧ (∀ y ∈ (core t c).mxq, y.gslot = m.gslot → y.order < m.order) ∧
      ∃ r : FaultRec, (core t c).faults = k.faults ++ [r] ∧ r.kind = kind ∧ r.engine = true ∧ r.pc = m.pc ∧ r.mask = m.mask
    mxStarts s c = some m → k.reload = none →
    (badWord → faults 4) ∧ (¬badWord → odd → faults 3) ∧ (¬badWord → ¬odd → past → faults 1) ∧
    (¬badWord → ¬odd → ¬past → hurt → faults 8) ∧
    (¬badWord → ¬odd → ¬past → ¬hurt → m.kind ≠ .drain → ∃ t, exec (.matrixCommandStart c) s = .next t ∧
      Touches (if m.kind = .swap then [.cores, .dbg, .box, .streams, .regs] else [.cores, .dbg]) s t ∧ (core t c).tmem = k.tmem ∧
      (core t c).mxq = k.mxq.tail ∧
      (m.kind = .swap → (∃ y ∈ (grp s c m.gslot).threads, y.stat ≠ .exited) → (core t c).active = k.shadow ∧ (core t c).shadow = k.active) ∧
      (m.kind ≠ .swap → (core t c).active = k.active ∧ (core t c).shadow = k.shadow ∧
        ∃ r, (core t c).mxRuns = k.mxRuns ++ [r] ∧ r.cmd = m ∧ r.w = k.active ∧
          r.input = ((mxReads m).take 1).flatMap (fun q => tileRead s c ts q.1 q.2) ∧
          r.old = (mxWrites m).flatMap (fun q => tileRead s c ts q.1 q.2)))) ∧
  (∀ (c : Nat) (s : State) (r : MxRun) (rest : List MxRun),
    let k := core s c
    let m := r.cmd
    let ts := (grp s c m.gslot).tslot
    k.mxRuns = r :: rest → m.kind = .loadw → s.dbg.quiet = false → r.input = tileRead s c ts m.a.toNat (shapeM m.b.toNat * 128 * mxSize (shapeFmt m.b.toNat)) →
    (∃ y ∈ (grp s c m.gslot).threads, y.stat ≠ .exited) →
    ∃ t, exec (.matrixCommandComplete c) s = .next t ∧ Touches [.free, .cores, .dbg, .box] s t ∧ (core t c).mxRuns = rest ∧
      (core t c).tmem = k.tmem ∧ (core t c).active = k.active ∧ (core t c).shadow.fmt = shapeFmt m.b.toNat ∧
      (core t c).shadow.m = shapeM m.b.toNat ∧ (core t c).shadow.n = shapeN m.b.toNat ∧
      ∀ i < 128, ∀ j < 128, SMap.get 0 (core t c).shadow.w (128 * i + j) =
        if i < shapeM m.b.toNat ∧ j < shapeN m.b.toNat then
          BitVec.ofNat 16 (ofLE (tileRead s c ts (m.a.toNat + (128 * i + j) * mxSize (shapeFmt m.b.toNat)) (mxSize (shapeFmt m.b.toNat))))
        else 0) ∧
  (∀ (c : Nat) (s : State) (r : MxRun) (rest : List MxRun),
    let k := core s c
    let m := r.cmd
    let w := m.c.toNat
    let ts := (grp s c m.gslot).tslot
    let e := mxSize (runFmt w)
    let n := runK w
    let wm := r.w.m
    let wn := r.w.n
    let weight := fun (i j : Nat) => mxVal r.w.fmt (SMap.get 0 r.w.w (128 * i + j)).toNat
    let elem := fun (v j : Nat) => mxVal (runFmt w) (ofLE (tileRead s c ts (m.a.toNat + e * (128 * v + j)) e))
    let word := fun (u : State) (v i : Nat) => tileRead u c ts (m.b.toNat + 512 * v + 4 * i) 4
    let start := fun (v i : Nat) => if runAcc w then PS.start (ofLE (word s v i)) else .fin false 0 0
    k.mxRuns = r :: rest → m.kind = .run → s.dbg.quiet = false → runOk w = true →
    (∃ y ∈ (grp s c m.gslot).threads, y.stat ≠ .exited) →
    r.input = tileRead s c ts m.a.toNat (128 * e * n) → r.old = tileRead s c ts m.b.toNat (512 * n) →
    m.a.toNat + 128 * e * n ≤ tileSize (tm s c ts) → m.b.toNat + 512 * n ≤ tileSize (tm s c ts) → (tm s c ts).tgran.Nodup →
    (m.a.toNat + 128 * e * n ≤ m.b.toNat ∨ m.b.toNat + 512 * n ≤ m.a.toNat) → wm ≤ 128 → wn ≤ 128 →
    m.a.toNat % 256 = 0 → m.b.toNat % 256 = 0 → SMap.wf 0 r.w.w = true →
    ∃ t, exec (.matrixCommandComplete c) s = .next t ∧ Touches [.free, .cores, .ctr, .dbg, .box] s t ∧
      (core t c).mxRuns.map (fun q => q.cmd) = rest.map (fun q => q.cmd) ∧ (core t c).active = k.active ∧ (core t c).shadow = k.shadow ∧
      ∀ v < n, ∀ i < 128, word t v i =
        if runT w then
          if i < wn then toLE 4 ((upTo 0 wm).foldl (fun p j => p.add (cellProd (weight j i) (elem v j))) (start v i)).bits
          else if runAcc w then word s v i else [0, 0, 0, 0]
        else if i < wm then toLE 4 ((upTo 0 wn).foldl (fun p j => p.add (cellProd (weight i j) (elem v j))) (start v i)).bits
        else if runAcc w then word s v i else [0, 0, 0, 0])

/-- The tile mover and the device allocator at issue (R94, R96, R97, R99, R100). TM.GET and TM.PUT enqueue one command with the uniform
operands as read, while the queue has room, and are not ready otherwise; TM.WAIT retires when at most N of the group's commands are not
complete, and changes nothing. ALLOC writes 0 at once for a size of 0 or above 2^30, and otherwise leaves a request of the size's class.
FREE of 0 does nothing; of the start of a live block it returns the block; of anything else it raises ADDRESS. -/
def Obligations.MoverAndAllocatorIssue : Prop :=
  ∀ (x : Issue) (s : State) (set act : List Nat),
    let g := grp s x.core x.gslot
    let k := core s x.core
    (∀ e ∈ ([(.tmGet x, shTm, decide (bits x.f.opmod.toNat 4 1 ≤ 6), false), (.tmPut x, shTmPut, true, true)] :
        List (Instr × Shape × Bool × Bool)),
      let (i, sh, ok, put) := e
      Issues sh ok x s set act →
      (tmRoom k = false → exec i s = .next s) ∧
      (tmRoom k = true → ∃ t, exec i s = .next t ∧ Touches [.cores, .ctr, .box, .dbg] s t ∧ MovesOn x set s t ∧
        t.box = { s.box with grantReq := t.box.grantReq } ∧ (∀ c, c ≠ x.core → core t c = core s c) ∧
        (∀ j, j ≠ x.gslot → grp t x.core j = grp s x.core j) ∧
        (grp t x.core x.gslot).vreg = g.vreg ∧ (grp t x.core x.gslot).ureg = g.ureg ∧ (grp t x.core x.gslot).sb = g.sb ∧
        (core t x.core).order = k.order + 1 ∧ (core t x.core).tmem = k.tmem ∧ (core t x.core).mxq = k.mxq ∧
        (core t x.core).tmRun = k.tmRun ∧ (core t x.core).tmq = k.tmq ++
          [{ put := put, gslot := x.gslot, pc := x.pc, mask := maskOf set, a := g.u x.f.srca.toNat, b := g.u x.f.srcb.toNat
             c := g.u x.f.srcc.toNat, mod := x.f.opmod.toNat, order := k.order, moved := 0 }])) ∧
    (Issues shNone (waitOk x.f) x s set act →
      (tmPending k x.gslot ≤ x.f.srcc.toNat → ∃ t, exec (.tmWait x) s = .next t ∧ OnlyGroup x s t ∧ OnlyRegs x s t ∧
        MovesOn x set s t ∧ VecKept x [] 255 0 s t ∧ UniKept x s t ∧ PredKept x [] none s t) ∧
      (x.f.srcc.toNat < tmPending k x.gslot → exec (.tmWait x) s = .next s)) ∧
    (let n := fun j => regVal g j x.f.ua x.f.srca.toNat 1 % 2 ^ 32
    Issues shAlloc true x s set act →
      ((∀ j ∈ act, n j = 0 ∨ 2 ^ 30 < n j) → ∃ t, exec (.alloc x) s = .next t ∧ Touches [.cores, .ctr] s t ∧ MovesOn x set s t ∧
        VecKept x act x.f.dst.toNat 2 s t ∧ UniKept x s t ∧ PredKept x act none s t ∧ (grp t x.core x.gslot).accs = g.accs ∧
        ∀ j ∈ act, x.f.dst.toNat ≠ 255 → (grp t x.core x.gslot).v64 j x.f.dst.toNat = 0) ∧
      ((∀ j ∈ act, 1 ≤ n j ∧ n j ≤ 2 ^ 30) → ∃ t, exec (.alloc x) s = .next t ∧ Pends x set s t ∧ t.mem = s.mem ∧
        (grp t x.core x.gslot).accs.map (fun a => (a.kind, a.mask, a.size, a.dst)) =
          g.accs.map (fun a => (a.kind, a.mask, a.size, a.dst)) ++
            act.map (fun j => (AccKind.alloc, 2 ^ j, max 256 (2 ^ Nat.clog 2 (n j)), x.f.dst.toNat)))) ∧
    (let a := fun j => (BitVec.ofNat 64 (regVal g j x.f.ua x.f.srca.toNat 2) : W64)
    Issues shFree true x s set act →
      (quietCore s x = false → exec (.free x) s = .next s) ∧
      (quietCore s x = true → (∀ j ∈ act, a j = 0) → ∃ t, exec (.free x) s = .next t ∧ OnlyGroup x s t ∧ OnlyRegs x s t ∧
        MovesOn x set s t ∧ VecKept x [] 255 0 s t ∧ UniKept x s t ∧ PredKept x [] none s t) ∧
      (∀ j o, quietCore s x = true → act = [j] → a j ≠ 0 → isLocal (a j) = true → blockAt (ctx s g.ctx) (vaOf (a j)) = some o →
        ∃ t, exec (.free x) s = .next t ∧ Touches [.cores, .ctr, .box] s t ∧ MovesOn x set s t ∧
          t.box = { s.box with ctxs := t.box.ctxs } ∧ (∀ c, c ≠ g.ctx → ctx t c = ctx s c) ∧
          (grp t x.core x.gslot).vreg = g.vreg ∧ (grp t x.core x.gslot).ureg = g.ureg ∧
          ctx t g.ctx = { ctx s g.ctx with objs := (mapFirst (fun p => p.handle == o.handle)
            (fun p => { p with blocks := p.blocks.filter (fun b => b.1 != vaOf (a j)) }) (ctx s g.ctx).objs) }) ∧
      (∀ j, quietCore s x = true → act = [j] → a j ≠ 0 → (isLocal (a j) = false ∨ blockAt (ctx s g.ctx) (vaOf (a j)) = none) →
        ∃ t, exec (.free x) s = .next t ∧ Touches [.cores, .ctr, .dbg] s t ∧ (grp t x.core x.gslot).stopped = true ∧
          ((grp t x.core x.gslot).thr j).pc = x.pc ∧ (grp t x.core x.gslot).vreg = g.vreg ∧
          ∃ r : FaultRec, (core t x.core).faults = (core s x.core).faults ++ [r] ∧ r.kind = 1 ∧ r.addr = a j ∧ r.mask = 2 ^ j)) ∧
    (∀ (c gs id region : Nat) (a : Acc), accAt s c gs id = some a → a.kind = .alloc → (grp s c gs).sb = [] → a.dst < 254 →
      (∃ y ∈ (grp s c gs).threads, y.stat ≠ .exited) →
      let h := grp s c gs
      let v := ctx s h.ctx
      let answers := fun (r : W64) (t : State) => exec (.allocResult c gs id region) s = .next t ∧
        (∀ b ∈ (grp t c gs).accs, b.id ≠ id) ∧ (grp t c gs).v64 a.th a.dst = r ∧ (∀ j, j ≠ gs → grp t c j = grp s c j) ∧
        ∀ k r, k < 32 → r < 256 → ¬(k = a.th ∧ (r = a.dst ∨ r = a.dst + 1)) → (grp t c gs).v k r = h.v k r
      (canSupply v a.size = false → ∃ t, answers 0 t ∧ Touches [.cores, .ctr] s t) ∧
      (∀ o va, regionPick v region a.size = some (o, va) →
        ∃ t, answers (ctxAddr va) t ∧ Touches [.cores, .box] s t ∧
          (va, a.size) ∈ (ctx t h.ctx).objs.flatMap (fun p => p.blocks)))

/-- Tile-mover commands (R53, R96, R98, R128, R188, R193, R205). A global copy that may start is checked first: reserved fields raise
ILLEGAL, a global address that is no multiple of 32 MISALIGNED, a tile range past the allocation ADDRESS. A copy between this chip's memory
and tile memory takes its source at the start and, at completion, has its bytes at the destination and changes no other byte.
A TM.GET.S with a uC of 0 takes the next tile dealt to its core, which is consumed at completion, and faults where R188 says so; one with
another uC raises ILLEGAL in place of taking a tile (assumption 107). The first request in order is granted, or, where its core's tile is
not ready, released until it is. -/
def Obligations.MoverCommands : Prop :=
  (∀ (c : Nat) (s : State) (m : TmCmd),
    let k := core s c
    let ts := (grp s c m.gslot).tslot
    let w := m.c.toNat
    let total := tmRow w * tmRows w
    let badWord := tmRow w = 0 ∨ tmRow w % 32 ≠ 0 ∨ tmRows w = 0 ∨ (m.unpack ≠ 0 ∧ tmRow w % mxGroup m.unpack ≠ 0)
    let past := tileSize (tm s c ts) < m.a.toNat + m.size total
    let l := spots s (grp s c m.gslot).ctx m.put (tmPieces m)
    let faults := fun (kind : Nat) => ∃ t, exec (.tileMoverCommandStart c) s = .next t ∧ t.mem = s.mem ∧ (core t c).tmem = k.tmem ∧
      (core t c).tmRun = none ∧ (grp t c m.gslot).stopped = true ∧ (∀ y ∈ (core t c).tmq, y.gslot = m.gslot → y.order < m.order) ∧
      ∃ r : FaultRec, (core t c).faults = k.faults ++ [r] ∧ r.kind = kind ∧ r.engine = true ∧ r.pc = m.pc ∧ r.mask = m.mask
    tmStarts s c = some m →
    (m.isStream = false → (badWord → faults 4) ∧ (¬badWord → m.b.toNat % 32 ≠ 0 → faults 3) ∧
      (¬badWord → m.b.toNat % 32 = 0 → past → faults 1) ∧
      (¬badWord → m.b.toNat % 32 = 0 → ¬past →
        (∀ kind addr, firstFault l = some (kind, addr) → ∃ t, exec (.tileMoverCommandStart c) s = .next t ∧ (core t c).tmRun = none ∧
          (grp t c m.gslot).stopped = true ∧ (core t c).faults.length = k.faults.length + 1) ∧
        (firstFault l = none → (m.put = true ∨ m.unpack = 0 ∨ ∀ q ∈ l, pieceBad s q = []) →
          ∃ t r, exec (.tileMoverCommandStart c) s = .next t ∧ Touches [.free, .cores, .ctr, .dbg, .mem, .out, .fab] s t ∧
            (core t c).tmem = k.tmem ∧ (core t c).tmq = k.tmq.tail ∧ (core t c).tmRun = some r ∧ r.cmd = m ∧ r.tile = none ∧
            r.wait.map Prod.snd = (remotes l).map (fun q => (q.1.pos - m.skip, q.1.len)) ∧
            (Memory.wf s.mem = true → Memory.sound s.mem → ∀ i, sector t i = sector s i) ∧
            (m.put = false → r.src = l.flatMap (pieceBytes s) ∧ r.host = hostPieces m.skip l) ∧
            (m.put = true → r.src = tileRead s c ts (m.a.toNat + m.skip) (total - m.skip) ∧ r.host = [] ∧
              r.puts = l.filterMap (fun q => match q.2 with
                | .mem p => some (p, q.1.pos - m.skip, q.1.len, false) | .host b => some (b, q.1.pos - m.skip, q.1.len, true)
                | _ => none))))) ∧
    (m.isStream = true → m.c = 0 → ∀ kind, getCase s c m = .fault kind → faults kind) ∧
    (m.isStream = true → m.c ≠ 0 → ∀ tl, getCase s c m = .take tl → faults 4) ∧
    (m.isStream = true → m.c = 0 → ∀ tl, getCase s c m = .take tl → m.unpack = 0 →
      let x := stream s (m.b.toNat % 64)
      let d := (tileOf x tl).1
      (tileSize (tm s c ts) < m.a.toNat + d.length → faults 1) ∧
      (m.a.toNat + d.length ≤ tileSize (tm s c ts) → ∃ t, exec (.tileMoverCommandStart c) s = .next t ∧
        Touches [.cores, .dbg, .streams] s t ∧ (core t c).tmem = k.tmem ∧
        SMap.get 0 (stream t (m.b.toNat % 64)).taken c = SMap.get 0 x.taken c + 1 ∧
        ∃ r', (core t c).tmRun = some r' ∧ r'.cmd = m ∧ r'.src = d ∧ r'.tile = some tl))) ∧
  (∀ (c : Nat) (s : State) (r : TmRun),
    let m := r.cmd
    let ts := (grp s c m.gslot).tslot
    let off := m.a.toNat + m.moved
    let n := r.src.length
    (core s c).tmRun = some r → s.dbg.quiet = false → r.wait = [] → r.host = [] → m.unpack = 0 →
    (r.tile = none ∨ ∀ e ∈ s.sku.dies, d2dBusy s e = false) →
    (∃ y ∈ (grp s c m.gslot).threads, y.stat ≠ .exited) →
    (m.put = false → off + n ≤ tileSize (tm s c ts) → (tm s c ts).tgran.Nodup →
      ∃ t, exec (.tileMoverCommandComplete c []) s = .next t ∧ Touches [.cores, .ctr, .dbg, .box, .streams] s t ∧ (core t c).tmRun = none ∧
        tileRead t c ts off n = r.src ∧
        (∀ p, (∀ i < n, tilePhys (tm s c ts) (off + i) ≠ some p) → SMap.get 0 (core t c).tmem p = SMap.get 0 (core s c).tmem p) ∧
        ∀ tl, r.tile = some tl → (stream s (m.b.toNat % 64)).live = true → (stream t (m.b.toNat % 64)).live = true →
          tl ∈ (stream t (m.b.toNat % 64)).consumed ∧ ∀ y ∈ (stream t (m.b.toNat % 64)).tiles, y.t ≠ tl) ∧
    (∀ pa, m.put = true → r.tile = none → r.puts = [(pa, 0, n, false)] → r.src = tileRead s c ts off n →
      Memory.wf s.mem = true → Memory.sound s.mem →
      ∃ t, exec (.tileMoverCommandComplete c []) s = .next t ∧ Touches [.free, .mem, .cores, .ctr, .dbg, .box] s t ∧
        (core t c).tmRun = none ∧ (core t c).tmem = (core s c).tmem ∧ peek t pa n = r.src ∧
        ∀ a, a < pa ∨ pa + n ≤ a → peek t a 1 = peek s a 1)) ∧
  (∀ (s : State) (c : Nat) (rest : List Nat), running s = true → grantCount s < grantMax s → s.box.grantReq = c :: rest →
    ∃ t, exec .loadGrant s = .next t ∧ Touches [.cores, .box, .dbg] s t ∧ t.box = { s.box with grantReq := rest } ∧
      (∀ d, d ≠ c → core t d = core s d) ∧
      core t c = if headReady s c then { core s c with grant := true } else { core s c with parked := headStream s c })

/-- Answers to accesses (R49, R52, R79, R81 to R85, R175, R209, R257, R296, R314, R439), for an access whose group has no buffered store and
a thread that has not exited. The result is written to the destination, sign- or zero-extended below 4 bytes, and the access is gone: a
load takes the bytes its L1 holds, or those of a thatched page or of the host; a bypass read the bytes of the L2 and memory; an atomic the
old value, and its home gets the new one. Damaged data, a host whose link is down and a host read that nothing answers fault precisely, in
the record of the instruction's other threads where one waits; a register read that nothing answers returns all ones. A fetch fills the
instruction cache with the words of the instruction, or faults at the word it cannot fetch; where the word is there and its opcode is
reserved, it raises ILLEGAL (assumption 118). -/
def Obligations.AccessAnswers : Prop :=
  (∀ (c gs id : Nat) (a : Acc) (s : State),
    let g := grp s c gs
    let x := fun pa => l1Line s c (pa / 128)
    let got := fun (v : Nat) (t : State) =>
      (∀ b ∈ (grp t c gs).accs, b.id ≠ id) ∧ (∀ j, j ≠ gs → grp t c j = grp s c j) ∧ (∀ d, d ≠ c → core t d = core s d) ∧
      (∀ k, (grp t c gs).thr k = g.thr k) ∧ t.mem.hbm = s.mem.hbm ∧
      (a.kind = .stio → (grp t c gs).vreg = g.vreg ∧ (grp t c gs).ureg = g.ureg) ∧
      (a.kind = .uload → (grp t c gs).vreg = g.vreg ∧ (a.dst ≠ 255 → (grp t c gs).u a.dst =
        if a.sx ∧ a.size < 4 then (BitVec.ofNat (8 * a.size) v).signExtend 64 else BitVec.ofNat 64 v)) ∧
      (a.kind ≠ .uload → a.kind ≠ .stio → (grp t c gs).ureg = g.ureg ∧
        (∀ k r, k < 32 → r < 256 → ¬(k = a.th ∧ a.dst ≤ r ∧ r < a.dst + (a.size + 3) / 4) → (grp t c gs).v k r = g.v k r) ∧
        (a.dst ≠ 255 → ∀ i < (a.size + 3) / 4, (grp t c gs).v a.th (a.dst + i) =
          if a.size < 4 then (if a.sx then (BitVec.ofNat (8 * a.size) v).signExtend 32 else BitVec.ofNat 32 v)
          else (BitVec.ofNat (8 * a.size) v).extractLsb' (32 * i) 32))
    let late := fun (i : Instr) (kind : Nat) => (∀ q ∈ (core s c).faults, q.isOf gs a.ins = false) →
      ∃ t, exec i s = .next t ∧ t.mem.hbm = s.mem.hbm ∧ (grp t c gs).stopped = true ∧ a ∉ (grp t c gs).accs ∧
      ∃ r : FaultRec, (core t c).faults = (core s c).faults ++ [r] ∧ r.kind = kind ∧ r.addr = a.addr ∧ r.mask = a.mask ∧ r.pc = a.pc
    let joins := fun (i : Instr) => ∃ t, exec i s = .next t ∧ (grp t c gs).stopped = g.stopped ∧ a ∉ (grp t c gs).accs ∧
      (core t c).faults.length = (core s c).faults.length ∧
      ∃ r ∈ (core t c).faults, r.isOf gs a.ins = true ∧ ∀ k ∈ a.lanesOf, r.mask.testBit k = true
    let ret := fun (host : List Byte) => Instr.loadReturn c gs id host []
    let plain := a.kind = .load ∨ a.kind = .uload
    accAt s c gs id = some a → g.sb = [] → (∃ y ∈ g.threads, y.stat ≠ .exited) → a.th < 32 → a.mask.testBit a.th = true →
    a.size ∈ [1, 2, 4, 8, 16] → (a.dst = 255 ∨ a.dst + (a.size + 3) / 4 ≤ 255) →
    (∀ pa, memUp s = true → plain → a.dest = .mem pa → a.policy ≠ 2 → mayPerform g a = true → pa % a.size = 0 →
      (loadHit s c gs a pa = false → exec (ret []) s = .next s) ∧
      (loadHit s c gs a pa = true → (x pa).data.length = 128 →
        (bit (x pa).poison (pa % 128 / 32) = false → ∃ t, exec (ret []) s = .next t ∧ Touches [.cores] s t ∧
          got (ofLE (((x pa).data.drop (pa % 128)).take a.size)) t) ∧
        (bit (x pa).poison (pa % 128 / 32) = true → late (ret []) 8 ∧ ((∃ q ∈ (core s c).faults, q.isOf gs a.ins = true) → joins (ret []))))) ∧
    (∀ ix off, memUp s = true → plain → a.dest = .thatch ix off → mayPerform g a = true →
      let u := thTouch (touchRange s (ix + 8 * (off / 4096)) 8) ix off a.size
      (∀ d, thRead u ix off a.size = some d → ∃ t, exec (ret []) s = .next t ∧
        (grp t c gs).vreg = (writeResult g a (ofLE d)).vreg ∧ (grp t c gs).ureg = (writeResult g a (ofLE d)).ureg) ∧
      (thRead u ix off a.size = none → (∀ q ∈ (core s c).faults, q.isOf gs a.ins = false) →
        ∃ t, exec (ret []) s = .next t ∧ (grp t c gs).stopped = true)) ∧
    (∀ ba d, memUp s = true → plain → a.dest = .host ba → d.length = a.size →
      (linkUp s (hostPort s (ctx s g.ctx).part) = true → ∃ t, exec (ret d) s = .next t ∧ Touches [.cores] s t ∧ got (ofLE d) t) ∧
      (linkUp s (hostPort s (ctx s g.ctx).part) = false → late (ret d) 1)) ∧
    (∀ off, memUp s = true → a.kind = .ldio → a.dest = .io off → ∃ t, exec (ret []) s = .next t ∧ Touches [.cores] s t ∧
      got (readIo s ((ctx s g.ctx).part + 1) off a.size) t) ∧
    (∀ off, memUp s = true → a.kind = .stio → a.dest = .io off → ∃ u, Touches [.cores] s u ∧ got 0 u ∧
      exec (ret []) s = .next (writeIo u ((ctx s g.ctx).part + 1) off a.size (a.data.getD 0))) ∧
    (∀ off, a.kind = .ldio ∨ a.kind = .stio → a.dest = .io off → ∃ t, exec (.registerAccessTimeout c gs id) s = .next t ∧
      Touches [.cores] s t ∧ got (2 ^ (8 * a.size) - 1) t) ∧
    (∀ ba, a.dest = .host ba → late (.hostCompletionTimeout (.acc c gs id)) 1) ∧
    (∀ line pa, bypReadable s c gs id = some line → a.dest = .mem pa → pa % a.size = 0 → blocked s line = false → (dirOf s line).used = false →
      Memory.wf s.mem = true → Memory.sound s.mem → poisonIn s pa a.size = false →
      ∃ t, exec (.l1BypassRead c gs id) s = .next t ∧
        (grp t c gs).vreg = (writeResult g a (peekLE s pa a.size)).vreg ∧ (grp t c gs).ureg = (writeResult g a (peekLE s pa a.size)).ureg ∧
        ∀ p, peek t p 1 = peek s p 1) ∧
    (∀ line pa op sg b d, atomReady s c gs id = some line → a.kind = .atom op sg b d → a.dest = .mem pa → a.size ∈ [4, 8] →
      pa % a.size = 0 → blocked s line = false → (dirOf s line).used = false → Memory.wf s.mem = true → Memory.sound s.mem → poisonIn s pa a.size = false →
      let w := 8 * a.size
      let old := peekLE s pa a.size
      let less := if sg then BitVec.sle (BitVec.ofNat w old) (BitVec.ofNat w b) else decide (old ≤ b % 2 ^ w)
      let new := match op with
        | 0 => old + b | 1 => if less then old else b | 2 => if less then b else old | 3 => b | _ => if old = b then d else old
      ∃ t, exec (.atomicAtHome c gs id) s = .next t ∧ (grp t c gs).vreg = (writeResult g a old).vreg ∧
        peek t pa a.size = toLE a.size (new % 2 ^ w) ∧ ∀ p, p < pa ∨ pa + a.size ≤ p → peek t p 1 = peek s p 1)) ∧
  (∀ (c gs id line pa : Nat) (e : StEnt) (s : State), bypWritable s c gs id = some (line, e) → (grp s c gs).sb = [e] → e.dest = .bypass pa →
    (∃ y ∈ (grp s c gs).threads, y.stat ≠ .exited) → blocked s line = false → (dirOf s line).used = false → Memory.wf s.mem = true → Memory.sound s.mem →
    pa % 32 + e.size ≤ 32 → 0 < e.size →
    ∃ t, exec (.l1BypassWrite c gs id) s = .next t ∧ (grp t c gs).sb = [] ∧ (grp t c gs).vreg = (grp s c gs).vreg ∧
      peek t pa e.size = toLE e.size e.data ∧ ∀ p, p < pa ∨ pa + e.size ≤ p → peek t p 1 = peek s p 1) ∧
  (∀ (c gs : Nat) (pc : W64) (s : State), fetches s c gs pc = true →
    let l := fetchWords s (grp s c gs).ctx pc
    let faults := fun (kind : Nat) (addr : W64) => ∃ t, exec (.icacheFill c gs pc) s = .next t ∧ Touches [.cores, .ctr, .dbg] s t ∧
      (grp t c gs).stopped = true ∧ ∃ q : FaultRec, (core t c).faults = (core s c).faults ++ [q] ∧ q.kind = kind ∧ q.addr = addr ∧
        q.pc = pc ∧ q.mask = maskOf ((grp s c gs).setAt pc)
    (reservedNext s c gs pc = true → faults 4 0) ∧
    (reservedNext s c gs pc = false →
      (pc.toNat % 8 ≠ 0 → faults 3 pc) ∧
      (∀ w, l.find? (fun w => w.2.1 != 0) = some w → faults w.2.1 w.1) ∧
      ((∀ w ∈ l, w.2.1 = 0) → ∃ t, exec (.icacheFill c gs pc) s = .next t ∧ Touches [.cores, .ctr, .mem] s t ∧
        (core t c).groups = (core s c).groups ∧ (core t c).l1 = (core s c).l1 ∧
        ∀ w, l.getLast? = some w → (icFind t c (w.2.2 / 128)).isSome = true)))

/-- Barrier watchdogs and the fault record (R48, R49, R51, R52, R349). A watchdog whose count has reached its limit raises BARRIER_STARVED
for the waiting threads of every waiting group, at the barrier, and ends; in a debug context it halts every waiting group with cause 5
and starts again. The first waiting fault is written to a record that is not VALID, once the faulting threads' earlier stores have
drained and the instruction's other accesses have returned; in a debug context its group then halts with cause 6. The Box Office copies a
VALID record to the context's fault state and clears VALID; an ordinary context is lost with the status of the kind and its unstarted
commands end; once none of its work runs, its fence slots are signalled with the error flag. FLT_INFO_CLEAR clears VALID and nothing
else. That a record's address is 8 below the waiting thread's program counter is the model's reading (assumption 40). -/
def Obligations.FaultRecords : Prop :=
  (∀ (c slot gs : Nat) (team : Bool) (s : State),
    let k := if team then ThStat.barT else .barG
    let here := fun j => (if team then j ∈ (tm s c slot).gslots else j = slot) ∧ (grp s c j).waiting k ≠ []
    let watch := fun (t : State) => if team then (tm t c slot).watch else (grp t c slot).watch
    (barDue s c team slot = false → exec (.barrierWatchdogExpiry c team slot) s = .next s) ∧
    (barDue s c team slot = true → here gs → (∀ j, here j → gs ≤ j) →
      ∃ t, exec (.barrierWatchdogExpiry c team slot) s = .next t ∧ Touches [.cores, .ctr, .dbg] s t ∧
        (∀ j, (grp t c j).threads = (grp s c j).threads ∧ (grp t c j).vreg = (grp s c j).vreg) ∧
        ((ctx s (grp s c gs).ctx).debug = false → watch t = none ∧ (∀ j, here j → (grp t c j).stopped = true) ∧
          ∃ l : List FaultRec, (core t c).faults = (core s c).faults ++ l ∧ (∀ j, here j ↔ j ∈ l.map (fun r => r.gslot)) ∧
            (l.map (fun r => r.gslot)).Pairwise (· < ·) ∧
            ∀ r ∈ l, r.kind = 5 ∧ r.mask = maskOf ((grp s c r.gslot).waiting k) ∧ ∃ i ∈ (grp s c r.gslot).waiting k,
              (∀ m ∈ (grp s c r.gslot).waiting k, i ≤ m) ∧ r.pc = ((grp s c r.gslot).thr i).pc - 8) ∧
        ((ctx s (grp s c gs).ctx).debug = true → watch t = some { count := 0, limit := barLimit s c } ∧
          (∀ j, here j → (grp t c j).halted = true ∧ (grp t c j).cause = 5) ∧ ∀ j, ¬here j → (grp t c j).halted = (grp s c j).halted))) ∧
  (∀ (c : Nat) (s : State) (r : FaultRec) (rest : List FaultRec),
    let p := pgCore c
    let ready := fltValid s c = false ∧ s.dbg.raised = false ∧ (r.engine = true ∨
      (∀ e ∈ (grp s c r.gslot).sb, r.mask.testBit e.th = false) ∧ ∀ a ∈ (grp s c r.gslot).accs, r.ins ≠ some a.ins)
    (core s c).faults = r :: rest →
    (¬ready → exec (.faultRecordWrite c) s = .next s) ∧
    (ready → r.kind < 16 → r.gslot < 64 → r.tslot < 16 → r.ctx < 4096 → r.mask < 2 ^ 32 → r.tag < 2 ^ 16 → r.code < 2 ^ 16 →
      ∃ t, exec (.faultRecordWrite c) s = .next t ∧ Touches [.regs, .cores] s t ∧ (core t c).faults = rest ∧
        bits (reg t p 0xC0) 3 0 = r.kind ∧ bits (reg t p 0xC0) 9 4 = r.gslot ∧ bits (reg t p 0xC0) 13 10 = r.tslot ∧
        bit (reg t p 0xC0) 14 = r.engine ∧ bits (reg t p 0xC0) 27 16 = r.ctx ∧ bit (reg t p 0xC0) 31 = true ∧
        reg t p 0xC4 = r.mask ∧ reg t p 0xC8 = r.pc.toNat ∧ reg t p 0xD0 = r.addr.toNat ∧
        bits (reg t p 0xD8) 15 0 = r.tag ∧ bits (reg t p 0xD8) 31 16 = r.code ∧
        (∀ page off, off < 4096 → ¬(page = p ∧ off ∈ [0xC0, 0xC4, 0xC8, 0xD0, 0xD8]) → reg t page off = reg s page off) ∧
        (∀ j, j ≠ r.gslot → grp t c j = grp s c j) ∧
        ((ctx s r.ctx).debug = false → grp t c r.gslot = grp s c r.gslot) ∧
        ((ctx s r.ctx).debug = true → grp t c r.gslot =
          { grp s c r.gslot with stopped := false, halted := true, cause := 6, haltReq := false, passBp := none }))) ∧
  (∀ (c : Nat) (s : State),
    let p := pgCore c
    let info := reg s p 0xC0
    let n := bits info 27 16
    let status := match info % 16 with | 1 => 5 | 2 => 6 | 3 => 5 | 5 => 7 | 8 => 9 | _ => 8
    let clears := fun (i : Instr) (t : State) => exec i s = .next t ∧ reg t p 0xC0 = info % 2 ^ 31
    (bit info 31 = true → s.dbg.raised = false → s.pow.power = .active → ∃ t, clears (.faultRecordCopy c) t ∧
      Touches [.free, .regs, .ctr, .cores, .box, .streams, .fab, .coll, .dbg, .out] s t ∧
      ((ctx s n).debug = true ∨ (ctx s n).st = 1 → (ctx t n).fltAddr = BitVec.ofNat 64 (reg s p 0xC8) ∧ (ctx t n).fltData = BitVec.ofNat 64 (reg s p 0xD0) ∧
        (ctx t n).fltInfo = BitVec.ofNat 64 (info + reg s p 0xD8 * 2 ^ 32)) ∧
      ((ctx s n).debug = true → Touches [.regs, .box] s t ∧ (ctx t n).st = (ctx s n).st ∧ t.box = { s.box with ctxs := t.box.ctxs }) ∧
      ((ctx s n).debug = false → (ctx s n).st = 1 → (ctx t n).st = 2 ∧ (ctx t n).lastLoss = status ∧
        (∀ q ∈ queuesOf s n, ∀ x ∈ (queue s q).cmds, x.isWaiting = true → ∃ y, cmdAt t q x.idx = some y ∧ y.hasEnded = true) ∧
        let quiet := anyTeam s (fun t => t.ctx == n) = false ∧ (∀ x ∈ s.box.saved, x.team.ctx ≠ n) ∧ ∀ r ∈ s.fab.reqs, r.ctx ≠ n
        (quiet → (ctx t n).due = false) ∧ (anyTeam s (fun t => t.ctx == n) = true → (ctx t n).due = true) ∧
        ((ctx t n).due = false → ∀ k, (fence s k).owner = some n → (fence t k).sig = true ∧ (fence t k).err = true) ∧
        ((ctx t n).due = true → ∀ k, fence t k = fence s k))) ∧
    (∀ fn, pagesUp s = true → (blkAt s.sku p).isSome = true →
      (reaches s fn p = true → ∃ t, clears (.fltInfoClear fn c) t ∧ Touches [.regs] s t ∧
        ∀ page off, off < 4096 → ¬(page = p ∧ off = 0xC0) → reg t page off = reg s page off) ∧
      (reaches s fn p = false → ∃ t, exec (.fltInfoClear fn c) s = .next t ∧ Touches [.regs, .out] s t ∧
        bit (reg t 6 0x10) 2 = true ∧ reg t p 0xC0 = info)))

/-- Debugging of cores (R57 to R62). Requests for a group are taken only while debug of cores is unlocked. HALT of an occupied group asks it
to halt, of a free slot or a team being preempted is held; the group halts with cause 1 once its loads have returned and its stores have
drained; RESUME lets a halted group issue again, past a breakpoint; STEP lets it issue one instruction, for the chosen set or the
scheduler's, and is done at once when no thread stands at STEPPC; the stepped group halts again with cause 2 and STEP_DONE. A set at an
enabled comparator halts its group with cause 3 before the instruction. Registers, program counters and memory stay as they are. -/
def Obligations.CoreDebug : Prop :=
  ∀ (c gs : Nat) (s : State),
    let g := grp s c gs
    let p := pgCore c
    let keeps := fun (i : Instr) (t : State) => exec i s = .next t ∧ (∀ j, j ≠ gs → grp t c j = grp s c j) ∧
      (∀ d, d ≠ c → core t d = core s d) ∧ (grp t c gs).threads = g.threads ∧ (grp t c gs).vreg = g.vreg ∧
      (grp t c gs).ureg = g.ureg ∧ (grp t c gs).accs = g.accs ∧ (grp t c gs).sb = g.sb
    let able := fun (fn : Nat) => pagesUp s = true ∧ reaches s fn p = true ∧ (blkAt s.sku p).isSome = true ∧ scopeBit s 0 = true ∧ gs < 64
    (∀ fn, pagesUp s = true → reaches s fn p = true → scopeBit s 0 = false →
      exec (.halt fn c gs) s = .next s ∧ exec (.resume fn c gs) s = .next s ∧ ∀ b, exec (.step fn c gs b) s = .next s) ∧
    (∀ fn, able fn →
      (∃ t, keeps (.halt fn c gs) t ∧ Touches [.regs, .cores] s t ∧ bits (reg t p 0x100) 5 0 = gs ∧
        (g.occ = false ∨ (tm s c g.tslot).preempt = true → grp t c gs = g ∧ SMap.get false (core t c).hold gs = true) ∧
        (g.occ = true → (tm s c g.tslot).preempt = false → g.halted = true → grp t c gs = g) ∧
        (g.occ = true → (tm s c g.tslot).preempt = false → g.halted = false → grp t c gs = { g with haltReq := true })) ∧
      (g.halted = false → ∃ t, keeps (.resume fn c gs) t ∧ Touches [.regs] s t) ∧
      (g.halted = true → (∃ y ∈ g.threads, y.stat ≠ .exited) → ∃ t, keeps (.resume fn c gs) t ∧ Touches [.regs, .cores] s t ∧
        grp t c gs = { g with halted := false, cause := 0, stepReq := none, stepping := false, passBp := if g.cause = 3 then g.passBp else none }) ∧
      (∀ b, let at' : W64 := BitVec.ofNat 64 (reg s p 0x110)
        ∃ t, keeps (.step fn c gs b) t ∧ Touches [.regs, .cores] s t ∧ bit (reg t p 0x100) 11 = b ∧
        (g.halted = false → grp t c gs = g) ∧
        (g.halted = true → b = true → g.setAt at' = [] → grp t c gs = g ∧ bit (reg t p 0x104) 1 = true) ∧
        (g.halted = true → b = false ∨ g.setAt at' ≠ [] →
          grp t c gs = { g with stepReq := some (if b then some at' else none) }))) ∧
    (g.occ = true → g.haltReq = true → g.halted = false → g.stopped = false → g.accs = [] → g.sb = [] →
      ∃ t, keeps (.groupHalted c gs) t ∧ Touches [.cores] s t ∧
        grp t c gs = { g with halted := true, cause := 1, haltReq := false, passBp := none }) ∧
    (g.occ = true → g.accs ≠ [] ∨ g.sb ≠ [] → exec (.groupHalted c gs) s = .next s ∧ exec (.stepRetire c gs) s = .next s) ∧
    (g.occ = true → g.halted = true → g.stepping = true → g.stopped = false → g.accs = [] → g.sb = [] →
      ∃ t, keeps (.stepRetire c gs) t ∧ Touches [.regs, .cores] s t ∧ bit (reg t p 0x104) 1 = true ∧
        grp t c gs = { g with stepping := false, cause := 2 }) ∧
    (∀ pc j, fetches s c gs pc = true → scopeBit s 0 = true → g.passBp ≠ some pc → j < 4 → bit (reg s p 0x140) 31 = true →
      bits (reg s p 0x140) 11 0 = g.ctx → bit (reg s p (0x120 + 8 * j)) 0 = true → reg s p (0x120 + 8 * j) / 8 = pc.toNat / 8 →
      ∃ t, keeps (.breakpointHalt c gs pc) t ∧ Touches [.cores] s t ∧
        grp t c gs = { g with halted := true, cause := 3, haltReq := false, passBp := some pc })

/-- Teams (R30 to R32, R42, R53 to R56, R62, R122, R197, R326, R332). The waiting launch of highest priority, the earliest started among
equals, places its next team in free slots and granules of a core of its partition that has room: threads at ENTRY with predicates and
registers 0 but the launch's uniform values, those past THREADS exited. A preempted team stops issuing; a waiting team preempts a lower
priority, or an equal one that has run the quantum. When its accesses are done, the team leaves its slots: a discarded one for good, any
other with its threads, registers and tile memory, which it gets back in free slots of the same core. -/
def Obligations.TeamResults : Prop :=
  (∀ (part c : Nat) (l : Launch) (s : State),
    let waiting := fun (y : Launch) => y ∈ s.box.launches ∧ (ctx s y.ctx).part = part ∧ y.status = 0 ∧ y.next < y.teams
    running s = true → nextLaunch s part = some l → placeFor s part l = some c →
    (waiting l ∧ (∀ y, waiting y → y.prio ≤ l.prio) ∧ coreIn s part c = true) ∧
    ∃ (t : State) (ts : Nat) (gl tg : List Nat), exec (.teamAdmit part) s = .next t ∧ Touches [.free, .cores, .box] s t ∧
      t.box = { s.box with launches := t.box.launches } ∧ (∀ d, d ≠ c → core t d = core s d) ∧ (core t c).tmem = (core s c).tmem ∧
      ts < 16 ∧ (tm s c ts).occ = false ∧ gl.length = ceilDiv l.threads 32 ∧ gl.Nodup ∧ tg.length = l.tmem ∧ tg.Nodup ∧
      (∀ x ∈ tg, x < 512 ∧ x ∉ usedGrans s c) ∧ (∀ j, j ≠ ts → tm t c j = tm s c j) ∧
      (tm t c ts).gslots = gl ∧ (tm t c ts).tgran = tg ∧ (tm t c ts).occ = true ∧ (tm t c ts).ctx = l.ctx ∧ (tm t c ts).team = l.next ∧
      (tm t c ts).preempt = false ∧ (∀ j, j ∉ gl → grp t c j = grp s c j) ∧
      ∀ i < gl.length, let gs := nthD 0 gl i
        let g := grp t c gs
        gs < 64 ∧ (grp s c gs).occ = false ∧ g.occ = true ∧ g.ctx = l.ctx ∧ g.tag = l.tag ∧ g.tslot = ts ∧ g.gid = i ∧ g.team = l.next ∧
        g.vreg = [] ∧ (∀ k < 32, (g.thr k).pc = l.entry ∧ (g.thr k).preds = 0 ∧
          (g.thr k).stat = if 32 * i + k < l.threads then .running else .exited) ∧
        (∀ k < 63, g.u k = if k < l.u.length then nthD 0 l.u k else 0) ∧ g.halted = false ∧
        g.haltReq = SMap.get false (core s c).hold gs) ∧
  (∀ (c ts : Nat) (s : State),
    let stops := fun (i : Instr) => ∃ t, exec i s = .next t ∧ Touches [.cores, .ctr] s t ∧ tm t c ts = { tm s c ts with preempt := true } ∧
      (∀ j, grp t c j = grp s c j) ∧ (∀ d, d ≠ c → core t d = core s d)
    (∀ part team, running s = true → victimOf s part = some (c, ts, team) → stops (.quantumExpiry part) ∧
      (tm s c ts = team → team.part = part → team.occ = true → team.preempt = false →
        stops (.preemptTeam c ts .quantum) ∧ stops (.preemptTeam c ts .priority))) ∧
    ((tm s c ts).occ = true → (tm s c ts).preempt = false → blkState s (pgCore c) = 7 → stops (.preemptTeam c ts .test))) ∧
  (∀ (c ts : Nat) (s : State),
    let T := tm s c ts
    canSave s c ts = true → (∀ gs ∈ T.gslots, (grp s c gs).tslot = ts ∧ ∃ y ∈ (grp s c gs).threads, y.stat ≠ .exited) →
    T.gslots ≠ [] → T.gslots.Nodup →
    ∃ t, exec (.teamSaved c ts) s = .next t ∧
      Touches [.free, .mem, .regs, .ctr, .cores, .box, .streams, .tags, .pow, .dbg, .out] s t ∧
      (tm t c ts).occ = false ∧ (∀ gs ∈ T.gslots, (grp t c gs).occ = false) ∧
      (T.discard = true → t.box.saved = s.box.saved) ∧
      (T.discard = false → ∃ x : Saved, t.box.saved = s.box.saved ++ [x] ∧ x.core = c ∧ x.team.tgran = T.tgran ∧ x.team.tag = T.tag ∧
        x.team.preempt = false ∧
        x.groups.map (fun g => (g.threads, g.vreg, g.ureg, g.gid)) =
          T.gslots.map (fun gs => let g := grp s c gs; (g.threads, g.vreg, g.ureg, g.gid)) ∧
        ((core s c).mxRuns = [] → (core s c).tmRun = none →
          ∀ off < tileSize T, SMap.get 0 x.tmem off = tileByte s c ts off))) ∧
  (∀ (c n : Nat) (x : Saved) (s : State), restorable s c n = some x → x.core = c → SMap.wf 0 x.tmem = true →
    (∀ e ∈ x.tmem, e.1 < 4096 * x.team.tgran.length) →
    ∃ (t : State) (ts : Nat) (gl : List Nat), exec (.teamRestore c n) s = .next t ∧ Touches [.free, .cores, .box, .dbg] s t ∧
      t.box.saved = dropFirst (fun y => y == x) s.box.saved ∧ ts < 16 ∧ (tm s c ts).occ = false ∧ (tm t c ts).gslots = gl ∧
      gl.length = x.groups.length ∧ gl.Nodup ∧ (∀ j, j ∉ gl → grp t c j = grp s c j) ∧
      (∀ i < gl.length, let g := grp t c (nthD 0 gl i)
        let o := nthD Group.empty x.groups i
        (grp s c (nthD 0 gl i)).occ = false ∧ g.threads = o.threads ∧ g.vreg = o.vreg ∧ g.ureg = o.ureg ∧ g.tslot = ts) ∧
      ∀ off < 4096 * x.team.tgran.length, tileByte t c ts off = SMap.get 0 x.tmem off)

/-- The coherent domain (R166 to R169). A GetS or GetX that its home can grant at once gives the core the line as the L2 and memory hold
it: in E with the core as owner when nobody had it (for a GetX, the store that wants it leaves into it and makes it M), in S beside other
sharers. A GetX by a core that still shares the line brings no data: its copy, where it holds one, becomes the owner's. Otherwise the entry
waits in B: an owner is asked to step down to S or I (in compatibility mode to forward), other sharers to
invalidate. A core answers a recall with what it held and its copy becomes S and clean, or goes; a forward supplies the requester as well;
an answer puts its dirty sectors into the L2, and the last one ends B: the slice supplies what a forwarding owner did not hold; a PutM does
the same and frees its owner's entry. A core's messages reach a slice in the order sent. -/
def Obligations.CoherenceResults : Prop :=
  (∀ (c line : Nat) (s : State),
    let e := dirOf s line
    let entry := fun (st : DirSt) (b : Option Busy) => ({ used := true, line := line, st := st, busy := b } : DirEnt)
    let gives := fun (i : Instr) (st : L1St) (d : DirSt) => ∃ t, exec i s = .next t ∧ dirOf t line = entry d none ∧
      (l1Line t c line).st = st ∧ (l1Line t c line).valid = 15 ∧ (l1Line t c line).dirty = 0 ∧
      (l1Line t c line).data = peek s (128 * line) 128 ∧ (∀ p, peek t p 1 = peek s p 1) ∧ t.mem.msgs = s.mem.msgs ∧
      ∀ d, d ≠ c → core t d = core s d
    let asks := fun (i : Instr) (r : Req) (l : List Nat) (k : MsgKind) => ∃ t, exec i s = .next t ∧ Touches [.mem] s t ∧
      dirOf t line = entry e.st (some { req := r, await := l, fwd := isFwd k }) ∧
      t.mem.msgs = s.mem.msgs ++ l.map (fun d => { core := d, line := line, kind := k, sent := s.time.ccRun }) ∧ t.mem.l2 = s.mem.l2 ∧ t.mem.hbm = s.mem.hbm
    blocked s line = false →
    (Memory.sound s.mem → (∀ p ∈ (core s c).groups, p.2.sb = []) → l1Find s c line = none →
      canGets s c line = true →
        (e.used = false → (∃ w < 16, (dirAt s line w).used = false) → gives (.gets c line) .e (.x c)) ∧
        (e.used = true → e.st = .x c → gives (.gets c line) .e (.x c)) ∧
        (∀ m, e.used = true → e.st = .s m → gives (.gets c line) .s (.s (m ||| 2 ^ c)))) ∧
    (∀ (gs pa : Nat) (b : StEnt), (∀ p ∈ (core s c).groups, p.2.sb = if p.1 = gs then [b] else []) → canGetx s c line = true →
      b.dest = .l1 pa → b.after = [] → pa / 128 = line → pa % 32 + b.size ≤ 32 →
      let sec := pa % 128 / 32
      let stores := fun (valid dirty : Nat) (d : List Byte) (keeps : State → Prop) => ∃ t, exec (.getx c line) s = .next t ∧
        dirOf t line = entry (.x c) none ∧ (l1Line t c line).st = .m ∧ (l1Line t c line).valid = valid ∧
        (l1Line t c line).dirty = dirty ||| 2 ^ sec ∧ (l1Line t c line).data = splice d (pa % 128) (toLE b.size b.data) ∧
        (grp t c gs).sb = [] ∧ keeps t ∧ t.mem.msgs = s.mem.msgs ∧ ∀ d, d ≠ c → core t d = core s d
      (Memory.sound s.mem → l1Find s c line = none →
        (e.used = false ∧ ∃ w < 16, (dirAt s line w).used = false) ∨
          (e.used = true ∧ (e.st = .x c ∨ ∃ m, e.st = .s m ∧ maskBits 144 m = [])) →
        stores 15 0 (peek s (128 * line) 128) (fun t => ∀ p, peek t p 1 = peek s p 1)) ∧
      (∀ m, e.used = true → e.st = .s m → bit m c = true → (∀ o ∈ maskBits 144 m, o = c) →
        let x := l1Line s c line
        (x.st = .s → bit x.valid sec = true → stores x.valid x.dirty x.data (fun t => t.mem.l2 = s.mem.l2 ∧ t.mem.hbm = s.mem.hbm)) ∧
        (l1Find s c line = none → ∃ t, exec (.getx c line) s = .next t ∧ dirOf t line = entry (.x c) none ∧ l1Find t c line = none ∧
          t.mem.l2 = s.mem.l2 ∧ t.mem.hbm = s.mem.hbm ∧ t.mem.msgs = s.mem.msgs ∧ ∀ d, d ≠ c → core t d = core s d))) ∧
    (∀ o, canGets s c line = true → e.used = true → e.st = .x o → o ≠ c →
      asks (.gets c line) (.getS c) [o] (if compat s c then .fwdS c else .toS)) ∧
    (∀ o, canGetx s c line = true → e.used = true → e.st = .x o → o ≠ c →
      asks (.getx c line) (.getX c) [o] (if compat s c then .fwdX c else .toI)) ∧
    (∀ m, canGetx s c line = true → e.used = true → e.st = .s m → (∃ o ∈ maskBits 144 m, o ≠ c) →
      asks (.getx c line) (.getX c) ((maskBits 144 m).filter (fun o => o ≠ c)) .inval)) ∧
  (∀ (c line w : Nat) (m : Msg) (s : State),
    let x := l1Line s c line
    l1Find s c line = some w →
    (msgOf s c line (fun k => !isFwd k) = some m → ∃ t, exec (.recall c line) s = .next t ∧ Touches [.mem, .cores] s t ∧
      t.mem = { s.mem with msgs := dropFirst (fun y => y == m) s.mem.msgs, msgSeq := s.mem.msgSeq + 1
                           answers := s.mem.answers ++ [{ ansOf s c line with seq := s.mem.msgSeq }] } ∧
      (∀ d, d ≠ c → core t d = core s d) ∧ (core t c).groups = (core s c).groups ∧
      l1At (core t c) line w = if m.kind = .toS then { x with st := .s, dirty := 0 } else L1Line.empty) ∧
    (∀ r, msgOf s c line isFwd = some m → m.kind = .fwdS r ∨ m.kind = .fwdX r → r ≠ c → l1Find s r line = none →
      (∀ p ∈ (core s r).groups, p.2.sb = []) → x.data.length = 128 → x.valid < 16 →
      ∃ t, exec (.forward c line) s = .next t ∧ t.mem.answers = s.mem.answers ++ [{ ansOf s c line with seq := s.mem.msgSeq }] ∧
        t.mem.hbm = s.mem.hbm ∧ t.mem.l2 = s.mem.l2 ∧
        l1At (core t c) line w = (if m.kind = .fwdS r then { x with st := .s, dirty := 0 } else L1Line.empty) ∧
        (l1Line t r line).st = (if m.kind = .fwdS r then .s else .e) ∧ (l1Line t r line).valid = x.valid ∧
        ∀ i < 4, bit x.valid i = true → ((l1Line t r line).data.drop (32 * i)).take 32 = (x.data.drop (32 * i)).take 32)) ∧
  (∀ (c line : Nat) (a : Ans) (s : State),
    let e := dirOf s line
    let taken := fun (t : State) => (∀ i < 4, bit a.dirty i = true → sector t (4 * line + i) = (a.data.drop (32 * i)).take 32) ∧
      ∀ sec, ¬(∃ i < 4, sec = 4 * line + i ∧ bit a.dirty i = true) → sector t sec = sector s sec
    a.data.length = 128 → Memory.sound s.mem →
    (ansReady s c line = some a →
      (∀ b, e.busy = some b → (∃ o ∈ b.await, o ≠ c) → ∃ t, exec (.directoryAnswer c line) s = .next t ∧ Touches [.mem, .ctr] s t ∧
        taken t ∧ dirOf t line = { e with busy := some { b with await := b.await.filter (fun o => o ≠ c) } } ∧ t.mem.msgs = s.mem.msgs) ∧
      (∀ b d own, e.busy = some b → (∀ o ∈ b.await, o = c) → waitingAt s (homeOf line) = [] → (∀ p ∈ (core s d).groups, p.2.sb = []) →
        (own = false → b.req = .getS d ∧ e.st = .x c ∧ d ≠ c) → (own = true → b.req = .getX d) →
        let x := l1Line s d line
        let had := own = true ∧ ∃ m, e.st = .s m ∧ bit m d = true
        let forwarded := b.fwd = true ∧ a.copy = true
        let st : L1St := if own then .e else .s
        let done := fun (keeps : State → Prop) => ∃ t, exec (.directoryAnswer c line) s = .next t ∧ taken t ∧
          dirOf t line = { used := true, line := line, st := if own then .x d else .s (2 ^ c ||| 2 ^ d), busy := none } ∧ keeps t
        (¬had → ¬forwarded → l1Find s d line = none → done (fun t => (l1Line t d line).st = st ∧ (l1Line t d line).valid = 15 ∧
          (l1Line t d line).data = peek t (128 * line) 128)) ∧
        (¬had → forwarded → x.st = st → x.valid = a.valid → a.valid < 16 → x.data.length = 128 → done (fun t =>
          (l1Line t d line).st = st ∧ (l1Line t d line).valid = 15 ∧ ∀ i < 4, ((l1Line t d line).data.drop (32 * i)).take 32 =
            if bit a.valid i then (x.data.drop (32 * i)).take 32 else sector t (4 * line + i))) ∧
        (had → x.st = .s → done (fun t => l1Line t d line = { x with st := .e })))) ∧
    (putmOf s c line = some a → a.isNext s = true → ∃ t, exec (.putm c line) s = .next t ∧ Touches [.mem, .ctr] s t ∧ taken t ∧
      t.mem.putms = dropFirst (fun b => b.core == c && b.line == line) s.mem.putms ∧
      (∀ w, dirFind s line = some w → e.busy = none → e.st = .x c → dirAt t line w = DirEnt.empty) ∧
      (¬(e.used = true ∧ e.busy = none ∧ e.st = .x c) → t.mem.dir = s.mem.dir)))

/-- Agents outside coherence, the buffer pool and the patrol (R151, R172 to R175, R178). A probe answers with the line when the home slice
holds it dirty, and changes nothing else; an agent's write is in the L2 afterwards, with its mark on every sector it covers whole, and
leaves every L1 and every other byte as they are. Freed entries come back, then the next waiting channel in order that has fewer than
1,024 entries receives one while fewer than 4,096 are taken; with the pool full, write data parks in the overflow region. The patrol counts
corrected errors and marks and logs uncorrectable sectors; no byte changes. -/
def Obligations.AgentsAndPatrol : Prop :=
  (∀ (die line : Nat) (s : State), memUp s = true → s.sku.die die = true → 128 * line < s.sku.memBytes →
    let dirty := match l2Find s line with | some w => (l2At s line w).dirty != 0 | none => false
    ∃ t, exec (.agentProbe die line) s = .next t ∧ Touches [.mem] s t ∧
      t.mem = { s.mem with probe := some (die, line, dirty, if dirty then peek s (128 * line) 128 else []) }) ∧
  (∀ (addr : Nat) (data : List Byte) (bad : Bool) (s : State),
    (s.sku.memBytes < addr + data.length → exec (.agentWrite addr data bad) s = .next s) ∧
    (memUp s = true → addr + data.length ≤ s.sku.memBytes → Memory.sound s.mem →
      ∃ t, exec (.agentWrite addr data bad) s = .next t ∧ Touches [.mem, .ctr] s t ∧ Memory.sound t.mem ∧
        (Memory.wf s.mem = true → Memory.wf t.mem = true) ∧ peek t addr data.length = data ∧
        (∀ a, a < addr ∨ addr + data.length ≤ a → peek t a 1 = peek s a 1) ∧
        (∀ sec, addr ≤ 32 * sec → 32 * sec + 32 ≤ addr + data.length → sectorPoison t sec = bad) ∧
        ∀ sec, 32 * sec + 32 ≤ addr ∨ addr + data.length ≤ 32 * sec → sectorPoison s sec = true → sectorPoison t sec = true)) ∧
  (∀ (die ch : Nat) (waiting freed : List Nat) (s : State),
    let back := fun c => poolOf s die c - freed.count c
    let total := ((upTo 0 128).map back).foldl (· + ·) 0
    let park := overOf s die - freed.countP (fun c => 128 ≤ c)
    let last := SMap.get 0 s.mem.poolLast die
    let asks := fun c => (c ∈ waiting ∨ 128 + c ∈ waiting) ∧ back c < 1024
    let after := fun c => (c + 127 + 128 - last % 128) % 128
    s.sku.die die = true → memUp s = true →
    ∃ t, exec (.poolEntryGrant die waiting freed) s = .next t ∧ Touches [.mem] s t ∧ t.mem.hbm = s.mem.hbm ∧ t.mem.l2 = s.mem.l2 ∧
      (total < 4096 → ch < 128 → asks ch → (∀ c < 128, asks c → after ch ≤ after c) →
        poolOf t die ch = back ch + 1 ∧ (∀ c < 128, c ≠ ch → poolOf t die c = back c) ∧ overOf t die = park ∧
        SMap.get 0 t.mem.poolLast die = ch) ∧
      (total < 4096 → (∀ c < 128, ¬asks c) → (∀ c < 128, poolOf t die c = back c) ∧ overOf t die = park) ∧
      (4096 ≤ total → (∀ c < 128, poolOf t die c = back c) ∧
        overOf t die = if (∃ c ∈ waiting, 128 ≤ c) ∧ park < 16384 then park + 1 else park)) ∧
  (∀ (granule : Nat) (corr unc : List Nat) (s : State), memUp s = true → s.dbg.raised = false → 4096 * granule < s.sku.memBytes →
    (∀ i ∈ corr ++ unc, i < 128) →
    ∃ t, exec (.patrolScrub granule corr unc) s = .next t ∧ Touches [.free, .mem, .regs, .rm, .dbg, .out] s t ∧ (corr = [] → Touches [.mem, .dbg] s t) ∧
      t.mem = { s.mem with poison := t.mem.poison, patrol := s.mem.patrol ++ unc.map (fun i => 32 * (128 * granule + i)) } ∧
      (∀ sec, hbmPoison t sec = (hbmPoison s sec || unc.any (fun i => sec == 128 * granule + i))) ∧
      SMap.get 0 t.dbg.ce 6 % 2 ^ 64 = (SMap.get 0 s.dbg.ce 6 + corr.length) % 2 ^ 64)

/-- Errors (R22, R171, R386 to R391). The first chip-fatal error is latched with its code, type, instance, address and instant, the service
state reads FATAL, every live context is lost with CHIP_RESET, and an armed, unlocked debug block raises the Curtain; later ones are counted
up to 255; only a fitted part of the types of R27 is the source of one, and any other changes nothing. A recall that nobody answers for 2^20
cycles is one (code 8), so is a die-to-die retraining that fails (code 1). A flit that fails its check counts a corrected error; more
than THRESH of a type within 1 s set CESTORM, which a running Ringmaster logs once; a retransmission that fails is one more in a row, another flit's first failure begins anew; a port retrains when it lost lock or 16 failed in a
row. A partition-class error resets the partition alone: every context of it is lost with PARTITION_RESET and torn down. -/
def Obligations.ErrorResults : Prop :=
  ∀ (s : State),
    let fatal := fun (i : Instr) (code type inst addr : Nat) => ∃ t, exec i s = .next t ∧ Touches [.ctr, .box, .pow, .rm, .dbg, .out] s t ∧
      t.dbg.fatal = true ∧
      (s.dbg.fatal = true → t.dbg = { s.dbg with fcount := min 255 (s.dbg.fcount + 1) } ∧ Touches [.dbg] s t) ∧
      (s.dbg.fatal = false → t.dbg.fcode = code ∧ t.dbg.ftype = type ∧ t.dbg.finst = inst ∧ t.dbg.faddr = addr ∧
        t.dbg.fft = s.time.ft ∧ t.dbg.fcount = 0 ∧ t.pow.svc = 5 ∧
        (∀ c, (ctx s c).st = 1 → (ctx t c).st = 2 ∧ (ctx t c).lastLoss = 0xB) ∧ (∀ c, (ctx s c).st ≠ 1 → ctx t c = ctx s c) ∧
        (t.dbg.raised = true ↔ s.dbg.raised = true ∨ (scopeBit s 1 = true ∧ bit (reg s 0xA 0x80) 2 = true)))
    (∀ code type inst addr, (s.pow.power = .active ∨ s.pow.power = .idle → type ∈ fatalTypes code → partFitted s.sku type inst = true →
        fatal (.chipFatalError code type inst addr) code type inst addr) ∧
      (type ∉ fatalTypes code ∨ partFitted s.sku type inst = false → exec (.chipFatalError code type inst addr) s = .next s)) ∧
    (∀ c line, let late := s.dbg.raised = false ∧ ∃ m ∈ s.mem.msgs, m.core = c ∧ m.line = line ∧ m.sent + 2 ^ 20 ≤ s.time.ccRun
      (late → fatal (.recallTimeout c line) 8 2 (homeOf line) line) ∧ (¬late → exec (.recallTimeout c line) s = .next s)) ∧
    (∀ e, d2dBusy s e = true → fatal (.d2dRetrainComplete e false) 1 4 e e) ∧
    (∀ e, d2dBusy s e = true → ∃ t, exec (.d2dRetrainComplete e true) s = .next t ∧ Touches [.mem, .dbg] s t ∧
      d2dBusy t e = false ∧ d2dFails t e = 0 ∧ ∀ j, j ≠ e → d2dBusy t j = d2dBusy s j ∧ d2dFails t j = d2dFails s j) ∧
    (∀ e, s.sku.die e = true → d2dBusy s e = false →
      (∀ again, ∃ t, exec (.d2dFlitCrcFail ⟨e, again⟩) s = .next t ∧ Touches [.free, .mem, .regs, .rm, .dbg, .out] s t ∧
        (storms s 4 = false → Touches [.mem, .dbg] s t) ∧
        (storms s 4 = true → bit (reg t 0xA 0x10) 0 = true ∧
          (s.rm.up = true → bit (reg s 0xA 0x10) 0 = false → t.rm.log.length = min 2048 (s.rm.log.length + 16))) ∧
        d2dFails t e = (if again then d2dFails s e + 1 else 0) ∧ d2dBusy t e = false ∧
        SMap.get 0 t.dbg.ce 4 = (SMap.get 0 s.dbg.ce 4 + 1) % 2 ^ 64) ∧
      (∀ lock, (lock = true ∨ 16 ≤ d2dFails s e → ∃ t, exec (.d2dRetrain e lock) s = .next t ∧ Touches [.mem, .dbg] s t ∧
          d2dBusy t e = true ∧ d2dFails t e = d2dFails s e) ∧
        (lock = false → d2dFails s e < 16 → exec (.d2dRetrain e lock) s = .next s))) ∧
    (∀ kind number p, chargedTo s kind number = some p → canReset s = true → (∀ e ∈ s.box.ctxs, e.2 = ctx s e.1) →
      ∃ t, exec (.partitionError kind number) s = .next t ∧ bit (reg t 0xA 0x10) 1 = true ∧ p ∈ t.pow.flr ∧
        (∀ c, (ctx s c).part = p → (ctx s c).st = 1 ∨ (ctx s c).st = 2 → (ctx t c).st = 3 ∧ (ctx t c).lastLoss = 0xA) ∧
        ∀ c, (ctx s c).part ≠ p → ctx t c = ctx s c)

/-- Queues (R312, R327 to R337, R341, R346, R352). A doorbell value within the ring and not behind the fetched packets becomes the tail;
any other write changes no queue and is reported. The Box Office fetches the 64-byte packet at H from the ring; a packet that fails a check
ends with that status and has no effect. A command that names a handle dead by a RELEASE of its own queue loses its context; one whose wait
ended with the error flag ends with FENCE_ERROR. An ended command signals its fence with the error flag unless its status is 0, its 16-byte
record is written, C moves to the next command, and it is gone. A queue's command starts only when the queue is served: partitions in turn, in
a partition a round of up to 2^priority starts of one queue. -/
def Obligations.QueueResults : Prop :=
  (∀ (fn q : Nat) (value : W64) (s : State),
    let x := queue s q
    let t' := value.toNat % 2 ^ 32
    let fits := (t' + 2 ^ 32 - x.c) % 2 ^ 32 ≤ 2 ^ (x.size + 6) ∧ (x.h + 2 ^ 32 - x.c) % 2 ^ 32 ≤ (t' + 2 ^ 32 - x.c) % 2 ^ 32
    bellsUp s = true → x.c < 2 ^ 32 → x.h < 2 ^ 32 →
    (bellReaches s fn q = true → fits → s.pow.power = .active → s.pow.psState = 0 →
      ∃ t, exec (.doorbellWrite fn q value) s = .next t ∧ Touches [.box] s t ∧ queue t q = { x with t := t', halted := false } ∧
        ∀ r, r ≠ q → queue t r = queue s r) ∧
    (bellReaches s fn q = false ∨ ¬fits → ∃ t, exec (.doorbellWrite fn q value) s = .next t ∧ Touches [.regs, .out] s t ∧
      bit (reg t 6 0x10) 2 = true ∧
      (bellReaches s fn q = true → (ctx s x.ctx).part < 8 → bit (reg t (pgBoxo (ctx s x.ctx).part) 0x10) 1 = true))) ∧
  (∀ (q : Nat) (s : State) (b : List Byte) (host : Option (List Byte)),
    let x := queue s q
    let p := (ctx s x.ctx).part
    let a := x.ring.toNat / 4096 * 4096 + 64 * (x.h % x.slots)
    let here := ∃ pa, x.ring.getLsbD 0 = false ∧ carveAddr s p a = some pa ∧ poisonIn s pa 64 = false ∧ b = peek s pa 64
    let there := x.ring.getLsbD 0 = true ∧ host = some b ∧ b.length = 64 ∧ linkUp s (hostPort s p) = true
    let r := fetchCheck s x.ctx b
    running s = true → x.fetches = true → (ctx s x.ctx).st = 1 ∨ (ctx s x.ctx).st = 2 →
    (here ∨ there → ∃ t c, exec (.packetFetch q host) s = .next t ∧ (∀ d, d ≠ q → (queue t d).bound = (queue s d).bound) ∧
      (queue t q).h = (x.h + 1) % 2 ^ 32 ∧ c ∈ (queue t q).cmds ∧ c.idx = x.h ∧ c.bytes = b ∧
      (∀ st, r = some st → c.hasEnded = true) ∧
      (r = none → (queue t q).cmds = x.cmds ++ [c] ∧ c.st = .waiting ∧ Touches [.mem, .ctr, .box, .dbg, .out] s t) ∧
      (r = some 2 ∨ r = some 6 → (ctx s x.ctx).st = 1 → (ctx t x.ctx).st = 2 ∧ (ctx t x.ctx).lastLoss = r.getD 0)) ∧
    (x.ring.getLsbD 0 = true → host = none → (ctx s x.ctx).st = 1 →
      ∃ t, exec (.packetFetch q host) s = .next t ∧ (ctx t x.ctx).st = 2 ∧ (ctx t x.ctx).lastLoss = 5)) ∧
  (∀ (q idx : Nat) (host : List Byte) (s : State),
    ∀ e ∈ ([(.launch q idx host, 1), (.stream q idx host, 2), (.copy q idx host, 3), (.fill q idx host, 4), (.pack q idx host, 5),
        (.signal q idx, 6), (.wait q idx, 7), (.map_ q idx, 8), (.unmap q idx, 9), (.release q idx, 10), (.collective q idx, 11),
        (.tagCancel q idx, 12), (.nopCommand q idx, 13)] : List (Instr × Nat)),
      (servesNow s q = false ∨ startable s q idx e.2 = none ∧ e.2 ≠ 7 → exec e.1 s = .next s) ∧
      ∀ c, servesNow s q = true → startable s q idx e.2 = some c →
        (c.stale = true → ∃ t, exec e.1 s = .next t ∧ (ctx t (queue s q).ctx).st = 2 ∧ (ctx t (queue s q).ctx).lastLoss = 2 ∧
          (∃ d, cmdAt t q idx = some d ∧ d.st = .ended 2 0)) ∧
        (c.stale = false → gateErr s c = true → ∃ t, exec e.1 s = .next t ∧ Touches [.box] s t ∧
          ∃ d, cmdAt t q idx = some d ∧ d.st = .ended 4 0)) ∧
  (∀ (q idx status result : Nat) (c : Cmd) (s : State),
    let x := queue s q
    let p := (ctx s x.ctx).part
    let b := c.bytes
    let sf := pkSf b
    let rest := x.cmds.filter (fun d => d.idx ≠ idx)
    cmdAt s q idx = some c → (settled s c x.ctx).st = .ended status result → s.pow.power = .active → s.pow.svc = 3 → s.dbg.fatal = false →
    ∃ t, exec (.commandCompletion q idx) s = .next t ∧ Touches [.mem, .regs, .ctr, .cores, .box, .pow, .dbg, .out] s t ∧
      (∀ d ∈ (queue t q).cmds, d.idx ≠ idx) ∧
      (x.stopped = none → (queue t q).cmds.map (fun d => d.idx) = rest.map (fun d => d.idx) ∧
        (queue t q).c = (rest.map (fun d => d.idx)).headD x.h) ∧
      (bit (pkFlags b) 1 = true → sf < 262144 → slotMine s x.ctx sf = true →
        (fence t sf).sig = true ∧ (fence t sf).err = ((fence s sf).err || decide (status ≠ 0))) ∧
      ∀ pa, x.cring.getLsbD 0 = false → carveAddr s p (x.cring.toNat / 4096 * 4096 + 16 * (idx % x.slots)) = some pa → Memory.sound s.mem →
        peek t pa 16 = toLE 4 (pkSeq b) ++ toLE 1 status ++ toLE 1 ((idx / x.slots + 1) % 2) ++ toLE 2 (pkTag b) ++ toLE 8 result)

/-- Commands that run work and move data (R203, R260, R331, R337, R440), once their queue is served, they may start and no wait of theirs ended with the error flag.
A packet with a reserved value ends with INVALID_CMD and no effect. LAUNCH reads its uniform values and waits for its teams to be placed;
COPY and FILL put the source's bytes or the repeated pattern at the destination and change no other byte, and stay in progress while
remote parts are unanswered; a piece that faults loses the context with its status and address. PACK stores the encoding of a bundle in
granules of the arena and its entry in the index, and returns replaced granules later. -/
def Obligations.WorkCommands : Prop :=
  ∀ (q idx : Nat) (host : List Byte) (s : State) (c : Cmd),
    let cx := (queue s q).ctx
    let b := c.bytes
    let may := fun op => servesNow s q = true ∧ startable s q idx op = some c ∧ c.stale = false ∧ gateErr s c = false
    let now := fun (t : State) (st : CmdSt) => ∃ d, cmdAt t q idx = some d ∧ d.st = st
    let bad := fun (i : Instr) => ∃ t, exec i s = .next t ∧ Touches [.box, .dbg] s t ∧ now t (.ended 0xC 0) ∧ t.box.ctxs = s.box.ctxs
    let lost := fun (i : Instr) (status addr : Nat) => ∃ t, exec i s = .next t ∧ (ctx t cx).st = 2 ∧ (ctx t cx).lastLoss = status ∧
      (ctx t cx).fltData = BitVec.ofNat 64 addr
    let dst := fun (m : List (Piece × Spot)) (d : List Byte) (t : State) =>
      (∀ p ∈ m, ∀ pa, p.2 = .mem pa → peek t pa p.1.len = (d.drop p.1.pos).take p.1.len) ∧
      ∀ a, (∀ p ∈ m, ∀ pa, p.2 = .mem pa → a < pa ∨ pa + p.1.len ≤ a) → peek t a 1 = peek s a 1
    let apart := fun (m : List (Piece × Spot)) => m.Pairwise (fun x y => ∀ p r, x.2 = .mem p → y.2 = .mem r →
      p + x.1.len ≤ r ∨ r + y.1.len ≤ p)
    (may 1 → (launchOk s cx b = false → bad (.launch q idx host)) ∧
      (∀ s1 d, launchOk s cx b = true → hostFits s cx (leAt b 32 8) (8 * leAt b 47 1) host = true →
        readRange s cx (leAt b 32 8) (8 * leAt b 47 1) host = .inr (s1, d) →
        ∃ t l, exec (.launch q idx host) s = .next t ∧ Touches [.mem, .ctr, .box, .dbg] s t ∧ now t .running ∧
          t.box.launches = s.box.launches ++ [l] ∧ l.q = q ∧ l.idx = idx ∧ l.ctx = cx ∧ l.tag = leAt b 2 2 ∧ l.prio = (queue s q).prio ∧
          l.entry = BitVec.ofNat 64 (leAt b 16 8) ∧ l.teams = leAt b 28 4 ∧ l.threads = leAt b 44 2 ∧ l.nreg = leAt b 46 1 ∧
          l.tmem = leAt b 48 2 ∧ l.u.length = leAt b 47 1 ∧ (∀ i < leAt b 47 1, nthD 0 l.u i = BitVec.ofNat 64 (leAt d (8 * i) 8)) ∧
          l.next = 0 ∧ l.ended = 0) ∧
      (∀ k a, launchOk s cx b = true → hostFits s cx (leAt b 32 8) (8 * leAt b 47 1) host = true →
        readRange s cx (leAt b 32 8) (8 * leAt b 47 1) host = .inl (k, a) → lost (.launch q idx host) (kindStatus k) a)) ∧
    (may 3 → (copyOk s cx b = false → bad (.copy q idx host)) ∧
      (let l := rangeSpots s cx false (leAt b 16 8) (leAt b 40 8)
       let m := rangeSpots s cx true (leAt b 24 8) (leAt b 40 8)
       copyOk s cx b = true → copyReady s cx b host = true →
        (firstFault l = none → firstFault m = none → remotes l = [] → remotes m = [] → Memory.sound s.mem → apart m →
          ∃ t, exec (.copy q idx host) s = .next t ∧ Touches [.mem, .regs, .ctr, .box, .pow, .dbg, .out] s t ∧ now t (.ended 0 0) ∧
            ((∀ x ∈ l, ∃ pa, x.2 = .mem pa) → dst m (l.flatMap (pieceBytes s)) t)) ∧
        (firstFault l = none → firstFault m = none → remotes l ≠ [] → ∃ t d, exec (.copy q idx host) s = .next t ∧
          cmdAt t q idx = some d ∧ d.st = .running ∧
          d.wait.map Prod.snd = (remotes l).map (fun x => (x.1.pos, x.1.len))) ∧
        (∀ k a, firstFault l = some (k, a) ∨ (firstFault l = none ∧ firstFault m = some (k, a)) →
          lost (.copy q idx host) (kindStatus k) a))) ∧
    (may 4 → (fillOk s cx b = false → bad (.fill q idx host)) ∧
      (let n := leAt b 32 8
       let m := rangeSpots s cx true (leAt b 16 8) n
       fillOk s cx b = true →
        (firstFault m = none → remotes m = [] → Memory.sound s.mem → apart m →
          ∃ t, exec (.fill q idx host) s = .next t ∧ Touches [.mem, .regs, .ctr, .box, .pow, .dbg, .out] s t ∧ now t (.ended 0 0) ∧
            dst m ((List.replicate (n / 8) ((b.drop 40).take 8)).flatten) t) ∧
        (firstFault m = none → remotes m ≠ [] → ∃ t d, exec (.fill q idx host) s = .next t ∧ cmdAt t q idx = some d ∧ d.st = .running ∧
          d.wait.map Prod.snd = (remotes m).map (fun x => (x.1.pos, x.1.len))) ∧
        (∀ k a, firstFault m = some (k, a) → lost (.fill q idx host) (kindStatus k) a))) ∧
    (may 5 → (packOk s cx b = false → bad (.pack q idx host)) ∧
      (∀ p ix off s1 a, packOk s cx b = true → packReady s cx b host = true → leAt b 40 8 = 4096 →
        access s cx .load (vaOf (BitVec.ofNat 64 (leAt b 16 8))) = .mem p → access s cx .pack (vaOf (BitVec.ofNat 64 (leAt b 24 8))) = .thatch ix off →
        (poisonIn s p 4096 = true → lost (.pack q idx host) 9 (leAt b 16 8)) ∧
        (let e := thEncode (leAt b 48 1) (leAt b 49 1) (leAt b 50 1 == 1) (bypassed s ix) (freshNat s) (peek s p 4096)
         let entry := ix + off / 4096 * 8
         poisonIn s p 4096 = false → takeRun s cx (thNg e.1) (some p) = some (s1, a) → Memory.sound s.mem →
         (a + e.2.length ≤ entry ∨ entry + 8 ≤ a) → e.1 + a / 256 < 2 ^ 64 →
         ∃ t, exec (.pack q idx host) s = .next t ∧ Touches [.free, .mem, .ctr, .box, .dbg] s t ∧ now t (.ended 0 0) ∧
           peek t a e.2.length = e.2 ∧ peekLE t entry 8 = e.1 + a / 256 ∧
           (thV (peekLE s entry 8) = true → (thAddr (peekLE s entry 8), 256 * thNg (peekLE s entry 8)) ∈ (ctx t cx).oldGrans) ∧
           ∀ x, (x < a ∨ a + e.2.length ≤ x) → (x < entry ∨ entry + 8 ≤ x) → peek t x 1 = peek s x 1))) ∧
    (∀ cx pa n, (pa, n) ∈ (ctx s cx).oldGrans → ∃ t, exec (.packGranuleReturn cx pa) s = .next t ∧ Touches [.box] s t ∧
      (ctx t cx).oldGrans = dropFirst (fun g => g.1 == pa) (ctx s cx).oldGrans ∧
      ∀ o ∈ (ctx t cx).objs, ∃ o' ∈ (ctx s cx).objs, o'.handle = o.handle ∧ ∀ g ∈ o.grans, g ∈ o'.grans)

/-- SIGNAL, WAIT, NOP, TAG_CANCEL and COLLECTIVE (R278, R279, R287, R334 to R336, R345 to R348), once their queue is served, they may
start and no wait of theirs ended with the error flag. SIGNAL signals, with or without the error flag, or resets a slot that the context may use, faults on any other,
and sends a packet for a slot of another chip. WAIT ends once its slot is signalled; in its turn before that it waits, until the signal or its
timeout, which counts from then (log 127: the model's choice).
NOP does nothing. TAG_CANCEL ends with CANCELLED the unstarted commands of its context that carry the tag. COLLECTIVE becomes live, timed in the
first frame from its instant on when its plan is in service. A timed command may start once its instant is the earliest due. -/
def Obligations.SimpleCommands : Prop :=
  ∀ (q idx : Nat) (s : State) (c : Cmd),
    let cx := (queue s q).ctx
    let b := c.bytes
    let may := fun op => servesNow s q = true ∧ startable s q idx op = some c ∧ c.stale = false ∧ gateErr s c = false
    let now := fun (t : State) (st : CmdSt) => ∃ d, cmdAt t q idx = some d ∧ d.st = st
    let bad := fun (i : Instr) => ∃ t, exec i s = .next t ∧ Touches [.box, .dbg] s t ∧ now t (.ended 0xC 0) ∧ t.box.fences = s.box.fences
    let lost := fun (i : Instr) (status addr : Nat) => ∃ t, exec i s = .next t ∧ (ctx t cx).st = 2 ∧ (ctx t cx).lastLoss = status ∧
      (ctx t cx).fltData = BitVec.ofNat 64 addr
    let zero := fun (l : List (Nat × Nat)) => resOk b l = true
    (may 6 →
      let r : W64 := BitVec.ofNat 64 (leAt b 16 8)
      let act := leAt b 24 1
      (¬zero [(16, 24)] ∨ 2 < act → bad (.signal q idx)) ∧
      (zero [(16, 24)] → act ≤ 2 →
        (fref r = .bad → lost (.signal q idx) 5 r.toNat) ∧
        (∀ k, fref r = .loc k →
          (act = 2 → (fence s k).owner = some cx → ∃ t, exec (.signal q idx) s = .next t ∧ Touches [.box, .dbg] s t ∧ now t (.ended 0 0) ∧
            fence t k = { fence s k with sig := false, err := false } ∧ ∀ j, j ≠ k → fence t j = fence s j) ∧
          (act = 2 → (fence s k).owner ≠ some cx → lost (.signal q idx) 6 r.toNat) ∧
          (act ≠ 2 → slotMine s cx k = true → ∃ t, exec (.signal q idx) s = .next t ∧ Touches [.box, .dbg, .cores] s t ∧
            now t (.ended 0 0) ∧ fence t k = { fence s k with sig := true, err := (fence s k).err || decide (act = 1) } ∧
            (∀ j, j ≠ k → fence t j = fence s j) ∧ ∀ d g, ∀ w ∈ (grp t d g).waits, w.slot ≠ k) ∧
          (act ≠ 2 → slotMine s cx k = false → lost (.signal q idx) 6 r.toNat)) ∧
        (∀ chip k, fref r = .sys chip k →
          (act = 2 → lost (.signal q idx) 6 r.toNat) ∧
          (act ≠ 2 → sysFault s .sigf r ≠ 0 → lost (.signal q idx) (kindStatus (sysFault s .sigf r)) r.toNat) ∧
          (act ≠ 2 → sysFault s .sigf r = 0 → reachable s chip = true → ∃ t d e, exec (.signal q idx) s = .next t ∧
            t.box.fences = s.box.fences ∧ cmdAt t q idx = some d ∧ d.st = .running ∧ e ∈ t.fab.reqs ∧ e.owner = .cmd q idx ∧
            e.pkt.kind = 4 ∧ e.pkt.dst = chip ∧ e.pkt.addr = r.toNat ∧ e.pkt.op = act)))) ∧
    (may 7 → (pkWait b = none ∨ ¬zero [(16, 19)] → bad (.wait q idx)) ∧
      (∀ k, pkWait b = some k → zero [(16, 19)] → ∃ t, exec (.wait q idx) s = .next t ∧ Touches [.box, .dbg] s t ∧ now t (.ended 0 0))) ∧
    (servesNow s q = true → inTurn s q idx 7 = some c → gateOpen s c = false →
      (c.armed = none → ∃ t d, exec (.wait q idx) s = .next t ∧ Touches [.box] s t ∧ t.box.fences = s.box.fences ∧ cmdAt t q idx = some d ∧
        d = { c with armed := some s.time.nsRun }) ∧
      (c.armed ≠ none → exec (.wait q idx) s = .next s)) ∧
    (cmdAt s q idx = some c → c.st = .waiting → pkOp b = 7 →
      let n := leAt b 16 4
      let past := fun a => c.armed = some a ∧ n ≠ 0 ∧ a + 1000 * n ≤ s.time.nsRun
      (∀ a, past a → ∃ t, exec (.waitTimeout q idx) s = .next t ∧ Touches [.box] s t ∧ now t (.ended 4 0)) ∧
      ((∀ a, ¬past a) → exec (.waitTimeout q idx) s = .next s)) ∧
    (may 13 → (zero [] → ∃ t, exec (.nopCommand q idx) s = .next t ∧ Touches [.box, .dbg] s t ∧ now t (.ended 0 0)) ∧
      (¬zero [] → bad (.nopCommand q idx))) ∧
    (may 12 → (¬zero [(16, 17)] → bad (.tagCancel q idx)) ∧
      (zero [(16, 17)] → ∃ t, exec (.tagCancel q idx) s = .next t ∧ now t .running ∧
        (∀ p ∈ queuesOf s cx, ∀ x ∈ (queue s p).cmds, x.isWaiting = true → leAt x.bytes 2 2 = leAt b 16 2 → cmdAt s p x.idx = some x →
          ¬(p = q ∧ x.idx = idx) → ∃ y, cmdAt t p x.idx = some y ∧ y.st = .ended 3 0) ∧
        (∀ d, (ctx t d) = ctx s d) ∧ t.box.fences = s.box.fences)) ∧
    (may 11 → (collDecide s q idx cx b = .bad → bad (.collective q idx)) ∧
      (collDecide s q idx cx b = .wait → exec (.collective q idx) s = .next s) ∧
      (∀ l, collDecide s q idx cx b = .go l →
        (l.cid = leAt b 44 2 ∧ l.op = bits (leAt b 46 1) 2 0 ∧ l.fmt = bits (leAt b 46 1) 4 3 ∧ l.count = leAt b 40 4 ∧
          l.src = leAt b 16 8 ∧ l.dst = leAt b 24 8 ∧ l.ctx = cx ∧
          (l.timed = true → leAt b 56 8 ≤ l.start ∧ ∃ n, l.start = (s.coll.force.getD (0, 0)).2 + n * max 1 (plF (l.image s)))) ∧
        ((∀ h ∈ s.coll.held, liveAt s (bits h.2.op 15 0) = none ∧ bits h.2.op 15 0 ≠ l.cid) → s.coll.stalled = [] →
          (∀ j < l.pieces, upReady s l j = false ∨ (l.timed = true ∧ trRoot (l.node s j) = false)) →
          ∃ t, exec (.collective q idx) s = .next t ∧ Touches [.box, .coll, .dbg] s t ∧ now t .running ∧
            t.coll = { s.coll with live := s.coll.live ++ [l], ended := s.coll.ended.filter (fun k => k ≠ l.cid) }))) ∧
    (cmdAt s q idx = some c → pkTimed b = true → c.st = .waiting → c.fired = false → running s = true →
      (mayFire s (leAt b 56 8) 5 = true → ∃ t, exec (.timedCommandStart q idx) s = .next t ∧ Touches [.box] s t ∧
        now t .waiting ∧ ∃ d, cmdAt t q idx = some d ∧ d = { c with fired := true }) ∧
      (s.time.ft < leAt b 56 8 → exec (.timedCommandStart q idx) s = .next s))

/-- Memory objects (R154, R157, R326, R337, R339 to R343). MAP of an arena takes 4 KiB pages of the carve-out that nothing holds and ends with a
new handle; HEAPBLK ends with the address of a block that meets no live one, or with 0; a 1 GiB host page gets its leaf, with the rights R and W of the packet and no X, in the level-1
table.
UNMAP removes exactly one mapping with every cached translation and ends once no access uses it, or frees one heap block. RELEASE kills a
handle and makes later commands of its queue that name it stale; the object goes when no command pins it. A rule that forbids ends the
command with INVALID_CMD. -/
def Obligations.MemoryCommands : Prop :=
  (∀ (q idx : Nat) (s : State) (c : Cmd),
    let cx := (queue s q).ctx
    let b := c.bytes
    let may := fun op => servesNow s q = true ∧ startable s q idx op = some c ∧ c.stale = false ∧ gateErr s c = false
    let now := fun (t : State) (st : CmdSt) => ∃ d, cmdAt t q idx = some d ∧ d.st = st
    let bad := fun (i : Instr) => ∃ t, exec i s = .next t ∧ Touches [.box, .dbg] s t ∧ now t (.ended 0xC 0) ∧ t.box.ctxs = s.box.ctxs ∧
      t.box.alloc = s.box.alloc
    let a := leAt b 16 8
    let n := leAt b 24 8
    let kind := leAt b 32 1
    let perm := leAt b 33 1
    let whole := resOk b [(16, 34), (40, 47)] = true
    let scrubs := (carveOf s (ctx s cx).part).any (scrubbing s) = true
    (may 8 →
      (¬whole ∨ 8 ≤ perm ∨ 7 < kind ∨ 2 < leAt b 34 1 → ¬scrubs → bad (.map_ q idx)) ∧
      (kind = 2 → n = 0 ∨ n % 4096 ≠ 0 ∨ a ≠ 0 → ¬scrubs → bad (.map_ q idx)) ∧
      (∀ s1 runs i, whole → perm < 8 → kind = 2 → leAt b 34 1 = 0 → a = 0 → n ≠ 0 → n % 4096 = 0 →
        takePages s (ctx s cx).part 4096 (n / 4096) = some (s1, runs) → newIndex (ctx s cx) (freshNat s1 13) = some i →
        ∃ t o, exec (.map_ q idx) s = .next t ∧ Touches [.free, .box, .dbg] s t ∧ now t (.ended 0 o.handle) ∧
          (ctx t cx).objs = (ctx s cx).objs ++ [o] ∧ o.index = i ∧ o.gen = SMap.get 0 (ctx s cx).gens i ∧ o.kind = 2 ∧ o.size = n ∧
          o.backing = runs ∧ o.maps = [] ∧ o.dead = false ∧ (runs.map Prod.snd).sum = n ∧
          (∀ r ∈ runs, r.1 % 4096 = 0 ∧ r ∈ t.box.alloc ∧
            ∃ x ∈ freeExt s (ctx s cx).part, x.1 ≤ r.1 ∧ r.1 + r.2 ≤ x.2) ∧
          ∀ d, d ≠ cx → ctx t d = ctx s d) ∧
      (whole → perm = 0 → kind = 7 → leAt b 34 1 = 0 → a = 0 →
        let able := ∃ r < 16, (regionPick (ctx s cx) r (blockClass n)).isSome = true
        (n = 0 ∨ 2 ^ 30 < n ∨ ¬able → ∃ t, exec (.map_ q idx) s = .next t ∧ Touches [.ctr, .box, .dbg] s t ∧ now t (.ended 0 0) ∧
          t.box.ctxs = s.box.ctxs) ∧
        (n ≠ 0 → n ≤ 2 ^ 30 → able → (∀ o ∈ (ctx s cx).objs, o.target + o.size ≤ 2 ^ 48) →
          ∃ t o v, exec (.map_ q idx) s = .next t ∧ Touches [.free, .box, .dbg] s t ∧
            now t (.ended 0 (0xFFFF * 2 ^ 48 + v)) ∧ o ∈ (ctx s cx).objs ∧ o.kind = 1 ∧ o.dead = false ∧
            o.target ≤ v ∧ v + blockClass n ≤ o.target + o.size ∧ (∀ x ∈ o.blocks, x.1 + x.2 ≤ v ∨ v + blockClass n ≤ x.1) ∧
            ∃ p ∈ (ctx t cx).objs, p.handle = o.handle ∧ (v, blockClass n) ∈ p.blocks)) ∧
      (∀ root i, let va := vaOf (BitVec.ofNat 64 a)
        let e := peekLE s (root + 8 * (va / 2 ^ 39)) 8
        let at1 := entAddr e + 8 * (va / 2 ^ 30 % 512)
        let target := leAt b 40 8
        whole → perm < 8 → kind = 4 → leAt b 34 1 = 2 → isLocal (BitVec.ofNat 64 a) = true → va % 2 ^ 30 = 0 → n = 2 ^ 30 →
        va + n ≤ 2 ^ 48 → rangeFree (ctx s cx) va n = true →
        (ctx s cx).root = some root → bit e 0 = true → bit e 1 = false → newIndex (ctx s cx) (freshNat s 13) = some i → Memory.sound s.mem →
        (∀ o ∈ (ctx s cx).objs, o.index < 65536) →
        (target % 2 ^ 30 ≠ 0 ∨ 2 ^ 52 < target + n ∨ 4 ≤ perm → ¬scrubs → bad (.map_ q idx)) ∧
        (target % 2 ^ 30 = 0 → target + n ≤ 2 ^ 52 → perm < 4 → ∃ t o, exec (.map_ q idx) s = .next t ∧ now t (.ended 0 o.handle) ∧
          Touches [.free, .mem, .ctr, .cores, .box, .dbg] s t ∧ peekLE t at1 8 = 0x83 + 4 * perm + target ∧
          (∀ x, x < at1 ∨ at1 + 8 ≤ x → peek t x 1 = peek s x 1) ∧ (ctx t cx).objs = (ctx s cx).objs ++ [o] ∧ o.index = i ∧
          o.kind = 4 ∧ o.target = target ∧ o.maps = [{ va := va, size := n, psz := 2 ^ 30 }]))) ∧
    (may 9 → (resOk b [(16, 32)] = false ∨ 1 < kind → bad (.unmap q idx)) ∧
      (resOk b [(16, 32)] = true → kind = 1 → a = 0 → ∃ t, exec (.unmap q idx) s = .next t ∧ Touches [.box, .dbg] s t ∧ now t (.ended 0 0)) ∧
      (resOk b [(16, 32)] = true → kind = 1 → a ≠ 0 →
        (isLocal (BitVec.ofNat 64 a) = false ∨ blockAt (ctx s cx) (vaOf (BitVec.ofNat 64 a)) = none → bad (.unmap q idx)) ∧
        (∀ o, isLocal (BitVec.ofNat 64 a) = true → blockAt (ctx s cx) (vaOf (BitVec.ofNat 64 a)) = some o →
          ∃ t, exec (.unmap q idx) s = .next t ∧ Touches [.box, .dbg] s t ∧ now t (.ended 0 0) ∧
            ∃ p ∈ (ctx t cx).objs, p.handle = o.handle ∧ ∀ x ∈ p.blocks, x.1 ≠ vaOf (BitVec.ofNat 64 a))) ∧
      (resOk b [(16, 32)] = true → kind = 0 → isLocal (BitVec.ofNat 64 a) = false ∨ mappedBy (ctx s cx) (vaOf (BitVec.ofNat 64 a)) n = none →
        bad (.unmap q idx)) ∧
      (∀ o, let va := vaOf (BitVec.ofNat 64 a)
        resOk b [(16, 32)] = true → kind = 0 → isLocal (BitVec.ofNat 64 a) = true → mappedBy (ctx s cx) va n = some o →
        ∃ t, exec (.unmap q idx) s = .next t ∧ now t (if busyRange s cx va n then .running else .ended 0 0) ∧
          (∃ p ∈ (ctx t cx).objs, p.handle = o.handle ∧ ∀ m ∈ p.maps, ¬(m.va = va ∧ m.size = n)) ∧
          ((ctx s cx).root ≠ none → ∀ x ∈ t.mem.stlb, x.1 = cx → x.2 < va / 65536 ∨ va + n ≤ x.2 * 65536))) ∧
    (may 10 →
      (resOk b [(16, 19)] = false → bad (.release q idx)) ∧
      (let h := leAt b 16 4
       resOk b [(16, 19)] = true →
        (objOf s cx h = none → ∃ t, exec (.release q idx) s = .next t ∧ Touches [.box, .dbg] s t ∧ now t (.ended 0 0) ∧
          t.box.ctxs = s.box.ctxs) ∧
        (∀ o, objOf s cx h = some o → o.kind = 2 → arenaHeld s cx o = true → bad (.release q idx)) ∧
        (∀ o, objOf s cx h = some o → o.kind ≠ 2 ∨ arenaHeld s cx o = false → ∃ t, exec (.release q idx) s = .next t ∧
          Touches [.box, .dbg] s t ∧ now t (.ended 0 0) ∧ SMap.get 0 (ctx t cx).gens o.index = o.gen + 1 ∧
          (((ctx s cx).objs.filter (fun p => p.handle == h)).length = 1 → objOf t cx h = none) ∧
          (∀ l r, (queue s q).cmds = l ++ c :: r → ∀ x ∈ r, h ∈ x.pins → ∃ y ∈ (queue t q).cmds, y.idx = x.idx ∧ y.stale = true) ∧
          ∀ d, d ≠ cx → ctx t d = ctx s d)))) ∧
  (∀ (c h : Nat) (o : Obj) (s : State), objAny s c h = some o → (ctx s c).st = 1 ∨ (ctx s c).st = 2 →
    (o.dead = false ∨ pinned s c h = true → exec (.pinDrop c h) s = .next s) ∧
    (o.dead = true → pinned s c h = false → o.maps.any (fun m => busyRange s c m.va m.size) = false →
      ∃ t, exec (.pinDrop c h) s = .next t ∧ Touches [.mem, .ctr, .cores, .box] s t ∧ (∀ x ∈ (ctx t c).objs, x.handle ≠ h) ∧
        (o.kind ≤ 2 → (ctx t c).objs = (ctx s c).objs.filter (fun x => x.handle != h) ∧
          t.box.alloc = s.box.alloc.filter (fun x => !(o.backing.map Prod.fst).contains x.1))))

/-- Management commands (R323 to R327, R346, R347, R350, R351) on a BOXO page that the writer reaches. A command while PENDING sets OVR and
is ignored; before SERVICE it ends BUSY. CTX_CREATE makes a FREE context LIVE with an empty address space; CTX_KILL starts the teardown,
whose later steps wait until no work of the context runs;
CTX_QUERY reads its fault state; Q_CREATE binds a queue; Q_DESTROY frees it, or stops its fetching until its last command completes;
FEN_ASSIGN gives slots to a context, unsignalled; FEN_SHARE and FEN_UNSHARE make and revoke share entries. A command that cannot act
ends with INVALID_CMD and the detail of its reason. -/
def Obligations.ManagementResults : Prop :=
  ∀ (fn page : Nat) (s : State),
    let v := reg s page 0x84
    let boxo := ∃ n, blkOf page = some (.boxo0, n) ∨ blkOf page = some (.boxo, n)
    let there := pagesUp s = true ∧ reaches s fn page = true ∧ (blkAt s.sku page).isSome = true ∧ boxo
    let ready := there ∧ bit v 0 = false ∧ s.pow.power = .active ∧ s.pow.svc = 3 ∧ s.pow.psState = 0 ∧
      (page = 8 ∨ s.pow.flr.contains ((page - 0x40) / 16) = false)
    let posted := fun (t : State) (status detail : Nat) =>
      reg t page 0x84 = bits v 2 2 * 4 + 2 + status * 2 ^ 8 + detail * 2 ^ 16 ∧ bit (reg t page 0x10) 0 = true
    let refuses := fun (i : Instr) (detail : Nat) => ∃ t, exec i s = .next t ∧ Touches [.regs, .out] s t ∧ posted t 0xC detail
    let arg := fun i => reg s page (0x88 + 8 * i)
    let c := arg 0 % 4096
    let c1 := arg 1 % 4096
    let w := arg 2
    let q := w % 65536
    let k := arg 0 % 2 ^ 18
    let slots := fun x => k ≤ x ∧ x < k + bits (arg 0) 50 32
    let inCtx := fun x => pageRange s page 0x218 x = true
    let all : List Instr := [.ctxCreate fn page, .ctxKill fn page, .ctxQuery fn page, .qCreate fn page, .qDestroy fn page,
      .fenAssign fn page, .fenShare fn page, .fenUnshare fn page]
    (there → ∀ i ∈ all,
      (bit v 0 = true → ∃ t, exec i s = .next t ∧ Touches [.regs] s t ∧ reg t page 0x84 = v ||| 4) ∧
      (bit v 0 = false → s.pow.power = .active → s.pow.svc < 3 → ∃ t, exec i s = .next t ∧ Touches [.regs, .out] s t ∧ posted t 0xD 0)) ∧
    (pagesUp s = true → reaches s fn page = false → ∀ i ∈ all, ∃ t, exec i s = .next t ∧ Touches [.regs, .out] s t ∧
      bit (reg t 6 0x10) 2 = true) ∧
    (ready →
      (∀ p, ctxPart s c = some p →
        (inCtx c → (ctx s c).st ≠ 0 → refuses (.ctxCreate fn page) 3) ∧
        (inCtx c → (ctx s c).st = 0 → bit (reg s 8 (0x230 + 0x40 * p)) 0 = true → noNewCtx s p = false →
          (bit (arg 0) 16 = true → scopeBit s 0 = false → refuses (.ctxCreate fn page) 5) ∧
          (bit (arg 0) 16 = false ∨ scopeBit s 0 = true → arg 1 % 4096 ≠ 0 → refuses (.ctxCreate fn page) 1) ∧
          (bit (arg 0) 16 = false ∨ scopeBit s 0 = true → arg 1 % 4096 = 0 →
            (takePages s p 4096 (arg 1 / 4096) = none → refuses (.ctxCreate fn page) 4) ∧
            ∀ s1 runs, takePages s p 4096 (arg 1 / 4096) = some (s1, runs) → ∃ t, exec (.ctxCreate fn page) s = .next t ∧
              Touches [.free, .regs, .box, .out] s t ∧ posted t 0 0 ∧ (∀ d, d ≠ c → ctx t d = ctx s d) ∧
              ctx t c = { Ctx.free with st := 1, part := p, debug := bit (arg 0) 16, saveLen := arg 1
                                        savePa := (nthD (0, 0) runs 0).1, tables := runs.map (fun r => r.1) }))) ∧
      (¬inCtx c → refuses (.ctxCreate fn page) 2 ∧ refuses (.ctxKill fn page) 2 ∧ refuses (.ctxQuery fn page) 2) ∧
      (inCtx c → (ctx s c).st ≠ 1 → (ctx s c).st ≠ 2 → refuses (.ctxKill fn page) 3) ∧
      (inCtx c → (ctx s c).st = 1 ∨ (ctx s c).st = 2 → ∃ t, exec (.ctxKill fn page) s = .next t ∧
        ((ctx t c).st = 3 ∨ (ctx t c).st = 0) ∧ (∀ j ∈ queuesOf s c, (queue t j).bound = false) ∧
        (anyTeam s (fun y => y.ctx == c) = true → (ctx t c).st = 3 ∧ t.box.fences = s.box.fences) ∧
        (workGone s c = true → (∀ j, (fence s j).owner = some c → (fence t j).sig = true ∧ (fence t j).err = true) ∧
          ∀ i < 1024, let e := reg s (expPage i) (expOff i)
            bit e 0 = true → bit e 52 = true → bits e 51 40 = c → bit (reg t (expPage i) (expOff i)) 6 = true)) ∧
      (inCtx c → ∃ t, exec (.ctxQuery fn page) s = .next t ∧ Touches [.regs, .out] s t ∧ posted t 0 0 ∧
        ((ctx s c).st < 4 → (ctx s c).lastLoss < 256 → reg t page 0xA8 = (ctx s c).st + (ctx s c).lastLoss * 2 ^ 8) ∧
        reg t page 0x90 = (ctx s c).fltAddr.toNat ∧ reg t page 0x98 = (ctx s c).fltData.toNat ∧ reg t page 0xA0 = (ctx s c).fltInfo.toNat) ∧
      (let d := bits w 27 16
       let vec := bits w 44 34
       let ok := inCtx d ∧ pageRange s page 0x220 q = true
       (¬ok → refuses (.qCreate fn page) 2) ∧
       (ok → 10 < bits w 31 28 → refuses (.qCreate fn page) 1) ∧
       (ok → bits w 31 28 ≤ 10 → (queue s q).inUse = true ∨ (ctx s d).st ≠ 1 ∨ queuePart s q ≠ some (ctx s d).part →
         refuses (.qCreate fn page) 3) ∧
       (ok → bits w 31 28 ≤ 10 → (queue s q).inUse = false → (ctx s d).st = 1 → queuePart s q = some (ctx s d).part →
         (bit w 45 = true → vec = 0 ∨ fnVectors (bellOwner s q) ≤ vec → refuses (.qCreate fn page) 1) ∧
         (bit w 45 = false ∨ 0 < vec ∧ vec < fnVectors (bellOwner s q) → ∃ t, exec (.qCreate fn page) s = .next t ∧
           Touches [.regs, .box, .out] s t ∧ posted t 0 0 ∧ (∀ j, j ≠ q → queue t j = queue s j) ∧
           queue t q = { Queue.empty with bound := true, ctx := d, ring := BitVec.ofNat 64 (arg 0), cring := BitVec.ofNat 64 (arg 1)
                                          size := bits w 31 28, prio := bits w 33 32, vec := vec, ien := bit w 45 }))) ∧
      (let j := arg 0 % 65536
       (pageRange s page 0x220 j = false → refuses (.qDestroy fn page) 2) ∧
       (pageRange s page 0x220 j = true → (queue s j).bound = false ∨ (queue s j).stopped ≠ none → refuses (.qDestroy fn page) 3) ∧
       (pageRange s page 0x220 j = true → (queue s j).bound = true → (queue s j).stopped = none →
         ((queue s j).cmds = [] → page ≠ 0xFFFF → ∃ t, exec (.qDestroy fn page) s = .next t ∧ Touches [.regs, .box, .out] s t ∧
           queue t j = Queue.empty ∧ posted t 0 0) ∧
         ((queue s j).cmds ≠ [] → ∃ t, exec (.qDestroy fn page) s = .next t ∧ Touches [.regs, .box] s t ∧
           queue t j = { queue s j with stopped := some page } ∧ bit (reg t page 0x84) 0 = true))) ∧
      (¬inCtx c1 ∨ (∃ x, slots x ∧ pageRange s page 0x228 x = false) → refuses (.fenAssign fn page) 2) ∧
      (inCtx c1 → (∀ x, slots x → pageRange s page 0x228 x = true) →
        ((ctx s c1).st ≠ 1 ∨ (∃ x, slots x ∧ ((fence s x).owner.isSome = true ∨ slotPart s x ≠ some (ctx s c1).part)) →
          refuses (.fenAssign fn page) 3) ∧
        ((ctx s c1).st = 1 → (∀ x, slots x → (fence s x).owner = none ∧ slotPart s x = some (ctx s c1).part) →
          ∃ t, exec (.fenAssign fn page) s = .next t ∧ Touches [.regs, .box, .out] s t ∧ posted t 0 0 ∧
            ∀ x, fence t x = if k ≤ x ∧ x < k + bits (arg 0) 50 32 then { owner := some c1, sig := false, err := false } else fence s x)) ∧
      (pageRange s page 0x228 k = false ∨ ¬inCtx c1 → refuses (.fenShare fn page) 2) ∧
      (pageRange s page 0x228 k = true → inCtx c1 →
        ((fence s k).owner = none ∨ (ctx s c1).st ≠ 1 → refuses (.fenShare fn page) 3) ∧
        ((fence s k).owner ≠ none → (ctx s c1).st = 1 →
          ((∀ i < 65536, SMap.get none s.box.shares i ≠ none) → refuses (.fenShare fn page) 4) ∧
          ((∃ i < 65536, SMap.get none s.box.shares i = none) → ∃ t i, exec (.fenShare fn page) s = .next t ∧
            Touches [.regs, .box, .out] s t ∧ posted t 0 0 ∧ i < 65536 ∧ SMap.get none s.box.shares i = none ∧ reg t page 0xA8 = i ∧
            SMap.get none t.box.shares i = some (k, c1) ∧ ∀ j, j ≠ i → SMap.get none t.box.shares j = SMap.get none s.box.shares j))) ∧
      (let i := arg 0 % 65536
       (SMap.get none s.box.shares i = none → refuses (.fenUnshare fn page) 3) ∧
       (∀ x d, SMap.get none s.box.shares i = some (x, d) →
         (pageRange s page 0x228 x = false → refuses (.fenUnshare fn page) 2) ∧
         (pageRange s page 0x228 x = true → ∃ t, exec (.fenUnshare fn page) s = .next t ∧ Touches [.regs, .box, .out] s t ∧ posted t 0 0 ∧
           SMap.get none t.box.shares i = none ∧ ∀ j, j ≠ i → SMap.get none t.box.shares j = SMap.get none s.box.shares j))))

/-- Barker streams (R182 to R191, R195, R196). A STREAM that fails a check ends with INVALID_CMD and no stream is live; a fault loses its
context; one that may not start yet stays; otherwise its slot holds the described stream, whose Loft range lies in the partition's quota
and meets no live stream's. A die reads its parts of the next tile only within the lead and its ring and with a tag for every read, which it then
gives back. A tile is ready when every fitted die has
read it; a fault stops the stream with its fence signalled in error. Read tags go to waiting slots in turn, below the cap. The boundary
event signals the stream's fence, frees its slot and ends its command. -/
def Obligations.StreamResults : Prop :=
  (∀ (q idx : Nat) (host : List Byte) (s : State) (c : Cmd),
    let cx := (queue s q).ctx
    let b := c.bytes
    let slot := leAt b 16 1
    let dec := streamDecide s q idx cx host b
    let now := fun (t : State) (st : CmdSt) => ∃ d, cmdAt t q idx = some d ∧ d.st = st
    servesNow s q = true → startable s q idx 2 = some c → c.stale = false → gateErr s c = false →
    (dec = .bad → ∃ t, exec (.stream q idx host) s = .next t ∧ Touches [.cores, .box, .dbg] s t ∧ now t (.ended 0xC 0)) ∧
    (dec = .wait → exec (.stream q idx host) s = .next s) ∧
    (∀ st a, dec = .fault st a → ∃ t, exec (.stream q idx host) s = .next t ∧ (ctx t cx).st = 2 ∧ (ctx t cx).lastLoss = st ∧
      (ctx t cx).fltData = BitVec.ofNat 64 a ∧ ∀ k, (stream t k).live = true → (stream s k).live = true) ∧
    (∀ x, dec = .go x → ∃ t, exec (.stream q idx host) s = .next t ∧ Touches [.mem, .ctr, .cores, .box, .streams, .dbg] s t ∧
      now t .running ∧ stream t slot = x ∧ (∀ k, k ≠ slot → stream t k = stream s k) ∧
      slot < 64 ∧ slotIn s (ctx s cx).part slot = true ∧ (stream s slot).live = false ∧
      x.live = true ∧ x.ctx = cx ∧ x.part = (ctx s cx).part ∧ x.tag = leAt b 2 2 ∧ x.q = q ∧ x.idx = idx ∧ x.tiles = [] ∧ x.consumed = [] ∧
      4096 ≤ x.rowBytes * x.rows ∧ x.rowBytes * x.rows ≤ 262144 ∧ x.rowBytes * x.rows % 4096 = 0 ∧
      (∀ d ∈ x.coreSet, coreIn s (ctx s cx).part d = true) ∧
      (∃ base size, quota s (ctx s cx).part = some (base, size) ∧ base ≤ x.base ∧ x.base + x.len ≤ base + size) ∧
      (∀ k < 64, (stream s k).live = true → overlaps (stream s k).base (stream s k).len x.base x.len = false) ∧
      x.len = max (((x.lead + 1) * (x.rowBytes * x.rows) + s.sku.dies.length - 1) / s.sku.dies.length + 4095)
        (x.rowBytes * x.rows) / 4096)) ∧
  (∀ (die slot : Nat) (s : State),
    let x := stream s slot
    let n := SMap.get 0 x.next die
    let l := tileSpots s x n
    let mine := l.filter (fun p => spotDie s p.2 == die)
    let may := running s = true ∧ slot < 64 ∧ tileStarts s x die n = true ∧ tagsDone s x die n = true
    (¬may → exec (.barkerTileRead die slot) s = .next s) ∧
    (may → ∃ t y, exec (.barkerTileRead die slot) s = .next t ∧ Touches [.free, .mem, .ctr, .streams, .tags, .out] s t ∧ tagsOf t die slot = 0 ∧
      (∀ k, k ≠ slot → stream t k = stream s k) ∧
      stream t slot = { x with tiles := (stream t slot).tiles, next := SMap.put 0 x.next die (n + 1), asked := SMap.put 0 x.asked die 0 } ∧
      y ∈ (stream t slot).tiles ∧ y.t = n ∧ die ∈ y.dies ∧ (Memory.sound s.mem → ∀ a, peek t a 1 = peek s a 1) ∧
      ((∀ z ∈ x.tiles, z.t ≠ n) → y.fault = tileFault s die l ∧
        (tileFault s die l = none → Memory.sound s.mem → ∀ p ∈ mine, ∀ pa, p.2 = .mem pa → SMap.getList 0 y.bytes p.1.pos p.1.len = peek s pa p.1.len)))) ∧
  (∀ (die : Nat) (waiting freed : List Nat) (s : State), s.sku.die die = true → running s = true → (∀ k ∈ freed, k < 64) →
    let back := fun k => tagsOf s die k - freed.count k
    let held := ((upTo 0 64).map back).foldl (· + ·) 0
    let cap := max 1 (min 32768 (reg s (pgBark die) 0x80 % 65536))
    let ws := waiting.filter (fun k => let x := stream s k
      tileStarts s x die (SMap.get 0 x.next die) && !tagsDone s x die (SMap.get 0 x.next die))
    (held < 32768 → (∃ k ∈ ws, k < 64 ∧ back k < cap) → ∃ t k, exec (.readTagGrant die waiting freed) s = .next t ∧
      Touches [.tags, .streams] s t ∧ k ∈ ws ∧ (back k < cap ∨ ∀ w ∈ ws, w = k) ∧ tagsOf t die k = back k + 1 ∧
      stream t k = { stream s k with asked := SMap.put 0 (stream s k).asked die (SMap.get 0 (stream s k).asked die + 1) } ∧
      (∀ j < 64, j ≠ k → tagsOf t die j = back j) ∧ ∀ j, j ≠ k → stream t j = stream s j) ∧
    (held ≥ 32768 ∨ (∀ k ∈ ws, cap ≤ back k ∧ ∃ w ∈ ws, w ≠ k) → ∃ t, exec (.readTagGrant die waiting freed) s = .next t ∧
      Touches [.tags] s t ∧ ∀ j < 64, tagsOf t die j = back j)) ∧
  (∀ (slot : Nat) (y : Tile) (s : State), let x := stream s slot
    running s = true → x.live = true → nextReady s x = some y →
    (y.fault = none → (∀ e ∈ s.sku.dies, e ∈ y.dies) ∧ ∃ t, exec (.tileReady slot) s = .next t ∧
      Touches [.cores, .box, .streams, .dbg] s t ∧ (∃ z ∈ (stream t slot).tiles, z.t = y.t ∧ z.ready = true) ∧
      ∀ k, k ≠ slot → stream t k = stream s k) ∧
    (∀ k a, y.fault = some (k, a) → (ctx s x.ctx).st = 1 → ∃ t, exec (.tileReady slot) s = .next t ∧ (ctx t x.ctx).st = 2 ∧
      (ctx t x.ctx).lastLoss = kindStatus k ∧ (ctx t x.ctx).fltData = BitVec.ofNat 64 a ∧
      (slot < 64 → (stream t slot).live = false) ∧
      (∀ j, fref (BitVec.ofNat 64 x.bfence) = .loc j → x.bfence ≠ 0 → slotMine s x.ctx j = true →
        (fence t j).sig = true ∧ (fence t j).err = true) ∧
      ∀ chip j, fref (BitVec.ofNat 64 x.bfence) = .sys chip j → x.bfence ≠ 0 → reachable s chip = true →
        ∃ e ∈ t.fab.reqs, e.owner = .ended slot ∧ e.pkt.kind = 4 ∧ e.pkt.dst = chip ∧ e.pkt.addr = x.bfence ∧ e.pkt.op = 1)) ∧
  (∀ (slot : Nat) (s : State), let x := stream s slot
    let may := running s = true ∧ atBoundary x = true ∧ boundarySent s slot = false
    let ends := fun (t : State) => stream t slot = Stream.empty ∧ (∀ k, k ≠ slot → stream t k = stream s k) ∧
      ∀ c, cmdAt s x.q x.idx = some c → c.hasEnded = false → ∃ d, cmdAt t x.q x.idx = some d ∧ d.st = .ended 0 0
    (¬may → exec (.boundaryEvent slot) s = .next s) ∧
    (may → x.bfence = 0 → ∃ t, exec (.boundaryEvent slot) s = .next t ∧ Touches [.cores, .box, .streams, .tags, .dbg] s t ∧ ends t ∧
      t.box.fences = s.box.fences) ∧
    (∀ j, may → x.bfence ≠ 0 → fref (BitVec.ofNat 64 x.bfence) = .loc j → ∃ t, exec (.boundaryEvent slot) s = .next t ∧
      Touches [.cores, .box, .streams, .tags, .dbg] s t ∧ ends t ∧ (fence t j).sig = true ∧ (fence t j).err = (fence s j).err ∧
      ∀ i, i ≠ j → fence t i = fence s i) ∧
    (∀ chip j, may → x.bfence ≠ 0 → fref (BitVec.ofNat 64 x.bfence) = .sys chip j → reachable s chip = true →
      ∃ t e, exec (.boundaryEvent slot) s = .next t ∧ stream t slot = x ∧ e ∈ t.fab.reqs ∧ e.owner = .boundary slot ∧ e.pkt.kind = 4 ∧
        e.pkt.dst = chip ∧ e.pkt.addr = x.bfence ∧ e.pkt.op = 0))

/-- Requests from other chips (R211, R245, R247 to R250, R254 to R257, R259), for a chip that receives them with no Curtain, an empty
reorder store and no retrain of the die-to-die port, when the packet's turn has come. The lowest valid window of the region's kind that holds every unit, the source chip and
the source partition decides; without one the answer is NO_WINDOW. It must grant the access, else PERM; a fence slot must belong to the
window's partition, a register page be owned by it. A closing window answers CLOSING. An admitted WRITE stores its data and nothing else, a READ
answers with what is stored, an ATOMIC with the old value, a SIGF signals. Each ordered answer is kept for duplicates; a packet ahead
of its turn is held; one behind gets its old answer; a chip without a number answers NO_CHIP. -/
def Obligations.RemoteRequests : Prop :=
  ∀ (k : Nat) (p : Pkt) (s : State),
    let off := p.addr % 2 ^ 40
    let region := bits p.addr 47 40
    let u := if region = 0 then 65536 else if region = 1 then 4096 else 8
    let n := if k = 1 then p.data.length else if k = 2 then p.op else if k = 3 then (if bit p.op 3 then 8 else 4) else 8
    let word := fun i w => reg s (0x10 + i / 128) (0x800 + 16 * (i % 128) + 8 * w)
    let fits := fun i => bit (word i 0) 0 = true ∧
      (region = 0 ∧ bits (word i 0) 2 1 = 0 ∨ region = 1 ∧ bits (word i 0) 2 1 = 2 ∨ region = 2 ∧ bits (word i 0) 2 1 = 1) ∧
      bits (word i 0) 39 16 ≤ off / u ∧ (off + n - 1) / u ≤ bits (word i 1) 23 0 ∧ bits (word i 1) 47 32 ≤ p.src ∧
      p.src ≤ bits (word i 1) 63 48 ∧ bit (word i 1) (24 + p.spart) = true
    let grants := fun i => bit (word i 0) (if k = 2 then 3 else if k = 3 then 5 else 4) = true
    let slot := off / 8
    let into := fun part => (∃ c, (fence s slot).owner = some c ∧ (ctx s c).part = part) ∨
      (∃ e c, (e, some (slot, c)) ∈ s.box.shares ∧ (ctx s c).part = part)
    let takes := fun part => region = 0 ∧ k ≠ 4 ∨ region = 1 ∧ k ≤ 2 ∧ ioForeign s part off = false ∨ region = 2 ∧ k = 4 ∧ into part
    let decides := fun i => i < 1024 ∧ fits i ∧ ∀ j < i, ¬fits j
    let part := fun i => bits (word i 0) 10 8
    let kept := fun (t : State) => SMap.get none t.fab.hist (p.src * 65536 + p.pseq % 65536)
    let tells := fun (t : State) (status : Nat) (data : List Byte) =>
      (k ≠ 2 → (∃ r, kept t = some r ∧ r.kind = 5 ∧ r.dst = p.src ∧ r.status = status ∧ r.data = data ∧ r.op = k) ∧
        SMap.get 0 t.fab.expect p.src = (p.pseq + 1) % 65536) ∧
      (p.src = chipNo s → ∃ r, .packet none r ∈ t.out ∧ r.kind = 5 ∧ r.dst = p.src ∧ r.status = status ∧ r.data = data ∧ r.op = k)
    ∀ i, (k, i) ∈ ([(1, .write p), (2, .read_ p), (3, .atomic p), (4, .sigfPacket p)] : List (Nat × Instr)) →
    remoteUp s = true →
    (chipNo s = 0xFFFF → ∃ t, exec i s = .next t ∧ Touches [.free, .ctr, .fab, .out] s t) ∧
    (chipNo s ≠ 0xFFFF → p.dst ≠ chipNo s → exec i s = .next s) ∧
    (chipNo s ≠ 0xFFFF → p.dst = chipNo s → s.dbg.raised = false → d2dBusy s (dieFor s p.src) = false → s.fab.reorder = [] → p.spart < 8 → 0 < n → n ≤ 4096 →
      (k = 3 → blocked s (off / 128) = false ∧ (dirOf s (off / 128)).used = false) → (k ≠ 2 → ahead s p = 0) →
      ((∀ j < 1024, ¬fits j) → ∃ t, exec i s = .next t ∧ Touches [.free, .ctr, .fab, .dbg, .out] s t ∧
        t.dbg = { s.dbg with nowin := (s.dbg.nowin + 1) % 2 ^ 64 } ∧ tells t 1 []) ∧
      (∀ j, decides j → ¬(grants j ∧ takes (part j)) → ∃ t, exec i s = .next t ∧ Touches [.free, .ctr, .fab, .out] s t ∧ tells t 2 [] ∧
        SMap.get 0 t.ctr (rkey (pgDbug (part j)) 0xC0) = (SMap.get 0 s.ctr (rkey (pgDbug (part j)) 0xC0) + 1) % 2 ^ 64) ∧
      (∀ j, decides j → grants j → takes (part j) → bit (word j 0) 6 = true →
        ∃ t, exec i s = .next t ∧ Touches [.free, .ctr, .fab, .out] s t ∧ tells t 5 []) ∧
      (∀ j, decides j → grants j → takes (part j) → bit (word j 0) 6 = false →
        (region = 0 → k = 1 → Memory.sound s.mem → ∃ t, exec i s = .next t ∧ Touches [.free, .mem, .ctr, .fab, .out] s t ∧ tells t 0 [] ∧
          peek t off n = p.data ∧ ∀ a, a < off ∨ off + n ≤ a → peek t a 1 = peek s a 1) ∧
        (region = 0 → k = 2 → Memory.sound s.mem → ∃ t, exec i s = .next t ∧ Touches [.free, .mem, .ctr, .fab, .out] s t ∧
          (∀ a, peek t a 1 = peek s a 1) ∧ (poisonIn s off n = true → tells t 3 (peek s off n)) ∧
          ((∀ c ∈ sectorsOf off n, sectorPoison s c = false ∧ hbmPoison s c = false) → tells t 0 (peek s off n))) ∧
        (region = 0 → k = 3 → Memory.sound s.mem → off % n = 0 → poisonIn s off n = false → ∃ t, exec i s = .next t ∧
          tells t 0 (peek s off n) ∧ (∀ a, a < off ∨ off + n ≤ a → peek t a 1 = peek s a 1) ∧
          peekLE t off n = atomNew (p.op % 8) (8 * n) (bit p.op 4) (peekLE s off n) (leAt p.data 0 n) (leAt p.data n n) % 2 ^ (8 * n)) ∧
        (region = 1 → k = 2 → ∃ t d, exec i s = .next t ∧ tells t 0 d ∧ d.length = n) ∧
        (region = 1 → k = 1 → ∃ t, exec i s = .next t ∧ ∃ r, kept t = some r ∧ r.status = 0 ∧ r.data = []) ∧
        (region = 2 → k = 4 → ∃ t, exec i s = .next t ∧ Touches [.free, .ctr, .cores, .box, .fab, .dbg, .out] s t ∧ tells t 0 [] ∧
          fence t slot = { fence s slot with sig := true, err := (fence s slot).err || bit p.op 0 } ∧
          ∀ x, x ≠ slot → fence t x = fence s x))) ∧
    (chipNo s ≠ 0xFFFF → p.dst = chipNo s → k ≠ 2 → 0 < ahead s p →
      (ahead s p < 1024 → s.fab.reorder = [] → n ≤ 4096 → (k = 3 → p.data.length ≤ 16) → (k = 4 → p.data = []) →
        ∃ t, exec i s = .next t ∧ Touches [.fab] s t ∧ t.fab = { s.fab with reorder := [{ p with kind := k }] }) ∧
      (65536 - 1024 ≤ ahead s p → kept s = none → exec i s = .next s) ∧
      (65536 - 1024 ≤ ahead s p → ∀ r, kept s = some r → r.dst = chipNo s → ∃ t, exec i s = .next t ∧ Touches [.out] s t ∧
        t.out = s.out ++ [.packet none r]))

/-- Outcomes of remote requests (R242, R253, R256, R258 to R260), for the one request that an answer matches by chip, kind and number,
while no other waits for its turn. RETRY
keeps it for its resending, which sends the packet again as it was. OK, damaged data for a READ, and a closing window for a WRITE or SIGF,
complete it: a load or atomic gets its value, a copy its part, a SIGNAL or a boundary its end. Any other status, no route, and 2 ms without an
answer fault: a thread's read or atomic precisely, PERMISSION for PERM, POISON for damaged data, ADDRESS otherwise; a posted write, a SIGNAL or
a boundary loses its context. An answer that matches nothing is discarded and counted. -/
def Obligations.RemoteOutcomes : Prop :=
  ∀ (s : State) (r : RReq) (p : Pkt),
    let fits := fun (x : RReq) => x.left = true ∧ x.pkt.dst = p.src ∧ x.pkt.kind = p.op % 16 ∧ (x.pkt.kind = 1 ∨ x.pkt.kind = 3 ∨ x.pkt.kind = 4 → x.pkt.pseq = p.pseq) ∧
      (x.pkt.kind = 2 ∨ x.pkt.kind = 3 → x.pkt.txid = p.txid)
    let st := p.status % 16
    let kindOf := fun (st : Nat) => if st = 2 then 2 else if st = 3 then 8 else 1
    let gone := fun (t : State) => ∀ x ∈ t.fab.reqs, x.id ≠ r.id
    let lost := fun (c : Nat) (k : Nat) (t : State) => (ctx t c).st = 2 ∧ (ctx t c).lastLoss = kindStatus k ∧
      (ctx t c).fltData = BitVec.ofNat 64 r.pkt.addr
    let late := fun (i : Instr) (k : Nat) =>
      ∀ c gs id a, r.owner = .thread c gs id → accAt s c gs id = some a → a.th < 32 → a.mask.testBit a.th = true →
        (∀ q ∈ (core s c).faults, q.isOf gs a.ins = false) → ∃ t, exec i s = .next t ∧ gone t ∧ (grp t c gs).stopped = true ∧ a ∉ (grp t c gs).accs ∧
          ∃ q : FaultRec, (core t c).faults = (core s c).faults ++ [q] ∧ q.kind = k ∧ q.addr = a.addr ∧ q.mask = a.mask ∧ q.pc = a.pc
    let fails := fun (i : Instr) (k : Nat) => late i k ∧
      (∀ c gs th, r.owner = .store c gs th → (ctx s (grp s c gs).ctx).st = 1 → ∃ t, exec i s = .next t ∧ gone t ∧ lost (grp s c gs).ctx k t) ∧
      (∀ q idx x, r.owner = .cmd q idx → r.pkt.kind = 4 → cmdAt s q idx = some x → x.st = .running → (ctx s r.ctx).st = 1 →
        ∃ t, exec i s = .next t ∧ gone t ∧ lost r.ctx k t) ∧
      (∀ slot, r.owner = .boundary slot → (stream s slot).live = true → (ctx s (stream s slot).ctx).st = 1 →
        ∃ t, exec i s = .next t ∧ gone t ∧ lost (stream s slot).ctx k t)
    remoteUp s = true → r ∈ s.fab.reqs → (∀ x ∈ s.fab.reqs, (x.id = r.id → x = r) ∧ (x ≠ r → x.left = true)) →
    (p.dst ≠ chipNo s → exec (.resp p) s = .next s) ∧
    (p.dst = chipNo s → (∀ x ∈ s.fab.reqs, ¬fits x) → ∃ t, exec (.resp p) s = .next t ∧ Touches [.fab] s t ∧
      t.fab = { s.fab with late := s.fab.late + 1 }) ∧
    (p.dst = chipNo s → fits r → (∀ x ∈ s.fab.reqs, fits x → x = r) →
      (st = 6 → ∃ t, exec (.resp p) s = .next t ∧ Touches [.ctr, .fab] s t ∧
        t.fab = { s.fab with reqs := s.fab.reqs.map (fun x => if x.id = r.id then { r with st := .refused } else x) }) ∧
      (∀ c gs id a, st = 0 → p.marks = 0 → r.owner = .thread c gs id → accAt s c gs id = some a → (grp s c gs).sb = [] →
        (∃ y ∈ (grp s c gs).threads, y.stat ≠ .exited) →
        let skip := if a.kind = .load ∨ a.kind = .uload then a.addr.toNat - readBase a.addr a.size else 0
        let g := writeResult (grp s c gs) a (ofLE ((p.data.drop skip).take a.size))
        ∃ t, exec (.resp p) s = .next t ∧ Touches [.ctr, .cores, .fab] s t ∧ gone t ∧ (grp t c gs).vreg = g.vreg ∧ (grp t c gs).ureg = g.ureg ∧
          ∀ b ∈ (grp t c gs).accs, b.id ≠ id) ∧
      (∀ c gs th, st = 0 ∨ st = 5 → r.owner = .store c gs th → r.pkt.kind = 1 ∨ r.pkt.kind = 4 → groupDone s c gs = false →
        ∃ t, exec (.resp p) s = .next t ∧ Touches [.ctr, .fab] s t ∧ gone t) ∧
      (∀ q idx x, r.owner = .cmd q idx → cmdAt s q idx = some x → x.st = .running →
        (r.pkt.kind = 4 → st = 0 ∨ st = 5 → ∃ t d, exec (.resp p) s = .next t ∧ Touches [.ctr, .box, .fab] s t ∧ gone t ∧
          cmdAt t q idx = some d ∧ d.st = .ended 0 0) ∧
        (∀ w, r.pkt.kind = 1 → st = 0 ∨ st = 5 → x.wait = [w] → w.1 = r.id → ∃ t d, exec (.resp p) s = .next t ∧
          Touches [.ctr, .box, .fab] s t ∧ gone t ∧ cmdAt t q idx = some d ∧ d.st = .ended 0 0) ∧
        (∀ w v l, r.pkt.kind = 2 → st = 0 → p.marks = 0 → x.wait = w :: v :: l → w.1 = r.id → (∀ y ∈ v :: l, y.1 ≠ r.id) →
          ∃ t d, exec (.resp p) s = .next t ∧ Touches [.ctr, .box, .fab] s t ∧ gone t ∧ cmdAt t q idx = some d ∧ d.st = .running ∧
            d.wait = v :: l ∧ d.buf = splice x.buf w.2.1 (p.data.take w.2.2))) ∧
      (∀ c x w l, r.owner = .tm c → (core s c).tmRun = some x → x.cmd.put = false → x.cmd.unpack = 0 → st = 0 → p.marks = 0 →
        x.wait = w :: l → w.1 = r.id → (∀ y ∈ l, y.1 ≠ r.id) →
        ∃ t, exec (.resp p) s = .next t ∧ Touches [.ctr, .cores, .fab] s t ∧ gone t ∧
          (core t c).tmRun = some { x with wait := l, src := splice x.src w.2.1 (p.data.take w.2.2) }) ∧
      (∀ slot, r.owner = .boundary slot → (stream s slot).live = true → r.pkt.kind = 4 → st = 0 ∨ st = 5 →
        ∃ t, exec (.resp p) s = .next t ∧ gone t ∧ stream t slot = Stream.empty) ∧
      (st = 3 ∨ st = 0 ∧ p.marks ≠ 0 → late (.resp p) 8) ∧
      (st ≠ 0 → st ≠ 6 → ¬(st = 3 ∧ r.pkt.kind = 2) → ¬(st = 5 ∧ (r.pkt.kind = 1 ∨ r.pkt.kind = 4)) → fails (.resp p) (kindOf st))) ∧
    (r.st ≠ .refused → exec (.retryResend r.id) s = .next s) ∧
    (r.st = .refused → r.pkt.dst = chipNo s → r.pkt.kind ≤ 4 → ∃ t, exec (.retryResend r.id) s = .next t ∧ Touches [.ctr, .fab, .out] s t ∧
      .packet none r.pkt ∈ t.out ∧ t.fab = { s.fab with reqs := s.fab.reqs.map (fun x => if x.id = r.id then { r with st := .sent } else x) }) ∧
    (r.st = .refused → r.pkt.dst ≠ chipNo s → r.pkt.kind ≤ 4 →
      (route s 0 r.pkt.dst ≠ none → ∃ t, exec (.retryResend r.id) s = .next t ∧ Touches [.ctr, .fab, .out] s t ∧
        t.fab.reqs = s.fab.reqs.map (fun x => if x.id = r.id then { r with st := .sent } else x)) ∧
      (route s 0 r.pkt.dst = none → fails (.retryResend r.id) 1)) ∧
    (let past := r.st = .noRoute ∨ r.left = true ∧ r.sent + 2000000 ≤ s.time.nsRun
     (s.dbg.raised = true ∨ ¬past → exec (.remoteRequestTimeout r.id) s = .next s) ∧
     (s.dbg.raised = false → past → fails (.remoteRequestTimeout r.id) 1))

/-- Collectives (R175, R278 to R284, R286 to R292), for a state that keeps no piece of a live collective and none without a buffer. A piece
from below is added once to the sum of its piece and answered; a piece from above is written where this chip takes it, and the collective ends
with its last piece; a piece for no live collective is kept, in place of the same piece sent before, or stalls when no buffer is free; one of
an earlier attempt is dropped, one of another plan or more than 50 ns from its instant aborts the plan, one that disagrees cancels the
collective everywhere. An open slot sends the ready pieces it owes, once in a frame, and counts a slip when the next is not ready. An abort keeps
its first reason and restarts timed collectives untimed. A notice, or the progress timeout of an engine that waits for a piece, cancels one
collective with FENCE_ERROR; an unanswered piece is sent again after 100 us. LOAD copies an image into the free bank, whose completion makes it
known unless it is damaged. -/
def Obligations.CollectiveResults : Prop :=
  let calm := fun (s : State) => (∀ h ∈ s.coll.held, liveAt s (bits h.2.op 15 0) = none) ∧ s.coll.stalled = []
  (∀ (n j off : Nat) (p : Pkt) (l : Live) (s : State),
    let cid := bits p.op 15 0
    let node := l.node s j
    let vals := elemsOf l.elem (l.len j / l.elem) p.data
    let fresh := liveAt s cid = some l ∧ bits p.op 31 24 = planTag s l ∧ bit p.op 23 = bit l.attempt 0 ∧ l.attempt < 2
    let agrees := disagrees s l p = false ∧ bits p.addr 39 0 = 4096 * j ∧ p.data ≠ []
    let same := fun (h : Nat × Pkt) => h.1 = n ∧ h.2.src = p.src ∧ h.2.op = p.op ∧ bits h.2.addr 39 0 = bits p.addr 39 0
    let ends := fun (st : Nat) (t : State) => liveAt t cid = none ∧ (∀ d, cmdAt s l.q l.idx = some d → d.hasEnded = false →
      ∃ d, cmdAt t l.q l.idx = some d ∧ d.st = .ended st 0)
    ∀ e ∈ ([(6, .coll n ⟨p, off⟩), (7, .mcast n p)] : List (Nat × Instr)), running s = true → calm s → p.kind = e.1 → p.dst = chipNo s →
      (∀ m, fresh → agrees → bit p.op 22 = false → l.timed = false → (if p.kind = 7 then some n else portFrom s node p.src) = some m →
        m ∉ SMap.get [] l.upGot j → l.upSent = [] → l.downGot = [] → l.written = [] → 0 < l.pieces →
        (∀ i < l.pieces, i ≠ j → upReady s l i = false) →
        l.group = none → l.op ≤ 2 → (∃ k ∈ trKids node, k ≠ m ∧ k ∉ SMap.get [] l.upGot j) →
        ∃ t, exec e.2 s = .next t ∧ Touches [.ctr, .fab, .coll, .out] s t ∧ liveAt t cid = some { l with
          upGot := SMap.put [] l.upGot j (insertNat (SMap.get [] l.upGot j) m)
          upSum := SMap.put [] l.upSum j (if (SMap.get [] l.upSum j).isEmpty then vals else sumPiece l.format (SMap.get [] l.upSum j) vals)
          upPoison := SMap.put 0 l.upPoison j (SMap.get 0 l.upPoison j ||| p.marks)
          last := SMap.put 0 l.last (upDie s l j) s.time.nsRun }) ∧
      (∀ pc pa, fresh → agrees → bit p.op 22 = true → l.timed = false → (p.kind = 7 ∨ portFrom s node p.src ≠ none) → l.pieces = 1 → j = 0 →
        SMap.get false l.upSent 0 = true → SMap.get false l.downGot 0 = false → SMap.get false l.written 0 = false → trKids node = [] →
        l.unacked = [] → l.takes s 0 = true → collSpots s l true 0 = [(pc, .mem pa)] → pc.pos = 0 → pc.len = l.len 0 → Memory.sound s.mem →
        l.elem * vals.length = l.len 0 →
        ∃ t, exec e.2 s = .next t ∧ ends (if l.poisoned = true ∨ p.marks ≠ 0 then 4 else 0) t ∧
          peek t pa (l.len 0) = elemBytes l.elem vals ∧ ∀ a, a < pa ∨ pa + l.len 0 ≤ a → peek t a 1 = peek s a 1) ∧
      (liveAt s cid = none →
        (p.data ≠ [] → collRoom s (n / 8) = true ∨ (∃ h ∈ s.coll.held, same h) → ∃ t, exec e.2 s = .next t ∧
          Touches [.ctr, .fab, .coll, .out] s t ∧ (n, p) ∈ t.coll.held ∧ (∀ h ∈ t.coll.held, same h → h = (n, p)) ∧
          ∀ h, ¬same h → (h ∈ t.coll.held ↔ h ∈ s.coll.held)) ∧
        (p.data ≠ [] → collRoom s (n / 8) = false → (∀ h ∈ s.coll.held, ¬same h) → ∃ t, exec e.2 s = .next t ∧ Touches [.coll] s t ∧
          t.coll = { s.coll with stalled := [(n, p)] }) ∧
        (p.data = [] → ∃ t, exec e.2 s = .next t ∧ Touches [.out] s t)) ∧
      (liveAt s cid = some l → bits p.op 31 24 = planTag s l → l.timed = false → l.attempt = 1 → bit p.op 23 = false →
        ∃ t, exec e.2 s = .next t ∧ Touches [.out] s t) ∧
      (liveAt s cid = some l → bits p.op 31 24 ≠ planTag s l → s.coll.live = [l] → l.timed = false →
        (∀ i < l.pieces, upReady s l i = false) → l.downGot = [] → l.written = [] → 0 < l.pieces →
        ∃ t, exec e.2 s = .next t ∧ Touches [.coll, .dbg, .out] s t ∧ t.coll.live = [l] ∧
          t.coll.pstate = (if s.coll.pstate = 2 then 3 else s.coll.pstate) ∧ t.coll.why = if s.coll.pstate = 2 then 3 else s.coll.why) ∧
      (e.1 = 6 → liveAt s cid = some l → bits p.op 31 24 = planTag s l → bit p.op 23 = bit l.attempt 0 → l.attempt < 2 → l.timed = true →
        50 < off → s.coll.pstate = 2 → ∃ t, exec e.2 s = .next t ∧ t.coll.pstate = 3 ∧ t.coll.why = 1) ∧
      (fresh → l.timed = false ∨ off ≤ 50 → disagrees s l p = true → ∃ t, exec e.2 s = .next t ∧ Touches [.box, .coll, .out] s t ∧
        ends 4 t ∧ .notice 0xFFFF 1 cid ∈ t.out)) ∧
  (∀ (k j : Nat) (l : Live) (s : State), s.pow.power = .active → s.pow.svc = 3 → s.dbg.fatal = false → s.coll.live = [l] →
    let e := plSlot (l.image s) k
    let die := if slDown e then downDie s l j else upDie s l j
    let key := rkey (pgColl die) 0x98
    let opened := fun (f : Nat) => { l with slots := SMap.put 0 l.slots k (f + 1) }
    (slotOpen s l k = none → exec (.slotOpen k) s = .next s) ∧
    (∀ f r, slotOpen s l k = some (f, r) →
      (owes s l e = [] → ∃ t, exec (.slotOpen k) s = .next t ∧ Touches [.coll] s t ∧ t.coll = { s.coll with live := [opened f] }) ∧
      (4608 ≤ 100 * r → owes s l e = [j] → slDown e = true → slotReady s l e j = true → running s = true →
        SMap.get false l.written j = false → j < l.pieces → ∃ t l', exec (.slotOpen k) s = .next t ∧
          Touches [.ctr, .fab, .coll, .out] s t ∧ liveAt t l.cid = some l' ∧ bit (SMap.get 0 l'.downSent j) (slPort e) = true ∧
          l'.slots = (opened f).slots) ∧
      (∀ i, owes s l e = j :: i → slotReady s l e j = false ∨ running s = false →
        ∃ t, exec (.slotOpen k) s = .next t ∧ Touches [.ctr, .coll, .dbg] s t ∧ t.coll = { s.coll with live := [opened f] } ∧
          SMap.get 0 t.ctr key = (SMap.get 0 s.ctr key + 1) % 2 ^ 64))) ∧
  (∀ (reason : Nat) (s : State), timeUp s = true → calm s →
    (s.coll.pstate ≠ 2 → s.coll.live = [] → exec (.abortNotice reason) s = .next s) ∧
    (s.coll.pstate = 2 → s.coll.live = [] ∨ s.dbg.raised = true → ∃ t, exec (.abortNotice reason) s = .next t ∧
      Touches [.coll, .dbg, .out] s t ∧ .notice 0xFFFF 2 reason ∈ t.out ∧
      t.coll = { s.coll with pstate := 3, why := reason, live := s.coll.live.map (fun l => if l.timed then l.restart else l) })) ∧
  (∀ (cid : Nat) (s : State),
    let cancels := fun (i : Instr) (l : Live) => ∃ t, exec i s = .next t ∧ Touches [.box, .coll, .out] s t ∧
      t.coll = { s.coll with live := s.coll.live.filter (fun x => x.cid != cid), ended := insertNat s.coll.ended cid } ∧
      t.out = s.out ++ [.notice 0xFFFF 1 cid] ∧
      ∀ d, cmdAt s l.q l.idx = some d → d.hasEnded = false → ∃ d, cmdAt t l.q l.idx = some d ∧ d.st = .ended 4 0
    (liveAt s cid = none → exec (.cancelNotice cid) s = .next s ∧ exec (.collectiveTimeout cid) s = .next s) ∧
    (∀ l, liveAt s cid = some l →
      let silent := ∃ e ∈ s.sku.dies, engineWaits s l e = true ∧
        max l.since (SMap.get 0 l.last e) + 1000 * 2 ^ max 10 (reg s (pgColl e) 0x8C % 32) ≤ s.time.nsRun
      (timeUp s = true → s.dbg.fatal = false → cancels (.cancelNotice cid) l) ∧
      (¬silent → exec (.collectiveTimeout cid) s = .next s) ∧ (running s = true → silent → cancels (.collectiveTimeout cid) l))) ∧
  (∀ (cid j n at0 : Nat) (l : Live) (s : State), liveAt s cid = some l → l.timed = false → l.group = none → (j, n, at0) ∈ l.unacked → running s = true →
    (at0 + 100000 ≤ s.time.nsRun → ∃ t l', exec (.pieceResendTimeout cid j n) s = .next t ∧ Touches [.ctr, .fab, .coll, .out] s t ∧
      liveAt t cid = some l' ∧ l'.unacked = l.unacked.filter (fun u => !(u.1 == j && u.2.1 == n)) ++ [(j, n, s.time.nsRun)]) ∧
    ((∀ u ∈ l.unacked, u.1 = j → u.2.1 = n → s.time.nsRun < u.2.2 + 100000) → exec (.pieceResendTimeout cid j n) s = .next s)) ∧
  (∀ (fn : Nat) (s : State), pagesUp s = true → reaches s fn (pgColl 0) = true → (blkAt s.sku (pgColl 0)).isSome = true →
    (s.coll.loading = none → ∃ t, exec (.load fn) s = .next t ∧ Touches [.coll] s t ∧
      t.coll = { s.coll with loading := some (s.coll.free_, reg s (pgColl 0) 0x80 / 4096 * 4096), loaded := false }) ∧
    (s.coll.loading ≠ none → exec (.load fn) s = .next s)) ∧
  (∀ (k base : Nat) (s : State), s.coll.loading = some (k, base) → running s = true →
    let img := peek s base (plLen (peek s base 64))
    ((∃ l ∈ s.coll.live, l.group = none ∧ l.bank = k) → exec .planLoadComplete s = .next s) ∧
    ((∀ l ∈ s.coll.live, l.group ≠ none ∨ l.bank ≠ k) → ∃ t, exec .planLoadComplete s = .next t ∧ Touches [.mem, .ctr, .coll] s t ∧
      t.coll.loading = none ∧ t.coll.base = base ∧ t.coll.loaded = !poisonIn s base img.length ∧ t.coll.live = s.coll.live ∧
      t.coll.pstate = (if s.coll.pstate = 0 ∧ poisonIn s base img.length = false then 1 else s.coll.pstate) ∧
      bankOf t k = if poisonIn s base img.length then bankOf s k else img))

/-- The link layer (R235 to R240, R261, R265) of a fitted port. A flit that fails its CRC or is out of order is discarded, the first with a NAK of the
last good number; one in order is acknowledged, and a whole packet for this chip goes to its units; the places of a VC2 packet come back
only when a collective engine takes it. An acknowledgement empties the retry buffer
up to its number, a NAK sends the rest again, returned credits are given back. An unacknowledged flit after 1 us, or 16 NAKs, start a fast retrain,
which resends the retry buffer in order or leads to full training. Training fails on a skew above 10 ns and keeps a loop above 944 ns down; an announcement decides the rigging
outcome; no signal within 1 s is DARK; a lost signal trains the link again. -/
def Obligations.LinkResults : Prop :=
  ∀ (n : Nat) (s : State),
    let p := port s n
    let err := fun (t : State) (k : Nat) => bit (reg t (pgXprt n) 0x10) k = true
    let counts := fun (t : State) (off : Nat) => SMap.get 0 t.ctr (rkey (pgXprt n) off) = (SMap.get 0 s.ctr (rkey (pgXprt n) off) + 1) % 2 ^ 64
    let idle := fun (i : Instr) (t : State) => exec i s = .next t ∧ Touches [.ctr, .fab, .out] s t
    let fresh := fun (t : State) (st : Nat) => let x := port t n
      x.lstate = st ∧ x.retry = [] ∧ x.queue = [] ∧ x.held = [] ∧ x.credits = [] ∧ x.txSeq = 0 ∧ x.rxExp = 0 ∧ x.loopNs = 0 ∧ x.achip = 0xFFFF
    s.sku.port n = true →
    (∀ f : List Byte,
      let h := leAt f 0 16
      let good := crc32c (f.take 252) = leAt f 252 4
      let plain := bit h 20 = false ∧ bit h 21 = false ∧ bits h 35 29 = 0
      let null := bits h 39 36 = 0
      (f.length ≠ 256 ∨ p.lstate ∉ [2, 3, 6] → exec (.flitReceive n f) s = .next s) ∧
      (f.length = 256 → p.lstate ∈ [2, 3, 6] → p.queue = [] → s.dbg.raised = false →
        (¬good → ∃ t, idle (.flitReceive n f) t ∧ counts t 0xD0 ∧ (port t n).naking = true ∧
          (p.naking = true → t.out = s.out) ∧ (p.naking = false → t.out = s.out ++ [.flit n (nullFlit p true 0 0)] ∧ counts t 0xD8)) ∧
        (good → plain → ¬null → bits h 9 0 ≠ p.rxExp → ∃ t, idle (.flitReceive n f) t ∧ (port t n).naking = true ∧
          (port t n).rxExp = p.rxExp ∧ t.out = s.out ++ if p.naking then [] else [.flit n (nullFlit p true 0 0)]) ∧
        (good → plain → ¬null → bits h 9 0 = p.rxExp → p.rxExp < 1024 → hdrBad h = false → vcOf (bits h 39 36) = bits h 23 22 →
          carries p.lstate (bits h 23 22) = true → bit h 40 = true → bit h 41 = true → bits h 65 50 = chipNo s →
          ∃ t, idle (.flitReceive n f) t ∧ counts t 0xC8 ∧ (port t n).rxExp = (p.rxExp + 1) % 1024 ∧ (port t n).naking = false ∧
            (port t n).held = p.held.filter (fun g => flitVc g != bits h 23 22) ∧
            let places := if bits h 23 22 = 2 then 0 else (p.held.filter (fun g => flitVc g == bits h 23 22)).length + 1
            t.out = s.out ++ [.flit n (nullFlit { p with rxExp := (p.rxExp + 1) % 1024 } false (bits h 23 22) places),
              .packet (some n) (pktOf [f])]) ∧
        (∀ l r k g, good → null → bit h 20 = true → bit h 21 = false → bits h 35 29 = 0 → p.retry = l ++ (k, g) :: r → k = bits h 19 10 →
          (∀ x ∈ l, x.1 ≠ k) → ∃ t, idle (.flitReceive n f) t ∧ (port t n).retry = r ∧ (port t n).naks = 0 ∧ t.out = s.out) ∧
        (good → null → bit h 20 = false → bit h 21 = true → bits h 35 29 = 0 → p.naks + 1 < 16 → ∃ t, idle (.flitReceive n f) t ∧
          (port t n).naks = p.naks + 1 ∧ t.out = s.out ++ p.retry.map (fun x => .flit n x.2)) ∧
        (good → null → bit h 20 = false → bit h 21 = true → bits h 35 29 = 0 → 16 ≤ p.naks + 1 →
          ∃ t, exec (.flitReceive n f) s = .next t ∧ (port t n).lstate = 4 ∧ (port t n).retry = p.retry ∧ err t 1) ∧
        (good → null → bit h 20 = false → bit h 21 = false → bits h 35 29 ≤ 64 →
          let used := fun (x : Port) => ((upTo 0 6).map (creditsUsed x (bits h 28 27))).foldl (· + ·) 0
          ∃ t, idle (.flitReceive n f) t ∧ used (port t n) = used p - bits h 35 29 ∧ t.out = s.out))) ∧
    (p.lstate ∈ [2, 3, 6] → p.retry ≠ [] → s.dbg.raised = false → ∃ t, exec (.ackTimeout n) s = .next t ∧ (port t n).lstate = 4 ∧
      (port t n).retry = p.retry ∧ (port t n).naks = 0 ∧ err t 1 ∧ counts t 0xE0) ∧
    (p.lstate ∉ [2, 3, 6] ∨ p.retry = [] → exec (.ackTimeout n) s = .next s) ∧
    (∀ ok, p.lstate ≠ 4 → exec (.fastRetrainComplete n ok) s = .next s) ∧
    (p.lstate = 4 → p.queue = [] → p.newEnt = none → p.prbs = 0 → ∃ t, exec (.fastRetrainComplete n true) s = .next t ∧
      (port t n).lstate = (if p.rig = 1 ∨ p.rig = 5 then 2 else 3) ∧ (port t n).retry = p.retry ∧ (port t n).naking = false ∧
      ∃ l, t.out = l ++ p.retry.map (fun x => .flit n x.2)) ∧
    (p.lstate = 4 → ∃ t, exec (.fastRetrainComplete n false) s = .next t ∧ fresh t (if mayTrain s n then 1 else 0)) ∧
    (∀ loop skew, trains s n = true →
      (10 < skew → ∃ t, exec (.portTrainingComplete n ⟨loop, skew⟩) s = .next t ∧ (port t n).lstate = 0) ∧
      (skew ≤ 10 → 944 < loop → ∃ t, exec (.portTrainingComplete n ⟨loop, skew⟩) s = .next t ∧ (port t n).lstate = 7) ∧
      (skew ≤ 10 → loop ≤ 944 → ∃ t, exec (.portTrainingComplete n ⟨loop, skew⟩) s = .next t ∧ (port t n).lstate = 1 ∧
        (port t n).loopNs = loop ∧ .announce n (chipNo s) 2 1 s.fab.plan.members ∈ t.out)) ∧
    (∀ chip q major minor members, chip < 65536 → q < 32 → major < 16 → minor < 16 → mayTrain s n = true → p.lstate = 1 → p.loopNs ≠ 0 →
      let kind := members = s.fab.plan.members ∧ p.pv = true ∧ chipNo s ≠ 0xFFFF
      let mine := p.pchip = chip ∧ p.pport = q
      let peer := fun (t : State) => (port t n).achip = chip ∧ (port t n).aport = q ∧ (port t n).amaj = major ∧ (port t n).amin = minor ∧
        (port t n).amem = members
      let gives := fun (rig st : Nat) => ∃ t, exec (.riggingAnnouncement n chip q major minor members) s = .next t ∧ (port t n).rig = rig ∧
        (port t n).lstate = st ∧ peer t ∧ (p.rig ≠ rig → err t 0) ∧ (major = 2 → (port t n).minor = min minor 1) ∧ (major ≠ 2 → err t 3)
      (major ≠ 2 → gives 0 5) ∧ (major = 2 → kind → mine → gives 1 2) ∧
      (major = 2 → kind → ¬mine → (chip, q) ∈ s.fab.plan.ends → gives 2 3) ∧
      (major = 2 → ¬kind ∨ ¬mine ∧ (chip, q) ∉ s.fab.plan.ends → gives 3 3)) ∧
    (mayTrain s n = true → p.lstate = 1 → ∃ t, exec (.riggingDarkTimeout n) s = .next t ∧ (port t n).rig = 4 ∧ fresh t 0) ∧
    (portsUp s = true → p.disable = false → p.prbs = 0 → 2 ≤ p.lstate →
      ∃ t, exec (.linkSignalLoss n) s = .next t ∧ fresh t (if s.rm.up then 1 else 0)) ∧
    (∀ m, (carriesMgmt s n m = false → exec (.mgmt n m) s = .next s) ∧
      (carriesMgmt s n m = true → match m with
        | .announce chip q major minor members => exec (.mgmt n m) s = exec (.riggingAnnouncement n chip q major minor members) s
        | .time a b c d lk hops e => p.lstate ≠ 6 → exec (.mgmt n m) s = exec (.linkMeasurement n a b c d lk hops e) s
        | .abort r => exec (.mgmt n m) s = exec (.abortNotice r) s
        | .cancel cid => exec (.mgmt n m) s = exec (.cancelNotice cid) s
        | .plan a b up => ∃ t, exec (.mgmt n m) s = .next t ∧ Touches [.fab] s t ∧
            (up = true → pairUp t a b = true) ∧ (up = false → pairUp t a b = false) ∧
            ∀ c d, (c, d) ≠ (a, b) → (d, c) ≠ (a, b) → pairUp t c d = pairUp s c d
        | .remote _ => exec (.mgmt n m) s = .next s))

/-- Plan changes and port controls (R239, R262 to R266, R413). At its instant a pending plan takes effect: a port in service or quarantine whose
entry changes drains and goes down 10 us later, one that retrains or drains waits with its new entry, any other takes it at once, a port whose
entry stays keeps its state, but a quarantined one that now matches enters service. RETRAIN trains the
port; DISABLE holds it down; ACCEPT takes a swapped link into service and nothing else; a pattern takes the port out of service and clears its error
counts, pattern 0 trains it. -/
def Obligations.LinkControl : Prop :=
  (∀ (tp : Nat) (pl : Plan) (s : State), s.fab.pending = some (tp, pl) →
    (s.time.ft < tp ∨ s.dbg.raised = true → exec .planChange s = .next s) ∧
    (portsUp s = true ∨ s.pow.power = .idle → mayFire s tp 2 = true → ∃ t, exec .planChange s = .next t ∧ t.fab.plan = pl ∧
      t.fab.pending = none ∧ Touches [.free, .time, .regs, .ctr, .fab, .coll, .dbg, .out] s t ∧
      ∀ n < 32, s.sku.port n = true →
        let p := port s n
        let new := planEntry pl n
        let changed := s.fab.plan.chip ≠ 0xFFFF ∧ s.fab.plan.chip ≠ pl.chip ∨ (p.loc, p.pchip, p.pport, p.pv) ≠ new
        let fits := p.amem = pl.members ∧ p.pv = true ∧ pl.chip ≠ 0xFFFF ∧ p.pchip = p.achip ∧ p.pport = p.aport
        (¬changed → ¬(p.lstate = 3 ∧ fits) → (port t n).lstate = p.lstate) ∧ (¬changed → p.lstate = 3 → fits → (port t n).lstate = 2) ∧
        (changed → p.lstate = 4 ∨ p.lstate = 6 → (port t n).lstate = p.lstate ∧ (port t n).newEnt = some new) ∧
        (changed → p.lstate = 2 ∨ p.lstate = 3 → (port t n).lstate = 6 ∧ (port t n).newEnt = some new) ∧
        (changed → p.lstate ∈ [0, 1, 5, 7] → ((port t n).loc, (port t n).pchip, (port t n).pport, (port t n).pv) = new ∧
          (port t n).newEnt = none))) ∧
  (∀ (fn n : Nat) (s : State),
    let p := port s n
    let pg := pgXprt n
    let reached := s.sku.port n = true ∧ pagesUp s = true ∧ reaches s fn pg = true ∧ (blkAt s.sku pg).isSome = true
    let up := portsUp s = true ∧ s.rm.up = true
    let fresh := fun (t : State) (st : Nat) => let x := port t n
      x.lstate = st ∧ x.retry = [] ∧ x.queue = [] ∧ x.held = [] ∧ x.credits = [] ∧ x.txSeq = 0 ∧ x.rxExp = 0 ∧ x.loopNs = 0
    (s.sku.port n = true → p.lstate = 6 → ∃ t, exec (.planPortDown n) s = .next t ∧ fresh t (if mayTrain s n then 1 else 0) ∧
      (port t n).newEnt = none ∧
      ((port t n).loc, (port t n).pchip, (port t n).pport, (port t n).pv) = p.newEnt.getD (p.loc, p.pchip, p.pport, p.pv)) ∧
    (p.lstate ≠ 6 → exec (.planPortDown n) s = .next s) ∧
    (reached →
      (mayTrain s n = true → ∃ t, exec (.retrain fn n) s = .next t ∧ fresh t 1) ∧
      (mayTrain s n = false → exec (.retrain fn n) s = .next s) ∧
      exec (.disable fn n p.disable) s = .next s ∧
      (p.disable = false → ∃ t, exec (.disable fn n true) s = .next t ∧ (port t n).disable = true ∧ fresh t 0) ∧
      (p.disable = true → p.prbs = 0 → up → ∃ t, exec (.disable fn n false) s = .next t ∧ (port t n).disable = false ∧ fresh t 1) ∧
      (p.rig = 2 → p.lstate = 3 → ∃ t, exec (.accept fn n) s = .next t ∧ (port t n).rig = 5 ∧ (port t n).lstate = 2 ∧
        bit (reg t pg 0x10) 0 = true ∧ peerOf (port t n) = p.achip) ∧
      (p.rig ≠ 2 ∨ p.lstate ≠ 3 → exec (.accept fn n) s = .next s) ∧
      ∀ mode, (mode % 4 = 3 → exec (.prbsModeWrite fn n mode) s = .next s) ∧
        (mode % 4 ≠ 3 → ∃ t, exec (.prbsModeWrite fn n mode) s = .next t ∧ (port t n).prbs = mode % 4 ∧
          (∀ k < 4, reg t pg (0xA4 + 4 * k) = 0) ∧
          (mode % 4 = 0 → p.disable = false → up → fresh t 1) ∧
          (mode % 4 ≠ 0 → p.prbs = 0 → p.lstate = 2 ∨ p.lstate = 3 → (port t n).lstate = 6) ∧
          (mode % 4 ≠ 0 → p.prbs = 0 → p.lstate ∈ [0, 1, 5, 7] → fresh t 0))))

/-- Fabric time (R266 to R274, R355, R356). A measurement gives the port its delay, the peer's offset and the loop. At each turn the unit follows its
parent: from FREE or HOLDOVER it enters ACQUIRE; the fourth measurement there steps FT by its offset and counts an epoch; eight in a row within
5 ns lock it; two in a row beyond 1,000 ns unlock it; otherwise it slews toward the parent by at most 200 ns a turn and FT does not step. Without a
parent a locked unit holds over and its error estimate grows. After 10 ms without a measurement the next candidate takes over as grandmaster, locked
with error 0 and no step. A turn
that the Ringmaster cannot take, while it restarts or serves tier 1, is counted, and the unit goes on at its last rate. A PTM dialogue records its
pair of times while the host has PTM enabled and its link is up. -/
def Obligations.TimeResults : Prop :=
  ∀ (s : State),
    let x := s.time
    let only := fun (t : State) => Touches [.free, .time, .coll, .dbg, .out] s t
    let turn := fun (f : State → Prop) => ∃ t, exec .servoUpdate s = .next t ∧ only t ∧ f t
    (∀ n t1 t2 t3 t4 locked hops errest, (s.sku.port n = false ∨ timeUp s = false ∨ (port s n).lstate ∉ [2, 3] →
        exec (.linkMeasurement n t1 t2 t3 t4 locked hops errest) s = .next s) ∧
      (s.sku.port n = true → timeUp s = true → (port s n).lstate ∈ [2, 3] →
        let d := (((t4 : Int) - t1) - ((t3 : Int) - t2)) / 2
        ∃ t, exec (.linkMeasurement n t1 t2 t3 t4 locked hops errest) s = .next t ∧ Touches [.time, .fab, .coll, .dbg, .out] s t ∧
          port t n = { port s n with parentOk := locked, phops := hops, perrest := errest, delay := d.toNat
                                     offset := (((t2 : Int) - t1) - ((t4 : Int) - t3)) / 2, loopNs := (2 * d.toNat + 64) % 65536 } ∧
          (∀ m, m ≠ n → port t m = port s m) ∧ t.time.ft = x.ft ∧
          t.time.lastMeas = if locked = true ∧ (port s n).inService = true then x.nsRun else x.lastMeas)) ∧
    (timeUp s = false → exec .servoUpdate s = .next s ∧ exec .grandmasterTimeout s = .next s) ∧
    (timeUp s = true → s.rm.up = false ∨ s.rm.tier = 1 → ∃ t, exec .servoUpdate s = .next t ∧ t.rm = { s.rm with tskip := (s.rm.tskip + 1) % 2 ^ 64 } ∧
      t.time.ft = x.ft ∧ t.time.st = x.st ∧ (x.gm = true ∨ x.st = 0 → t.time = x) ∧
      (x.gm = false → x.st ≠ 0 → t.time.errest = min (x.errest + 1) 0xFFFF ∧ t.time.slew = x.rate)) ∧
    (timeUp s = true → s.rm.up = true → s.rm.tier ≠ 1 →
      (x.gm = true → exec .servoUpdate s = .next s) ∧
      (x.gm = false → isMaster s = true → turn (fun t => t.time.gm = true ∧ t.time.st = 2 ∧ t.time.hops = 0 ∧ t.time.errest = 0 ∧
        t.time.ft = x.ft ∧ t.time.epoch = x.epoch)) ∧
      (x.gm = false → isMaster s = false →
        (∀ n, chooseParent s = some n →
          let off := (port s n).offset
          let follows := fun (t : State) => t.time.parent = n ∧ t.time.hops = min 15 ((port s n).phops + 1) ∧ t.time.offset = off ∧
            t.time.errest = min ((port s n).perrest + off.natAbs + 2) 0xFFFF
          let stays := fun (t : State) => t.time.ft = x.ft ∧ t.time.epoch = x.epoch
          let slews := fun (t : State) => t.time.slew.natAbs ≤ min off.natAbs 200 ∧ (0 ≤ off → 0 ≤ t.time.slew) ∧ (off ≤ 0 → t.time.slew ≤ 0)
          (x.st = 0 ∨ x.st = 3 → turn (fun t => follows t ∧ stays t ∧ t.time.st = 1 ∧ t.time.meas = [off])) ∧
          (x.st = 1 → x.meas.length < 3 → turn (fun t => follows t ∧ stays t ∧ t.time.st = 1 ∧ t.time.meas = x.meas ++ [off])) ∧
          (x.st = 1 → x.meas.length = 3 → 0 ≤ (x.ft : Int) + off → turn (fun t => follows t ∧ t.time.st = 1 ∧
            (t.time.ft : Int) = ((x.ft : Int) + off) % 2 ^ 64 ∧ t.time.epoch = (x.epoch + 1) % 65536 ∧ t.time.good = 0)) ∧
          (x.st = 1 → 4 ≤ x.meas.length →
            (off.natAbs ≤ 5 → x.good < 7 → turn (fun t => follows t ∧ stays t ∧ slews t ∧ t.time.st = 1 ∧ t.time.good = x.good + 1)) ∧
            (off.natAbs ≤ 5 → 7 ≤ x.good → turn (fun t => follows t ∧ stays t ∧ t.time.st = 2)) ∧
            (5 < off.natAbs → turn (fun t => follows t ∧ stays t ∧ slews t ∧ t.time.st = 1 ∧ t.time.good = 0))) ∧
          (x.st = 2 → (1000 < off.natAbs → x.bad = 0 → turn (fun t => follows t ∧ stays t ∧ slews t ∧ t.time.st = 2 ∧ t.time.bad = 1)) ∧
            (1000 < off.natAbs → 1 ≤ x.bad → turn (fun t => follows t ∧ stays t ∧ t.time.st = 1 ∧ t.time.meas = [])) ∧
            (off.natAbs ≤ 1000 → turn (fun t => follows t ∧ stays t ∧ slews t ∧ t.time.st = 2 ∧ t.time.bad = 0)))) ∧
        (chooseParent s = none →
          (x.st = 0 → exec .servoUpdate s = .next s) ∧
          (x.st = 1 → x.woken = true → exec .servoUpdate s = .next s) ∧
          (x.st = 1 → x.woken = false → turn (fun t => t.time.st = 0 ∧ t.time.errest = 0xFFFF ∧ t.time.ft = x.ft)) ∧
          (x.st = 2 ∨ x.st = 3 → turn (fun t => t.time.st = 3 ∧ t.time.errest = min (x.errest + 1) 0xFFFF ∧ t.time.ft = x.ft ∧
            t.time.slew = x.rate))))) ∧
    (x.gm = true ∨ x.nsRun < x.lastMeas + 10000000 → exec .grandmasterTimeout s = .next s) ∧
    (timeUp s = true → x.gm = false → chipNo s ≠ 0xFFFF → x.lastMeas + 10000000 ≤ x.nsRun →
      ∃ t, exec .grandmasterTimeout s = .next t ∧ Touches [.time, .fab, .coll, .dbg, .out] s t ∧
        t.time.cand = (x.cand + 1) % (gms s.fab.plan).length ∧ t.time.ft = x.ft ∧ t.time.lastMeas = x.nsRun ∧
        (∀ n < 32, (port t n).parentOk = false) ∧
        ((∃ n < 32, s.sku.port n = true ∧ (port s n).inService = true) → nthD 0x10000 (gms s.fab.plan) t.time.cand = chipNo s →
          t.time.gm = true ∧ t.time.st = 2 ∧ t.time.errest = 0) ∧
        (nthD 0x10000 (gms s.fab.plan) t.time.cand ≠ chipNo s → t.time.gm = false ∧
          t.time.st = if x.st = 2 then 3 else if x.st = 1 ∧ x.woken = false then 0 else x.st)) ∧
    (∀ ht ft, let on := timeUp s = true ∧ linkUp s 0 = true ∧ cfgVal s 0 5 = 1
      (¬on → exec (.ptmDialogue ht ft) s = .next s) ∧ (on → ∃ t, exec (.ptmDialogue ht ft) s = .next t ∧ Touches [.time] s t ∧
      t.time = { x with ptmHt := ht % 2 ^ 64, ptmFt := ft % 2 ^ 64, ptmSeq := (x.ptmSeq + 1) % 2 ^ 32 }))

/-- Commits (R276, R277, R302 to R307, R415, R435) and counter samples (R405, R406). A commit whose checks pass puts every shadow of its page in
force, keeps the shadows, and reports DONE and the instant; one that fails changes no field and reports the reason. A non-zero BLK_COMMIT_AT arms,
an instant that is past commits at once, 0 cancels with REASON CANCELLED; at its instant the pending commit runs and BLK_COMMIT_AT returns to 0.
Activating a loaded plan in LOCKED makes it active from that instant, otherwise it aborts with reason 1. BLK_OWNER takes only the page's own
partition; QUIESCE stops a collective engine once its collectives have ended; EN is ignored. A sample copies every counter of its bank. -/
def Obligations.CommitResults : Prop :=
  (∀ (fn page : Nat) (s : State),
    let reached := pagesUp s = true ∧ reaches s fn page = true ∧ (blkAt s.sku page).isSome = true
    let r := commitCheck s page
    let plain := page ≠ 4 ∧ page ≠ pgColl 0
    let outcome := fun (reason pend : Nat) => pend + (if reason = 0 then 2 else 4 + reason * 8) + s.time.ft % 2 ^ 48 * 2 ^ 16
    let pend := (bit (reg s page 0x28) 0).toNat
    let rest := fun (t : State) (l : List Nat) => ∀ k, (∀ o ∈ l, k ≠ rkey page o) → regv t k = regv s k
    reached →
      (r ≠ 0 → r < 32 → ∃ t, exec (.blkCommit fn page) s = .next t ∧ Touches [.regs, .dbg] s t ∧ rest t [0x28] ∧
        t.regs.shadow = s.regs.shadow ∧ reg t page 0x28 = outcome r pend) ∧
      (r = 0 → plain → ∃ t, exec (.blkCommit fn page) s = .next t ∧ t.regs.shadow = s.regs.shadow ∧ reg t page 0x28 = outcome 0 pend ∧
        (∀ off ∈ csOffs s.sku page, 0x80 ≤ off → reg t page off = newReg s page off) ∧
        ∀ off, off < 0x28 → reg t page off = reg s page off) ∧
      (r = 0 → page = pgColl 0 → bit (newReg s page 0x88) 1 = true → s.coll.live = [] → s.coll.held = [] → s.coll.stalled = [] → ∃ t, exec (.blkCommit fn page) s = .next t ∧
        reg t page 0x28 = outcome 0 pend ∧ t.coll.force = some (s.coll.free_, s.time.ft) ∧ t.coll.free_ = 1 - s.coll.free_ ∧
        t.coll.loaded = false ∧ t.coll.part = bits (newReg s page 0x88) 4 2 ∧
        t.coll.pstate = (if s.time.st = 2 then 2 else 3) ∧ t.coll.why = if s.time.st = 2 then 0 else 1) ∧
      (∀ value : W64, value ≠ 0 → s.time.ft < value.toNat ∨ s.dbg.raised = true →
        ∃ t, exec (.blkCommitAtWrite fn page value) s = .next t ∧ Touches [.regs] s t ∧ rest t [0x20, 0x28] ∧
          reg t page 0x20 = value.toNat ∧ bit (reg t page 0x28) 0 = true) ∧
      (∀ value : W64, value ≠ 0 → value.toNat ≤ s.time.ft → s.dbg.raised = false → r ≠ 0 → r < 32 →
        ∃ t, exec (.blkCommitAtWrite fn page value) s = .next t ∧ Touches [.regs, .dbg] s t ∧ rest t [0x20, 0x28] ∧ reg t page 0x20 = 0 ∧
          reg t page 0x28 = outcome r 0) ∧
      (pend = 1 → ∃ t, exec (.blkCommitAtWrite fn page 0) s = .next t ∧ Touches [.regs, .dbg] s t ∧ rest t [0x20, 0x28] ∧
        reg t page 0x20 = 0 ∧ reg t page 0x28 = outcome 10 0) ∧
      (pend = 0 → ∃ t, exec (.blkCommitAtWrite fn page 0) s = .next t ∧ Touches [.regs] s t ∧ rest t []) ∧
      (pend = 0 ∨ s.time.ft < reg s page 0x20 ∨ s.dbg.raised = true → exec (.scheduledCommit page) s = .next s) ∧
      (pend = 1 → mayFire s (reg s page 0x20) (if page = pgColl 0 then 3 else 1) = true →
        (r ≠ 0 → r < 32 → ∃ t, exec (.scheduledCommit page) s = .next t ∧ Touches [.regs, .dbg] s t ∧ rest t [0x20, 0x28] ∧ reg t page 0x20 = 0 ∧
          reg t page 0x28 = outcome r 0) ∧
        (r = 0 → plain → ∃ t, exec (.scheduledCommit page) s = .next t ∧ reg t page 0x20 = 0 ∧ reg t page 0x28 = outcome 0 0 ∧
          ∀ off ∈ csOffs s.sku page, 0x80 ≤ off → reg t page off = newReg s page off)) ∧
      (∀ v, (∃ t, exec (.blkOwnerWrite fn page v) s = .next t ∧ Touches [.regs] s t ∧ rest t [0x30]) ∧
        (∀ n, fn = 0 → blkAt s.sku page = some (.boxo, n) ∨ blkAt s.sku page = some (.dbug, n) → v % 8 = n - 1 →
          ∃ t, exec (.blkOwnerWrite fn page v) s = .next t ∧ reg t page 0x30 = v % 8) ∧
        ((∀ n, blkAt s.sku page ≠ some (.boxo, n) ∧ blkAt s.sku page ≠ some (.dbug, n)) ∨ fn ≠ 0 → exec (.blkOwnerWrite fn page v) s = .next s)) ∧
      (∀ b, exec (.en fn page b) s = .next s) ∧
      (∀ b, ∃ t, exec (.quiesce fn page b) s = .next t ∧ Touches [.regs] s t ∧ bit (reg t page 8) 1 = b ∧
        ((∀ n, blkAt s.sku page ≠ some (.coll, n)) → t.regs.blk = s.regs.blk) ∧
        (∀ n, blkAt s.sku page = some (.coll, n) → blkState t page =
          (match b, blkState s page with | true, 3 => 4 | false, 4 => 3 | false, 5 => 3 | _, x => x)))) ∧
  (∀ (page : Nat) (s : State),
    (blkState s page = 4 → s.coll.live = [] → ∃ t, exec (.blockQuiesced page) s = .next t ∧ Touches [.regs] s t ∧ blkState t page = 5 ∧
      t.regs.val = s.regs.val) ∧
    (blkState s page ≠ 4 ∨ s.coll.live ≠ [] → exec (.blockQuiesced page) s = .next s)) ∧
  (∀ (n : Nat) (s : State),
    let pg := pgDbug n
    (reg s pg 0x300 = 0 ∨ s.time.ft < reg s pg 0x300 → exec (.counterSample n) s = .next s) ∧
    (n < 8 → reg s pg 0x300 ≠ 0 → pagesUp s = true → mayFire s (reg s pg 0x300) 4 = true →
      ∃ t, exec (.counterSample n) s = .next t ∧ Touches [.regs, .ctr] s t ∧ reg t pg 0x300 = 0 ∧
        (∀ i < 15, ctr t (rkey pg (0x180 + 8 * i)) = ctr s (rkey pg (0x80 + 8 * i)) % 2 ^ 64) ∧
        (∀ c < 144, coreIn s n c = true → (∀ i < 16, ctr t (rkey (pgCore c) (0x300 + 8 * i)) = ctr s (rkey (pgCore c) (0x280 + 8 * i)) % 2 ^ 64) ∧
          ∀ j < 4, ctr t (rkey (pgCore c) (0x3A0 + 8 * j)) = ctr s (rkey (pgCore c) (0x380 + 8 * j)) % 2 ^ 64) ∧
        ctr t (rkey pg 0x308) = s.time.ft % 2 ^ 64 ∧ ctr t (rkey pg 0x310) = (ctr s (rkey pg 0x310) + 1) % 2 ^ 32))

/-- Host accesses (R10, R11, R175, R299, R300, R301, R313, R435). A register write that has no row of its own acts bit by bit by its access codes, the
CS bits in the shadow, and changes no other register; absent pages and reserved offsets ignore it; a page the function does not reach
discards it with DROPPED, one that is not a number of whole words with PARTIAL; any other but 8 bytes at an 8-byte boundary acts word by word in
ascending address. An access that the block does not answer sets RDTIMEOUT, and a read of it returns ones; one that the function does not
reach sets DROPPED, and a read of it returns 0. BAR4 reaches a function's own memory: bytes written read back, bytes that reach none read 0
and write nothing, and a poisoned sector sets the EP bit and is reported; before service it reads 0. PF1 has none. -/
def Obligations.HostAccess : Prop :=
  let own : Blk → Nat → Bool := fun b o => [8, 0x18, 0x20, 0x30].contains o || match b with
    | .core => o == 0xC0 || (0x100 ≤ o && o < 0x148) || (0x280 ≤ o && o < 0x300)
    | .boxo0 | .boxo => o == 0x80 | .coll => o == 0x88 | .xprt => o == 0x80 || o == 0xA0 | .host => o == 0x80 | .rmst1 => o == 0x84
    | .secu => o == 0x90 | .pwrc => o == 0x98 || o == 0x9C || o == 0xA8 | .dbug0 => dbgGated o | .dbug => o == 0x300 | _ => false
  let msgs := fun (l : List Out) => ∀ o ∈ l, ∃ f v, o = Out.msix f v
  (∀ (fn addr size v : Nat) (s : State),
    let page := addr / 4096
    let o := addr % 4096
    let i : Instr := .registerWrite fn addr size v
    let err := fun (k : Nat) => ∃ t, exec i s = .next t ∧ Touches [.regs, .out] s t ∧ bit (reg t 6 0x10) k = true ∧ msgs (t.out.drop s.out.length)
    (pagesUp s = false → exec i s = .next s) ∧
    (pagesUp s = true → addr % 4 ≠ 0 ∨ size % 4 ≠ 0 ∨ size = 0 → err 1) ∧
    (pagesUp s = true → addr % 4 = 0 → size = 4 → reaches s fn page = false → err 2) ∧
    (pagesUp s = true → addr % 4 = 0 → size = 4 → reaches s fn page = true → regAt s.sku page o = none → exec i s = .next s) ∧
    (∀ b n r base, pagesUp s = true → reaches s fn page = true → blkAt s.sku page = some (b, n) → regAt s.sku page o = some (r, base) →
      own b base = false → (addr % 4 = 0 ∧ size = 4) ∨ (addr % 8 = 0 ∧ size = 8 ∧ r.bytes = 8 ∧ base = o) →
      let lo := 8 * (o - base)
      ∃ t, exec i s = .next t ∧ Touches (if o < 0x80 then [.regs, .out] else [.regs]) s t ∧
        (∀ k, k ≠ rkey page base → regv t k = regv s k) ∧ (∀ k, k ≠ rkey page base → SMap.get none t.regs.shadow k = SMap.get none s.regs.shadow k) ∧
        ∀ f ∈ r.fields, ∀ j, f.lo ≤ j → j ≤ f.hi → j < 64 →
          let was := bit (reg s page base) j
          let inn := decide (lo ≤ j) && decide (j < lo + 8 * size)
          let w := bit v (j - lo)
          bit (reg t page base) j = (if inn = false then was else match f.acc with
            | .rw => w | .w1c => was && !w | .w1s => was || w | .ro | .wo | .cs => was) ∧
          (f.acc = .cs → bit (shadow t page base) j = if inn = true then w else bit (shadow s page base) j)) ∧
    (∀ n s1 t, pagesUp s = true → addr % 4 = 0 → (addr % 8 = 4 ∧ n = 1) ∨ (2 ≤ n ∧ ¬(addr % 8 = 4 ∧ n = 2)) →
      exec (.registerWrite fn addr 4 v) s = .next s1 → exec (.registerWrite fn (addr + 4) (4 * n) (v / 2 ^ 32)) s1 = .next t →
      exec (.registerWrite fn addr (4 * (n + 1)) v) s = .next t)) ∧
  (∀ (write : Bool) (a : BarAcc) (s : State),
    let i : Instr := .bar0ReadTimeout write a
    let back := fun (l : List Out) (t : State) (v : Nat) => msgs l ∧ t.out = s.out ++ l ++ if write then [] else [.barRead v false]
    (pagesUp s = false → exec i s = .next s) ∧
    (pagesUp s = true → reaches s a.fn (a.addr / 4096) = true → (blkAt s.sku (a.addr / 4096)).isSome = true →
      ∃ t l, exec i s = .next t ∧ Touches [.regs, .out] s t ∧ bit (reg t 6 0x10) 0 = true ∧ back l t (2 ^ (8 * a.size) - 1)) ∧
    (pagesUp s = true → reaches s a.fn (a.addr / 4096) = false →
      ∃ t l, exec i s = .next t ∧ Touches [.regs, .out] s t ∧ bit (reg t 6 0x10) 2 = true ∧ back l t 0) ∧
    (pagesUp s = true → reaches s a.fn (a.addr / 4096) = true → blkAt s.sku (a.addr / 4096) = none →
      ∃ t, exec i s = .next t ∧ Touches [.out] s t ∧ back [] t 0)) ∧
  (∀ (fn off len : Nat) (data : List Byte) (s : State),
    let read : Instr := .bar4Access fn off false len []
    let put : Instr := .bar4Access fn off true len data
    let up := s.pow.power = .active ∧ 3 ≤ s.pow.svc ∧ s.pow.psState = 0
    let no := fun k => windowAddr s fn (off + k) = none
    (9 ≤ fn ∨ s.pow.power = .off ∨ s.pow.power = .dormant → exec read s = .next s ∧ exec put s = .next s) ∧
    (fn < 9 → s.pow.power = .active → s.pow.svc < 3 → exec put s = .next s ∧ exec read s = .next { s with out := s.out ++ [.barRead 0 false] }) ∧
    (fn < 9 → up → (∀ k < data.length, no k) → exec put s = .next s) ∧
    (fn < 9 → up → (∀ k < len, no k) → exec read s = .next { s with out := s.out ++ [.barRead 0 false] }) ∧
    (∀ a, fn < 9 → up → (∀ k < data.length, windowAddr s fn (off + k) = some (a + k)) → Memory.sound s.mem →
      ∃ t, exec put s = .next t ∧ Touches [.mem, .ctr] s t ∧ Memory.sound t.mem ∧ (Memory.wf s.mem = true → Memory.wf t.mem = true) ∧
        peek t a data.length = data ∧ ∀ x, x < a ∨ a + data.length ≤ x → peek t x 1 = peek s x 1) ∧
    (∀ a, fn < 9 → up → Memory.wf s.mem = true → Memory.sound s.mem → (∀ k < len, windowAddr s fn (off + k) = some (a + k)) →
      let bad := poisonIn s a len
      ∃ t l, exec read s = .next t ∧ Touches (if bad then [.mem, .ctr, .pow, .regs, .out] else [.mem, .ctr, .out]) s t ∧
        t.out = s.out ++ [.barRead (peekLE s a len) bad] ++ l ∧ msgs l ∧ (bad = false → l = []) ∧ (bad = true → bit (reg t 6 0x10) 4 = true) ∧
        Memory.wf t.mem = true ∧ Memory.sound t.mem ∧ ∀ x, peek t x 1 = peek s x 1)) ∧
  (∀ (page : Nat) (s : State),
    (pagesUp s = false ∨ blkAt s.sku page = none → exec (.mirrorReport page) s = .next s ∧ exec (.mirrorStaleTimeout page) s = .next s) ∧
    (page = 2 → s.rm.up = false → exec (.mirrorReport page) s = .next s) ∧
    (pagesUp s = true → (blkAt s.sku page).isSome = true →
      (page ≠ 2 ∨ s.rm.up = true → ∃ t, exec (.mirrorReport page) s = .next t ∧ Touches [.regs] s t ∧ SMap.get false t.regs.stale page = false ∧
        (page ≠ 0 → SMap.get none t.regs.mirror page = some (w64 (mirrorWord s page)) ∧ t.regs.val = s.regs.val) ∧
        (page = 0 → reg t 0 0x90 = s.time.ft % 2 ^ 64) ∧ ∀ p, p ≠ page → SMap.get none t.regs.mirror p = SMap.get none s.regs.mirror p) ∧
      (∃ t, exec (.mirrorStaleTimeout page) s = .next t ∧ Touches [.regs] s t ∧ SMap.get false t.regs.stale page = true ∧
        t.regs.mirror = s.regs.mirror ∧ t.regs.val = s.regs.val)))
/-- The host link (R294 to R297, R314). Training records rate, width and FLIT mode where the link mode allows them, 64 GT/s in FLIT mode only; losing
the link sets LINKDOWN, notes the event, and touches no device memory, no other host link and no clock. A configuration read gets the value that
the manual gives (device ID, class code, subsystem ID, numbers of virtual functions and vectors) or the setting that the function keeps, and a
Retry before the port is ready; a write of a setting takes a value that the function supports and changes nothing else. The numbers of the settings
are the model's (assumption 130). -/
def Obligations.HostLink : Prop :=
  ∀ (n : Nat) (s : State),
    (∀ rate width flit,
      let i : Instr := .hostLinkTrained n rate width flit
      let fits := n < hostPorts s ∧ 1 ≤ rate ∧ rate ≤ 6 ∧ width ∈ [1, 2, 4, 8, 16] ∧ (s.pow.linkMode = 1 → width ≤ 8) ∧ (rate = 6 → flit = true)
      (railsGood s = true → s.pow.perst = false → fits → ∃ t, exec i s = .next t ∧ Touches [.pow] s t ∧
        linkOf t n = (rate, width, flit) ∧ (∀ m, m ≠ n → linkOf t m = linkOf s m) ∧ t.pow = { s.pow with links := t.pow.links }) ∧
      (railsGood s = false ∨ s.pow.perst = true ∨ ¬fits → exec i s = .next s)) ∧
    (linkUp s n = false → exec (.hostLinkDown n) s = .next s) ∧
    (linkUp s n = true → ∃ t, exec (.hostLinkDown n) s = .next t ∧ Touches [.free, .regs, .ctr, .cores, .box, .fab, .pow, .dbg, .out] s t ∧
      linkUp t n = false ∧ (∀ m, m ≠ n → linkOf t m = linkOf s m) ∧ bit (reg t 6 0x10) 3 = true ∧
      (s.dbg.raised = false → n < 2 → (∀ k ∈ s.cores, k.1 < 144) → (SMap.get [] t.dbg.rings (ringKey 13 n 0)).head? =
        some { ft := s.time.ft, event := 0x11, part := none, ctx := none, tag := 0, arg := 0 })) ∧
    (∀ fn what,
      let i : Instr := .configRequest fn ⟨what, none⟩
      let answers := fun o => exec i s = .next { s with out := s.out ++ [o] }
      let there := railsGood s = true ∧ (fn < 9 ∨ (fn = 9 ∧ s.pow.linkMode = 1)) ∧ linkUp s (fnPort s fn) = true
      let pf := fn = 0 ∨ fn = 9
      (¬there → ∀ w, exec (.configRequest fn ⟨what, w⟩) s = .next s) ∧
      (there → cfgReady s = false → answers .cfgRetry) ∧
      (there → cfgReady s = true →
        (what = 0 → answers (.cfgValue (if fn = 0 then 0x0D20 else if fn = 9 then 0x0D22 else 0x0D21))) ∧
        (what = 1 → answers (.cfgValue 0x120000)) ∧
        (what = 2 → answers (.cfgValue (match s.sku with | .s16 => 1 | .s12 => 2 | .s08 => 3))) ∧
        (what = 6 → answers (.cfgValue (min 1 (SMap.get 0 s.pow.aer (fnPort s fn))))) ∧
        (what = 10 → pf → answers (.cfgValue (if s.pow.linkMode = 1 then 4 else 8))) ∧
        (what = 11 → answers (.cfgValue (if pf then 2048 else 256))) ∧
        (cfgHas fn what = true → answers (.cfgValue (cfgVal s fn what))) ∧
        (12 ≤ what → answers .cfgDone) ∧
        (∀ v, ∃ t, exec (.configRequest fn ⟨what, some v⟩) s = .next t ∧ Touches [.pow, .out] s t ∧ t.out = s.out ++ [.cfgDone] ∧
          t.pow = { s.pow with aer := t.pow.aer, cfg := t.pow.cfg } ∧
          (cfgHas fn what = true → v ≤ cfgMax what → cfgVal t fn what = v ∧ t.pow.aer = s.pow.aer) ∧
          (cfgHas fn what = false ∨ cfgMax what < v → t.pow.cfg = s.pow.cfg) ∧
          (what = 6 → v % 2 = 1 → SMap.get 0 t.pow.aer (fnPort s fn) = 0))))

/-- Resets (R182, R232, R250, R263, R306, R350, R351, R373, R379 to R382, R385, R419). A warm reset, by PERST# or by PWRC_RSTCTL with its key, keeps
device memory with its poison marks, fabric time, flash, fuses and the island's registers; caches, cores, streams, collectives, queues, fence
slots and the debug unlock are gone, every context reads FREE with last loss CHIP_RESET, every other register reads its reset value, and a
pending commit reads REASON RESET; the chip goes to BOOT, or holds while PERST# is low. PF0's function level reset does the same but for the
fabric, fabric time and the running firmware, and does not clear FATAL. A virtual function's puts every context of its partition into teardown
with PARTITION_RESET and signals its fences once no work of it runs. A scrub's end leaves zeros; a closed window admits nothing. -/
def Obligations.ResetResults : Prop :=
  ∀ (s : State),
    let gone := fun (t : State) => t.mem.hbm = s.mem.hbm ∧ t.mem.poison = s.mem.poison ∧ t.mem.l2 = [] ∧ t.mem.dir = [] ∧ t.cores = [] ∧
      t.streams = [] ∧ t.tags = [] ∧ t.coll = Coll.empty ∧ (∀ c < 4096, ctx t c = { Ctx.free with lastLoss := 0xB }) ∧
      (∀ q, queue t q = Queue.empty) ∧ (∀ k, fence t k = Fence.free) ∧ t.rm.scope = 0 ∧ t.rm.long = none ∧ t.rm.fused = s.rm.fused ∧
      t.rm.imgA = s.rm.imgA ∧ t.rm.imgB = s.rm.imgB ∧ t.rm.serial = s.rm.serial ∧ t.rm.uds = s.rm.uds ∧ t.rm.wrapped = s.rm.wrapped ∧
      t.rm.certs = s.rm.certs ∧ t.dbg.raised = false ∧ t.dbg.ce = s.dbg.ce ∧
      t.fab.stored = s.fab.stored ∧ t.pow.bmcLimit = s.pow.bmcLimit ∧ t.pow.modeFlash = s.pow.modeFlash ∧ t.sku = s.sku ∧
      t.out = s.out ++ s.coll.live.map (fun l => .notice 0xFFFF 1 l.cid) ∧ t.regs.shadow = [] ∧
      ∀ r < 1024, r * 2 ^ 30 < s.sku.memBytes → SMap.get 0 t.mem.owners r =
        if scrubbing s r = true then 1 else match carve s r with | some p => p + 2 | none => 1
    let rejected := 76 + s.time.ft % 2 ^ 48 * 2 ^ 16
    let pended := fun (page off : Nat) => off = 0x28 ∧ (blkAt s.sku page).isSome = true ∧ bit (reg s page 0x28) 0 = true
    let island := fun (page off : Nat) => page = 4 ∧ (off = 0xA8 ∨ off = 0x90)
    let warm := fun (t : State) (code : Nat) (hold : Bool) => gone t ∧ t.time.ft = s.time.ft ∧ t.time.epoch = s.time.epoch ∧
      t.time.gm = s.time.gm ∧ t.time.st = (if s.time.gm = true then 2 else if s.time.st = 2 ∨ s.time.st = 3 then 3 else 0) ∧
      t.fab.ports = [] ∧ t.fab.plan = Plan.none ∧ t.rm.up = false ∧ t.dbg.fatal = false ∧ t.pow.power = .active ∧
      t.pow.svc = (if hold then 0 else 1) ∧ t.pow.stage = (if hold then .hold else .boot) ∧
      t.pow.cause = code + 16 * s.dbg.fatal.toNat ∧ t.pow.links = (if code = 2 then [] else s.pow.links) ∧ t.pow.cfg = (if code = 2 then [] else s.pow.cfg) ∧
      ∀ page off, off < 4096 →
        (¬pended page off → reg t page off = if page = 4 ∧ off = 0xA8 then reg s page off else resetOf s.sku (rkey page off)) ∧
        (pended page off → reg t page off = rejected) ∧
        ctr t (rkey page off) = if page = 4 ∧ off = 0x90 then ctr s (rkey page off) else 0
    let xprt := fun page => ∃ n, blkOf page = some (.xprt, n)
    (s.pow.power = .off ∨ s.pow.perst = true → exec .perstAssert s = .next s) ∧
    (railsGood s = false → s.pow.power ≠ .off → s.pow.perst = false →
      exec .perstAssert s = .next { s with pow := { s.pow with perst := true } }) ∧
    (railsGood s = true → s.pow.perst = false → ∃ t, exec .perstAssert s = .next t ∧ warm t 2 true ∧ t.pow.perst = true) ∧
    (s.pow.power = .off → exec .perstDeassert s = .next s) ∧
    (s.pow.power ≠ .off → ∃ t, exec .perstDeassert s = .next t ∧ Touches [.pow] s t ∧ t.pow.perst = false ∧
      (s.pow.stage = .hold → t.pow.stage = .boot ∧ t.pow.svc = 1) ∧ (s.pow.stage ≠ .hold → t.pow = { s.pow with perst := false })) ∧
    (∀ fn key, pagesUp s = true → reaches s fn 4 = true →
      (key ≠ 0xD9A0 → exec (.warmReset fn key) s = .next s) ∧
      (key = 0xD9A0 → ∃ t, exec (.warmReset fn key) s = .next t ∧ warm t 3 s.pow.perst)) ∧
    (pagesUp s = false → ∀ fn key, exec (.warmReset fn key) s = .next s) ∧
    (s.pow.power ≠ .idle → s.pow.power ≠ .active ∨ s.pow.svc < 3 → exec .pfFlr s = .next s) ∧
    (s.pow.power = .active → 3 ≤ s.pow.svc → s.pow.psState = 0 → ∃ t, exec .pfFlr s = .next t ∧ gone t ∧ t.time = s.time ∧
      t.fab = s.fab ∧ t.rm.up = s.rm.up ∧ t.dbg.fatal = s.dbg.fatal ∧ t.pow.power = .active ∧
      t.pow.svc = (if s.dbg.fatal = true then 5 else 2) ∧ t.pow.cause = 4 + 16 * s.dbg.fatal.toNat ∧ t.pow.links = s.pow.links ∧
      ∀ page off, off < 4096 →
        (xprt page ∨ island page off → reg t page off = reg s page off ∧ ctr t (rkey page off) = ctr s (rkey page off)) ∧
        (¬xprt page → pended page off → reg t page off = rejected) ∧
        (¬xprt page → ¬island page off → ctr t (rkey page off) = 0 ∧
          (¬pended page off → reg t page off = resetOf s.sku (rkey page off)))) ∧
    (s.pow.power = .idle → s.dbg.fatal = false → ∃ t, exec .pfFlr s = .next t ∧ t.mem.hbm = s.mem.hbm ∧ t.mem.poison = s.mem.poison ∧
      t.time.ft = s.time.ft ∧ t.pow.power = .active ∧ t.pow.svc = 2 ∧ t.pow.cause = 4 ∧ t.cores = []) ∧
    (∀ n,
      let every := fun c (p : Ctx → Prop) => ∀ x ∈ s.box.ctxs, x.1 = c → p x.2
      (8 ≤ n ∨ canReset s = false → exec (.vfFlr n) s = .next s) ∧
      (n < 8 → canReset s = true → ∃ t, exec (.vfFlr n) s = .next t ∧ n ∈ t.pow.flr ∧
        (∀ c, (∃ x ∈ s.box.ctxs, x.1 = c) → every c (fun x => x.st ≠ 0 ∧ x.part = n) → (ctx t c).st = 3 ∧
          (ctx t c).lastLoss = 0xA ∧ ((ctx s c).st ≠ 3 → (∀ q ∈ queuesOf s c, (queue t q).bound = false) ∧
            (workGone s c = true → (ctx t c).due = false) ∧
            ((ctx t c).due = false → ∀ k, (fence s k).owner = some c → (fence t k).sig = true ∧ (fence t k).err = true))) ∧
        ∀ c, every c (fun x => x.st = 0 ∨ x.part ≠ n) → (ctx t c).st = (ctx s c).st)) ∧
    (∀ what n,
      let i : Instr := .scrubComplete what n
      let zero := fun (t : State) (a len : Nat) => ∀ x, a ≤ x → x < a + len → peek t x 1 = [0]
      let sound := Memory.wf s.mem = true ∧ Memory.sound s.mem
      (¬(what = 0 ∧ hasScrub s 0 n 0 = true) → ¬(what = 1 ∧ hasScrub s 1 n 1 = true) → ¬(what = 2 ∧ scrubbing s n = true) → exec i s = .next s) ∧
      (what = 0 → hasScrub s 0 n 0 = true → sound → ∃ t, exec i s = .next t ∧ (ctx t n).st = 0 ∧ (ctx t n).lastLoss = (ctx s n).lastLoss ∧
        ctxScrub t n = false ∧ (∀ r ∈ s.box.alloc, r.1 ∈ ctxRuns (ctx s n) → zero t r.1 r.2) ∧ ∀ d, d ≠ n → ctx t d = ctx s d) ∧
      (what = 1 → hasScrub s 1 n 1 = true → sound → ∃ t, exec i s = .next t ∧ n ∉ t.pow.flr ∧ hasScrub t 1 n 1 = false ∧
        ∀ r ∈ carveOf s n, zero t (r * 2 ^ 30) (2 ^ 30)) ∧
      (what = 2 → scrubbing s n = true → sound → ∃ t, exec i s = .next t ∧ Touches [.mem, .cores] s t ∧ scrubbing t n = false ∧
        zero t (n * 2 ^ 30) (2 ^ 30) ∧ ∀ x, x < n * 2 ^ 30 ∨ (n + 1) * 2 ^ 30 ≤ x → peek t x 1 = peek s x 1)) ∧
    (∀ i,
      let v := reg s (expPage i) (expOff i)
      (1024 ≤ i ∨ bit v 6 = false → exec (.windowCloseExpiry i) s = .next s) ∧
      (i < 1024 → bit v 6 = true → ∃ t, exec (.windowCloseExpiry i) s = .next t ∧ bit (reg t (expPage i) (expOff i)) 0 = false ∧
        bit (reg t (expPage i) (expOff i)) 6 = false))

/-- The mailbox (R315 to R320, R356, R363, R384). GO while PENDING sets OVR; otherwise the page's command is held until the Ringmaster takes it, or
refused: BUSY while a long operation runs, before service, and once work of tier 1 or 2 has held the mailbox for more than 10 ms, INVALID_CMD for an unknown opcode or one that the channel may not issue. The
channels take turns, while no work of tiers 1 and 2 is ready. GET_INFO, GET_HEALTH and GET_LOG answer OK, the last two with the last fatal record and with the log's bytes;
SET_POWER_LIMIT sets the limit from 800 W to the SKU's maximum. A long command begins, or is refused for live contexts or a bad argument,
and the other channel's command is then refused BUSY. An in-field test begins with replacement by recency (R164). Layouts and details that the manual does not give are open. -/
def Obligations.MailboxCommands : Prop :=
  ∀ (s : State),
    let st := reg s 1 0x88
    let ovr := bits st 18 18 * 2 ^ 18
    let answers := fun (t : State) (chan seq status detail : Nat) =>
      (chan = 0 → reg t 1 0x88 = status + detail % 256 * 2 ^ 8 + 2 ^ 17 + ovr ∧ reg t 1 0x94 = seq % 2 ^ 64 ∧ bit (reg t 1 0x10) 0 = true) ∧
      (chan = 1 → ∃ retry data, t.out = s.out ++ [.bmc (toLE 1 status ++ toLE 1 detail ++ toLE 2 seq ++ toLE 4 retry ++ data)])
    let saved := fun (t : State) => Touches [.free, .regs, .rm, .out] s t
    (∀ fn, pagesUp s = true → reaches s fn 1 = true →
      let c := reg s 1 0x80
      let op := c % 65536
      let args := (upTo 0 256).flatMap (fun i => toLE 4 (reg s 1 (0x400 + 4 * i)))
      (bit st 16 = true → ∃ t, exec (.mailboxGo fn) s = .next t ∧ Touches [.regs] s t ∧ reg t 1 0x88 % 2 ^ 32 = (st ||| 2 ^ 18) % 2 ^ 32) ∧
      (bit st 16 = false → st < 2 ^ 32 → s.rm.up = false → ∃ t, exec (.mailboxGo fn) s = .next t ∧ Touches [.regs, .rm] s t ∧
        reg t 1 0x88 = st ||| 2 ^ 16 ∧ t.rm = { s.rm with cmd0 := some (op, c / 65536, args) }) ∧
      (bit st 16 = false → s.rm.up = true →
        (∀ why, mbxRefusal s 0 op = some why → ∃ t, exec (.mailboxGo fn) s = .next t ∧ saved t ∧ t.rm = s.rm ∧ answers t 0 (c / 65536) why.1 why.2) ∧
        (mbxRefusal s 0 op = none → s.pow.power = .active → s.pow.psState = 0 → ∃ t, exec (.mailboxGo fn) s = .next t ∧ Touches [.regs, .rm] s t ∧
          bit (reg t 1 0x88) 16 = true ∧ t.rm = { s.rm with cmd0 := some (op, c / 65536, args) }))) ∧
    (∀ op seq args, let i : Instr := .mctpRequest op seq args
      (pagesUp s = false ∨ s.rm.cmd1 ≠ none → exec i s = .next s) ∧
      (pagesUp s = true → s.rm.cmd1 = none → op < 65536 → seq < 65536 →
        (s.rm.up = false → exec i s = .next { s with rm := { s.rm with cmd1 := some (op, seq, args) } }) ∧
        (s.rm.up = true → (∀ why, mbxRefusal s 1 op = some why → ∃ t, exec i s = .next t ∧ Touches [.free, .out] s t ∧ answers t 1 seq why.1 why.2) ∧
          (mbxRefusal s 1 op = none → s.pow.power = .active → s.pow.psState = 0 →
            exec i s = .next { s with rm := { s.rm with cmd1 := some (op, seq, args) } })))) ∧
    (∀ chan op, let r := mbxRefusal s chan op
      (s.rm.long ≠ none → r = some (0xD, 1)) ∧
      (s.rm.long = none → overloaded s = true → r = some (0xD, 2)) ∧
      (s.rm.long = none → overloaded s = false → op ∉ [1, 2, 3, 4, 0x10, 0x11, 0x12, 0x13, 0x14] → r = some (0xC, 1)) ∧
      (s.rm.long = none → overloaded s = false → chan = 1 → op ∈ [0x10, 0x11, 0x13, 0x14] → r = some (0xC, 2)) ∧
      (s.rm.long = none → overloaded s = false → chan = 0 → s.pow.power = .active → s.pow.svc ≠ 3 → op ∈ [0x11, 0x12, 0x13, 0x14] → r = some (0xD, 1)) ∧
      (s.rm.long = none → overloaded s = false → op ∈ [1, 2, 3, 4] ∨ (chan = 0 ∧ op = 0x10) → r = none)) ∧
    (∀ chan seq args,
      let turn := fun op => mbxTurn s chan op = some (seq, args)
      let free := fun (t : State) => mbxCmd t chan = none ∧ t.rm.lastChan = chan
      (turn 1 → ∃ t, exec (.getInfo chan) s = .next t ∧ saved t ∧ free t ∧ answers t chan seq 0 0) ∧
      (turn 2 → ∃ t, exec (.getHealth chan) s = .next t ∧ saved t ∧ free t ∧ answers t chan seq 0 0 ∧
        (chan = 0 → ∀ i < 6, reg t 1 (0x800 + 40 + 4 * i) = leAt (s.rm.lastFatal ++ List.replicate 24 0) (4 * i) 4)) ∧
      (turn 3 → ∃ t, exec (.getLog chan) s = .next t ∧ saved t ∧ free t ∧ answers t chan seq 0 0 ∧ t.rm.log = s.rm.log ∧
        (chan = 0 → ∀ i < 512, leAt args 0 4 + 4 * i + 4 ≤ s.rm.log.length → reg t 1 (0x800 + 4 * i) = leAt s.rm.log (leAt args 0 4 + 4 * i) 4)) ∧
      (turn 4 → let w := leAt args 0 2
        (800 ≤ w → w ≤ s.sku.maxPower → ∃ t, exec (.setPowerLimit chan) s = .next t ∧ Touches [.free, .regs, .rm, .pow, .out] s t ∧ free t ∧
          answers t chan seq 0 0 ∧ limitW t = w) ∧
        (w < 800 ∨ s.sku.maxPower < w → ∃ t, exec (.setPowerLimit chan) s = .next t ∧ saved t ∧ free t ∧ answers t chan seq 0xC 4)) ∧
      (mbxTurn s chan 1 = none → exec (.getInfo chan) s = .next s) ∧ (mbxTurn s chan 2 = none → exec (.getHealth chan) s = .next s) ∧
      (mbxTurn s chan 3 = none → exec (.getLog chan) s = .next s) ∧ (mbxTurn s chan 4 = none → exec (.setPowerLimit chan) s = .next s)) ∧
    (∀ chan op seq args, mbxTurn s chan op = some (seq, args) ↔
      mbxCmd s chan = some (op, seq, args) ∧ chan < 2 ∧ s.rm.up = true ∧ tierHeld s = false ∧ s.rm.long = none ∧ pagesUp s = true ∧
        (mbxCmd s (1 - chan) = none ∨ s.rm.lastChan ≠ chan)) ∧
    (∀ chan seq args image plan,
      let begins := fun (i : Instr) (op : Nat) (im : Image) (pl : Option Plan) (more : State → Prop) =>
        mbxTurn s chan op = some (seq, args) → mbxCmd s (1 - chan) = none → ∃ t, exec i s = .next t ∧ mbxCmd t chan = none ∧ more t ∧
          t.rm.long = some { opcode := op, chan := chan, seq := seq, args := args, prog := 0, image := im, plan := pl }
      let refused := fun (i : Instr) (op d : Nat) =>
        mbxTurn s chan op = some (seq, args) → ∃ t, exec i s = .next t ∧ saved t ∧ mbxCmd t chan = none ∧ t.rm.long = none ∧ answers t chan seq 0xC d
      let n := testCore args
      (chan = 0 → begins (.loadPlan plan) 0x10 Image.none plan (fun t => Touches [.rm] s t)) ∧
      (chan = 0 → begins (.fwUpdate image) 0x11 image none (fun t => Touches [.rm] s t ∧
        (if s.rm.slot = 0 then t.rm.imgB = Image.none ∧ t.rm.imgA = s.rm.imgA else t.rm.imgA = Image.none ∧ t.rm.imgB = s.rm.imgB))) ∧
      (anyCtx s = false → begins (.secureErase chan) 0x12 Image.none none (fun t => Touches [.rm] s t)) ∧
      (anyCtx s = true → refused (.secureErase chan) 0x12 3) ∧
      (n = 0xFFFF → anyCtx s = true → refused (.selfTest chan) 0x13 3) ∧
      (n ≠ 0xFFFF → s.sku.core n = false → refused (.selfTest chan) 0x13 4) ∧
      (n = 0xFFFF → anyCtx s = false → begins (.selfTest chan) 0x13 Image.none none (fun t => Touches [.rm, .regs, .mem, .cores, .dbg] s t ∧
        cacheRandom t = false)) ∧
      (n ≠ 0xFFFF → s.sku.core n = true → begins (.selfTest chan) 0x13 Image.none none (fun t => Touches [.rm, .regs, .mem, .cores, .dbg] s t ∧
        cacheRandom t = false ∧ blkState t (pgCore n) = 7)) ∧
      (leAt args 0 4 < 8 → partLive s (leAt args 0 4) = true → refused (.scrubPartition chan) 0x14 3) ∧
      (leAt args 0 4 < 8 → partLive s (leAt args 0 4) = false → begins (.scrubPartition chan) 0x14 Image.none none
        (fun t => Touches [.rm, .mem] s t ∧ hasScrub t 1 (leAt args 0 4) 2 = true)) ∧
      (8 ≤ leAt args 0 4 → mbxTurn s chan 0x14 = some (seq, args) → ∃ t, exec (.scrubPartition chan) s = .next t ∧ t.rm.long = none ∧ mbxCmd t chan = none ∧
        ∃ d < 256, answers t chan seq 0xC d) ∧
      (mbxTurn s 0 0x10 = none → exec (.loadPlan plan) s = .next s) ∧ (mbxTurn s 0 0x11 = none → exec (.fwUpdate image) s = .next s) ∧
      (mbxTurn s chan 0x12 = none → exec (.secureErase chan) s = .next s) ∧ (mbxTurn s chan 0x13 = none → exec (.selfTest chan) s = .next s) ∧
      (mbxTurn s chan 0x14 = none → exec (.scrubPartition chan) s = .next s) ∧
      (chan = 0 → mbxTurn s 0 0x10 = some (seq, args) → ∀ o q a, s.rm.cmd1 = some (o, q, a) → ∃ t, exec (.loadPlan plan) s = .next t ∧ t.rm.cmd1 = none ∧
        t.rm.long ≠ none ∧ answers t 1 q 0xD 1))

/-- Ends of long mailbox operations (R244, R263, R264, R318, R320, R366, R368, R369, R410 to R412). The result is posted on its channel and no
operation runs. A plan that fits is stored in flash and is in force at once, or waits for Tp; one that would renumber a chip with contexts ends
INVALID_CMD, 3. An image that verifies replaces the one that does not run; another leaves that one invalid. An erasure leaves zeros in
device memory below the reserved range, no plan and an empty log. A core's test ends READY, or FAILED with the failing part. A memory test and
a partition's scrub leave zeros. Nothing ends while the firmware is down, while work of tier 1 or 2
is ready or while a tested core still holds a team. -/
def Obligations.LongOperations : Prop :=
  ∀ (fail : Option Nat) (found : List Nat) (s : State) (l : LongOp),
    let i : Instr := .longOperationComplete fail found
    let ovr := bits (reg s 1 0x88) 18 18 * 2 ^ 18
    let posted := fun (t : State) (status detail : Nat) =>
      (l.chan = 0 → reg t 1 0x88 = status + detail % 256 * 2 ^ 8 + 2 ^ 17 + ovr ∧ reg t 1 0x94 = l.seq % 2 ^ 64 ∧ bit (reg t 1 0x10) 0 = true) ∧
      (l.chan = 1 → ∃ retry data out, t.out = out ++ [.bmc (toLE 1 status ++ toLE 1 detail ++ toLE 2 l.seq ++ toLE 4 retry ++ data)])
    let data := fun (t : State) (d : List Byte) => l.chan = 0 → ∀ k, 4 * k + 4 ≤ d.length → reg t 1 (0x800 + 4 * k) = leAt d (4 * k) 4
    let ends := fun (f : State → Prop) => ∃ t, exec i s = .next t ∧ t.rm.long = none ∧ f t
    let zero := fun (t : State) (p : Nat → Prop) => ∀ a, p a → peek t a 1 = [0]
    let ready := s.rm.long = some l ∧ s.rm.up = true ∧ tierHeld s = false ∧ pagesUp s = true
    let n := testCore l.args
    (s.rm.long = none ∨ s.rm.up = false ∨ tierHeld s = true ∨ pagesUp s = false → exec i s = .next s) ∧
    (ready →
      (l.opcode = 0x10 → l.chan = 0 →
        (l.plan = none → ends (fun t => Touches [.free, .rm, .regs, .out] s t ∧ ∃ d < 256, posted t 0xC d)) ∧
        (∀ p, l.plan = some p →
          (planFits s p = false → ends (fun t => Touches [.free, .rm, .regs, .out] s t ∧ ∃ d < 256, posted t 0xC d)) ∧
          (planFits s p = true → chipNo s ≠ 0xFFFF → p.chip ≠ chipNo s → anyCtx s = true →
            ends (fun t => Touches [.free, .rm, .regs, .out] s t ∧ posted t 0xC 3)) ∧
          (planFits s p = true → chipNo s = 0xFFFF ∨ p.chip = chipNo s ∨ anyCtx s = false →
            ends (fun t => posted t 0 0 ∧ t.fab.stored = p ∧ (p.tp ≤ s.time.ft → t.fab.plan = p ∧ t.fab.pending = none) ∧
              (s.time.ft < p.tp → (t.fab.plan = p ∧ t.fab.pending = none) ∨ (t.fab.plan = s.fab.plan ∧ t.fab.pending = some (p.tp, p))) ∧
              (s.time.ft < p.tp → p.chip ≠ s.fab.plan.chip → t.fab.plan = s.fab.plan))))) ∧
      (l.opcode = 0x11 →
        let x := l.image
        let d := if x.valid = false ∨ x.sigOk = false ∨ x.secOk = false then 4 else if x.svn < s.rm.fused ∨ 64 < x.svn then 5
          else if 127 * 2 ^ 20 < x.len ∨ 6 * 2 ^ 20 < x.rmLen then 6 else 0
        let runs := fun (r : Rm) => if s.rm.slot = 0 then r.imgA else r.imgB
        let spare := fun (r : Rm) => if s.rm.slot = 0 then r.imgB else r.imgA
        ends (fun t => Touches [.free, .rm, .regs, .out] s t ∧ runs t.rm = runs s.rm ∧ spare t.rm = (if d = 0 then x else Image.none) ∧
          (l.chan = 0 → posted t (if d = 0 then 0 else 0xC) d))) ∧
      (l.opcode = 0x12 → ends (fun t => posted t 0 0 ∧ t.rm.log = [] ∧ t.rm.lastFatal = [] ∧ t.fab.stored = Plan.none ∧ chipNo t = 0xFFFF ∧
        zero t (fun a => a < s.sku.usable) ∧ (∀ a, s.sku.usable ≤ a → SMap.get 0 t.mem.hbm a = SMap.get 0 s.mem.hbm a) ∧
        ∀ c g k r, ((grp t c g).v k r = 0 ∧ (grp t c g).u r = 0 ∧ SMap.get 0 (core t c).tmem k = 0))) ∧
      (l.opcode = 0x13 → n ≠ 0xFFFF → coreOut s n = false → exec i s = .next s) ∧
      (l.opcode = 0x13 → n < 144 → coreOut s n = true →
        (fail = none → ends (fun t => posted t 0 0 ∧ blkState t (pgCore n) = 3 ∧ (core t n).l1 = [] ∧ cacheRandom t = true)) ∧
        (∀ k, fail = some k → 1 ≤ k → k ≤ 7 → ends (fun t => posted t 0 0 ∧ blkState t (pgCore n) = 6 ∧ (core t n).l1 = [] ∧
          ∀ x ∈ s.box.saved, x.core = n → (ctx t x.team.ctx).st ≠ 1))) ∧
      (l.opcode = 0x13 → n = 0xFFFF → Memory.wf s.mem = true → Memory.sound s.mem → ends (fun t => posted t 0 0 ∧ zero t (fun a => a < s.sku.usable) ∧ cacheRandom t = true ∧
        data t (toLE 8 (!found.isEmpty).toNat ++ toLE 8 found.length ++ (found.take 254).flatMap (toLE 8)))) ∧
      (l.opcode = 0x14 → Memory.wf s.mem = true → Memory.sound s.mem → ends (fun t => posted t 0 0 ∧ hasScrub t 1 (leAt l.args 0 4) 2 = false ∧
        hasScrub t 1 (leAt l.args 0 4) 3 = false ∧ zero t (fun a => a / 2 ^ 30 ∈ carveOf s (leAt l.args 0 4)))))

/-- Management in band and on the SMBus (R354 to R356, R364 to R366, R370 to R373, R420, R421). An expired watchdog restarts the Ringmaster and is
chip-fatal a second time within 600 s; after the restart, which verifies the image again, a held command ends BUSY. Telemetry counts its
heartbeat, and keeps its sample, or counts it dropped while work of tiers 1 to 3 is ready; the progress of a long operation never falls. While the
firmware serves, a sensor answers its last sample and age, slot 0 the certificate chain that ends with the alias certificate, a measurement its
index and digest signed with the alias key, other requests an answer whose bytes are open; an image sent over PLDM becomes an update. SUBMIT grants
the scope of a certificate that the security block accepts and takes a new nonce whatever it finds; RELOCK takes the scope back unless a debug
context lives. An Alert Response answers with the strapped address and releases ALERT# where it wins. -/
def Obligations.ManagementFirmware : Prop :=
  (∃ rom : Digest, ∀ s, bmcUp s = true → ∃ t more, exec (.getMeasurements 1) s = .next t ∧ Touches [.free, .out] s t ∧
    t.out = s.out ++ [.signed s.rm.devKey (toLE 1 1 ++ toLE 32 rom.toNat ++ more)]) ∧
  ∀ (s : State),
    let r := s.rm
    let up := r.up = true ∧ pagesUp s = true
    let replies := fun (i : Instr) (d : List Byte) => ∃ t more, exec i s = .next t ∧ Touches [.free, .out] s t ∧ t.out = s.out ++ [.smbus (d ++ more)]
    let signs := fun (i : Instr) (d : List Byte) => ∃ t more, exec i s = .next t ∧ Touches [.free, .out] s t ∧
      t.out = s.out ++ [.signed r.devKey (d ++ more)]
    (¬up → exec .ringmasterWatchdog s = .next s ∧ (∀ tier l, exec (.telemetrySample tier l) s = .next s)) ∧
    (up → r.long = none →
      let again := match r.firstDog with | some t => decide (s.time.ft < t + 600 * 10 ^ 9) | none => false
      ∃ t, exec .ringmasterWatchdog s = .next t ∧ t.rm.up = false ∧ t.rm.restarts = min 255 (r.restarts + 1) ∧
        SMap.get false t.regs.stale 2 = true ∧
        (again = false → Touches [.rm, .regs] s t ∧ t.rm.firstDog = some s.time.ft) ∧
        (again = true → t.dbg.fatal = true ∧ (s.dbg.fatal = false → t.dbg.fcode = 9 ∧ t.dbg.ftype = 0x11 ∧ t.pow.svc = 5))) ∧
    (∀ l, up → r.long = some l → ∃ t, exec .ringmasterWatchdog s = .next t ∧ t.rm.up = false ∧ t.rm.long = none ∧
      (l.opcode ≠ 0x11 ∨ l.chan ≠ 1 → mbxCmd t l.chan = some (l.opcode, l.seq, l.args)) ∧ (l.opcode = 0x12 → t.rm.eraseDue = true)) ∧
    let now := imageGood s (r.slot % 2)
    let other := imageGood s (1 - r.slot % 2)
    (r.up = true ∨ pagesUp s = false ∨ (now = false ∧ other = false) → exec .ringmasterRestartComplete s = .next s) ∧
    (r.up = false → pagesUp s = true → now = true ∨ other = true → ∃ t, exec .ringmasterRestartComplete s = .next t ∧ t.rm.up = true ∧
      (now = true → t.rm.slot = r.slot ∧ t.rm.devKey = r.devKey) ∧
      (now = false → t.rm.slot = 1 - r.slot % 2 ∧ t.rm.fallback = true ∧ t.rm.devKey = some (.derived r.uds (imageNow t).rmDigest)) ∧ t.rm.cmd0 = none ∧ t.rm.cmd1 = none ∧
      (∀ o q a, r.cmd0 = some (o, q, a) → reg t 1 0x88 = 0xD + 2 * 2 ^ 8 + 2 ^ 17 + bits (reg s 1 0x88) 18 18 * 2 ^ 18 ∧ reg t 1 0x94 = q % 2 ^ 64) ∧
      (∀ o q a, r.cmd1 = some (o, q, a) → Out.bmc (toLE 1 0xD ++ toLE 1 2 ++ toLE 2 q ++ toLE 4 10000) ∈ t.out)) ∧
    (∀ tier l, up → ∃ t, exec (.telemetrySample tier l) s = .next t ∧ Touches [.rm, .free] s t ∧ t.rm.hb = (r.hb + 1) % 2 ^ 32 ∧
      t.rm.tier = tier ∧ t.rm.tierSince = (if tierHeld s then r.tierSince else s.time.ft) ∧
      (tier = 0 ∨ tier = 4 → t.rm.tdrop = r.tdrop ∧ t.rm.sampleAt = s.time.ft ∧ ∀ k < l.length, SMap.get 0 t.rm.sensors k = nthD 0 l k) ∧
      (tier ≠ 0 → tier ≠ 4 → t.rm.tdrop = (r.tdrop + 1) % 2 ^ 64 ∧ t.rm.sensors = r.sensors ∧ t.rm.sampleAt = r.sampleAt) ∧
      (r.long = none → t.rm.long = none) ∧
      ∀ x, r.long = some x → ∃ p, t.rm.long = some { x with prog := p } ∧ x.prog ≤ p ∧ (x.prog ≤ 100 → p ≤ 100)) ∧
    (∀ code eid k b, let plain : List Instr := [.getVersion b, .getCapabilities b, .negotiateAlgorithms b, .getDigests b]
      (bmcUp s = false → ∀ i ∈ plain ++ [.mctpControl code eid, .pldmGetSensor k, .getCertificate b, .challenge b, .getMeasurements k],
        exec i s = .next s) ∧
      (bmcUp s = true → (∀ i ∈ plain, replies i []) ∧
        (∃ t, exec (.mctpControl code eid) s = .next t ∧ Touches [.free, .rm, .out] s t ∧ t.rm = { r with eid := if code = 1 then eid % 256 else r.eid }) ∧
        (k < 3 + (1 + s.sku.dies.length) + s.sku.stacks + 1 →
          replies (.pldmGetSensor k) (toLE 8 (SMap.get 0 r.sensors k) ++ toLE 8 ((s.time.ft - r.sampleAt) / 10 ^ 6))) ∧
        (3 + (1 + s.sku.dies.length) + s.sku.stacks + 1 ≤ k → replies (.pldmGetSensor k) []) ∧
        (spdmSlot b = 0 → exec (.getCertificate b) s = .next { s with out := s.out ++ [.certChain (r.certs ++ r.devCert.toList)] }) ∧
        (spdmSlot b ≠ 0 → replies (.getCertificate b) [] ∧ replies (.challenge b) []) ∧
        (spdmSlot b = 0 → signs (.challenge b) []) ∧
        (k ∈ [2, 3, 4, 6] → signs (.getMeasurements k) (toLE 1 k ++ toLE 32 (SMap.get 0 r.meas k).toNat)) ∧
        (k = 5 → signs (.getMeasurements k) (toLE 1 5 ++ toLE 32 s.fab.plan.digest.toNat)) ∧
        (k = 0 ∨ 6 < k → signs (.getMeasurements k) []))) ∧
    (∀ x, let i : Instr := .pldmFirmwareUpdate x
      (bmcUp s = false → bootHeld s = false → exec i s = .next s) ∧
      (bmcUp s = true → r.long ≠ none → exec i s = .next s) ∧
      (bmcUp s = true → r.long = none → ∃ t, exec i s = .next t ∧ Touches [.rm] s t ∧
        t.rm.long = some { opcode := 0x11, chan := 1, seq := 0, args := [], prog := 0, image := x, plan := none } ∧
        (if r.slot = 0 then t.rm.imgB = Image.none ∧ t.rm.imgA = r.imgA else t.rm.imgA = Image.none ∧ t.rm.imgB = r.imgB)) ∧
      (bmcUp s = false → bootHeld s = true → ∃ t, exec i s = .next t ∧ Touches [.free, .rm, .out] s t ∧
        (r.verified = false → t.rm.imgA = (if imageDetail s x = 0 then x else Image.none) ∧ t.rm.imgB = r.imgB))) ∧
    (∀ fn sig rev, let b := certBytes s
      let code := if leAt b 0 4 ≠ 1 ∨ 8 ≤ leAt b 4 4 ∨ ¬(∀ k ∈ upTo 0 36, nthD 0 b (0x1C + k) = 0) ∨ sig = false then 2
        else if rev = true ∨ leAt b 0x18 4 < r.genFuse then 5 else if leAt b 8 8 ≠ r.serial.toNat then 3 else if leAt b 16 8 ≠ r.nonce.toNat then 4 else 1
      (pagesUp s = true → reaches s fn 3 = false → ∃ t, exec (.submit fn sig rev) s = .next t ∧ Touches [.regs, .out] s t ∧ bit (reg t 6 0x10) 2 = true) ∧
      (pagesUp s = true → reaches s fn 3 = true → ∃ t, exec (.submit fn sig rev) s = .next t ∧ Touches [.free, .rm] s t ∧ t.rm.result = code ∧
        t.rm.nonce = Config.nonce s.free ∧ t.rm.scope = (if code = 1 then leAt b 4 4 % 8 else r.scope) ∧ (code ≠ 1 → t.rm.meas = r.meas))) ∧
    (∀ fn, let held := ∃ x ∈ s.box.ctxs, x.2.st ≠ 0 ∧ x.2.debug = true
      pagesUp s = true → reaches s fn 3 = true →
        (held → exec (.relock fn) s = .next { s with rm := { r with result := 6 } }) ∧
        (¬held → ∃ t, exec (.relock fn) s = .next t ∧ Touches [.free, .rm, .dbg, .out] s t ∧ t.rm.scope = 0 ∧ t.dbg.raised = s.dbg.raised ∧
          (s.dbg.dumping = true → t.dbg.dumping = false ∧ t.dbg.dumpErr = 3) ∧ (s.dbg.dumping = false → t.dbg = s.dbg))) ∧
    (∀ won, let answer := [Out.smbus [BitVec.ofNat 8 (0x4C + s.pow.straps % 4)]]
      (s.pow.power = .off ∨ s.pow.alertN = false → exec (.smbusAlertResponse won) s = .next s) ∧
      (s.pow.power ≠ .off → s.pow.alertN = true → ∃ t, exec (.smbusAlertResponse won) s = .next t ∧ Touches [.pow, .out] s t ∧
        t.out = s.out ++ answer ∧ t.pow.alertN = !won ∧ (won = false → t.pow = s.pow)))

/-- Protection in hardware and the power limiter (R357, R358, R362, R363, R374 to R377, R421). A junction reading of 105 °C or more lowers the
clock's ceiling by 25 MHz, one of 102 °C or less raises it, 115 °C trips; the other comparators set and release their ceilings; each cause
that appears sets its bit in PWRC BLK_ERR, and the clock is the lowest ceiling, from 800 to 2,100 MHz. A trip, or the loss of 52 V, takes the module to
Dormant, where device memory is lost and the island keeps the BMC's limit; the latch clears with PWR_EN deasserted and the inlet at 46 °C or
less. The limiter lowers its ceiling above the limit and raises it after 1 ms more than 50 W below. -/
def Obligations.ProtectionResults : Prop :=
  ∀ (s : State),
    let p := s.pow
    let on := p.power = .active ∨ p.power = .idle
    let kept := fun (q : Pow) (t : State) => t.pow = { q with alertN := t.pow.alertN, alertAck := t.pow.alertAck }
    let limits := fun (i : Instr) (q : Pow) => ∃ t, exec i s = .next t ∧ Touches [.regs, .pow, .out] s t ∧ kept q t ∧
      (∀ k < 7, (bit (causeBits t) k = true → bit (causeBits s) k = false → bit (reg t 4 0x10) k = true)) ∧
      (∀ k, k ≠ rkey 4 0x10 → regv t k = regv s k)
    let dormant := fun (t : State) => t.pow.power = .dormant ∧ t.pow.svc = 0 ∧ t.mem.hbm = [] ∧ t.cores = [] ∧ t.time.ft = s.time.ft ∧ t.time.st = 0 ∧
      t.pow.bmcLimit = p.bmcLimit ∧ t.fab.stored = s.fab.stored ∧ t.rm.fused = s.rm.fused ∧ reg t 4 0xA8 = reg s 4 0xA8 ∧
      ctr t (rkey 4 0x90) = ctr s (rkey 4 0x90) ∧ t.pow.trip = (t.pow.trip || p.trip)
    let sleeps := fun (i : Instr) (f : State → Prop) => ∃ t, exec i s = .next t ∧ dormant t ∧ f t
    let trips := fun (i : Instr) => sleeps i (fun t => t.pow.trip = true ∧ t.pow.tripped = true)
    let lost := fun (t : State) => t.pow.in52 = false ∧ t.pow.uvlo = true
    (clockMhz s = max 800 (min 2100 (min (min p.jctCeil p.limCeil) (min (capMhz s) (min (if p.curCeil = true ∨ p.inlCeil = true then 1200 else 2100)
      (if p.uvCeil = true then 800 else 2100)))))) ∧
    (¬on → (∀ n, exec (.junctionComparator n) s = .next s) ∧
      ∀ i ∈ ([.overcurrent, .overcurrentRelease, .undervoltage, .undervoltageRelease, .thermtrip] : List Instr), exec i s = .next s) ∧
    (on →
      (∀ n, 115 ≤ n → trips (.junctionComparator n)) ∧
      (∀ n, 105 ≤ n → n < 115 → limits (.junctionComparator n) { p with hotJct := n, jctCeil := max 800 (p.jctCeil - 25) }) ∧
      (∀ n, 102 < n → n < 105 → limits (.junctionComparator n) { p with hotJct := n }) ∧
      (∀ n, n ≤ 102 → limits (.junctionComparator n) { p with hotJct := n, jctCeil := min 2100 (p.jctCeil + 25) }) ∧
      trips .thermtrip ∧
      limits .overcurrent { p with curCeil := true } ∧ limits .overcurrentRelease { p with curCeil := false } ∧
      limits .undervoltage { p with uvCeil := true } ∧ limits .undervoltageRelease { p with uvCeil := false } ∧
      (∀ n, 55 ≤ n → trips (.inletOvertemp n)) ∧
      (∀ n, 48 < n → n < 55 → limits (.inletOvertemp n) { p with inletHot := true, inletC := n, inlCeil := true }) ∧
      (∀ n, 46 < n → n ≤ 48 → limits (.inletOvertemp n) { p with inletC := n }) ∧
      (limits (.inletOvertemp 46) { p with inletHot := false, inletC := 46 }) ∧
      (∀ n, n < 46 → limits (.inletOvertemp n) { p with inletHot := false, inletC := n, inlCeil := false }) ∧
      sleeps .lossOf52v lost ∧ sleeps .pShortBreak (fun t => lost t ∧ t.pow.pShort = true) ∧
      sleeps .inputOvervoltage (fun t => lost t ∧ t.pow.overV = true)) ∧
    (¬on → exec .lossOf52v s = .next { s with pow := { p with in52 := false } } ∧
      exec .pShortBreak s = .next { s with pow := { p with in52 := false, pShort := true } } ∧
      exec .inputOvervoltage s = .next { s with pow := { p with in52 := false, overV := true } }) ∧
    (∀ n, (p.power = .off → exec (.inletOvertemp n) s = .next s) ∧
      (p.power = .dormant → p.pwrEn = false → ∃ t, exec (.inletOvertemp n) s = .next t ∧ Touches [.pow] s t ∧
        kept { p with inletC := n, inletHot := if 48 < n then true else if n ≤ 46 then false else p.inletHot } t ∧
        (48 < n → p.alertAck = 0 → t.pow.alertN = true)) ∧
      (p.power ≠ .off → p.trip = true → p.pwrEn = false → n ≤ 46 → ∃ t, exec (.thermtripRelease n) s = .next t ∧ Touches [.pow] s t ∧
        kept { p with trip := false, inletHot := false, inletC := n } t) ∧
      (p.power = .off ∨ p.trip = false ∨ p.pwrEn = true ∨ 46 < n → exec (.thermtripRelease n) s = .next s)) ∧
    (∀ mean, let i : Instr := .limiterEvaluation mean
      let lim := min s.sku.maxPower p.bmcLimit
      let sets := fun (q : Pow) => ∃ t, exec i s = .next t ∧ Touches [.regs, .ctr, .pow, .out] s t ∧ kept q t ∧
        ctr t (rkey 4 0x90) = (ctr s (rkey 4 0x90) + mean) % 2 ^ 64 ∧
        ∀ k < 7, bit (causeBits t) k = true → bit (causeBits s) k = false → bit (reg t 4 0x10) k = true
      let q := { p with inPower := mean }
      (railsGood s = false → exec i s = .next s) ∧
      (railsGood s = true →
        (lim < mean → sets { q with limCeil := max 800 (p.limCeil - 25), floor := decide (clockMhz s = 800), underNs := 0 }) ∧
        (mean ≤ lim → lim ≤ mean + 50 → sets { q with floor := false, underNs := 0 }) ∧
        (mean + 50 < lim → p.underNs + 100000 < 1000000 → sets { q with floor := false, underNs := p.underNs + 100000 }) ∧
        (mean + 50 < lim → 1000000 ≤ p.underNs + 100000 → sets { q with floor := false, underNs := 0, limCeil := min 2100 (p.limCeil + 25) })))

/-- Supplies and start-up (R164, R267, R273, R317, R320, R365 to R367, R374 to R378, R430, R435, R441). 3.3 V_AUX starts the island from its
cold state with a new nonce; its loss leaves fuses, flash and the device secret. The rails start when PWR_EN, 52 V and a cool inlet stand and no
trip is latched; PWR_EN deasserted takes them down to Dormant, FT counting on. Then: rails good to BOOT; the image with the higher sequence number
that verifies, else the other with FALLBACK, else BOOT stays; the running image's measurement and the device secret give the alias key, whose
certificate the identity key signs; the secondary part to TRAINING, where memory and ports initialise, the stored plan loads or every port reports
UNPLANNED, and a start from Dormant enters ACQUIRE; controllers read READY or FAILED, a port that trains for a second reads DARK; and when all are
done every block is enabled, and READY unless its initialisation failed, CACHE_MODE is 1, the image's SVN is fused, and SERVICE begins. A
signal that comes at another step changes nothing. -/
def Obligations.StartUp : Prop :=
  ∀ (s : State),
    let p := s.pow
    let on := p.power = .active ∨ p.power = .idle
    let may := fun (q : Pow) => q.power = .dormant ∧ q.pwrEn = true ∧ q.in52 = true ∧ q.inletHot = false ∧ q.trip = false
    let starts := fun (q : Pow) (t : State) => Touches [.box, .pow] s t ∧ t.pow = { q with
      power := .active, svc := 0, stage := .rails, coldNext := false, tripped := false, uvlo := false
      cause := (if q.coldNext = true then 0 else 1) + 32 * q.tripped.toNat + 64 * q.uvlo.toNat } ∧
      ∀ c < 4096, (ctx t c).lastLoss = if q.coldNext = true then 0 else 0xB
    let lifts := fun (i : Instr) (q : Pow) =>
      (may q → ∃ t, exec i s = .next t ∧ starts q t) ∧ (¬may q → exec i s = .next { s with pow := q })
    let at' := fun (st : Stage) (svc : Nat) => p.power = .active ∧ p.stage = st ∧ p.svc = svc
    let img := fun (k : Nat) => if k = 0 then s.rm.imgA else s.rm.imgB
    let runs := fun (k : Nat) (fb : Bool) => ∃ t, exec .bootVerified s = .next t ∧ Touches [.free, .rm, .pow] s t ∧ t.rm.slot = k ∧
      t.rm.fallback = fb ∧ t.rm.verified = true ∧ t.rm.udsLocked = true ∧ t.rm.uds = s.rm.uds ∧
      (let m := (img k).rmDigest; let pair := Key.derived s.rm.uds m
        SMap.get 0 t.rm.meas 2 = m ∧ t.rm.devKey = some pair ∧
          t.rm.devCert = some { subject := pair, signer := s.rm.wrapped.key, binds := some m }) ∧ t.pow = { p with stage := .secondary } ∧ t.rm.imgA = s.rm.imgA ∧ t.rm.imgB = s.rm.imgB
    let good := fun k => (img k).valid = true ∧ (img k).rmLen ≤ 6 * 2 ^ 20 ∧ (img k).svn ≤ 64 ∧ (img k).sigOk = true ∧ s.rm.fused ≤ (img k).svn
    let fits := fun k => (img k).valid = true ∧ (img k).rmLen ≤ 6 * 2 ^ 20 ∧ (img k).svn ≤ 64
    (∀ straps perst, let i : Instr := .auxPowerOn straps perst
      (p.power ≠ .off → exec i s = .next s) ∧
      (p.power = .off → ∃ t, exec i s = .next t ∧ t.time = Time.zero ∧ t.mem = { Mem.empty with scrubs := t.mem.scrubs } ∧ t.regs = Regs.reset ∧ t.ctr = [] ∧ t.cores = [] ∧
        t.rm.nonce = Config.nonce s.free ∧ t.rm.uds = s.rm.uds ∧ t.rm.udsLocked = false ∧ t.rm.fused = s.rm.fused ∧ t.rm.imgA = s.rm.imgA ∧ t.rm.imgB = s.rm.imgB ∧ t.rm.scope = 0 ∧
        t.fab.stored = s.fab.stored ∧ t.pow.straps = straps % 4 ∧ t.pow.perst = perst ∧ t.pow.linkMode = p.modeFlash ∧
        t.pow.bmcLimit = s.sku.maxPower ∧ t.pow.trip = false ∧
        (p.pwrEn = true ∧ p.in52 = true → t.pow.power = .active ∧ t.pow.stage = .rails ∧ t.pow.cause = 0) ∧
        (p.pwrEn = false ∨ p.in52 = false → t.pow.power = .dormant))) ∧
    (p.power = .off → exec .auxPowerLoss s = .next s) ∧
    (p.power ≠ .off → ∃ t, exec .auxPowerLoss s = .next t ∧ t.pow.power = .off ∧ t.time = Time.zero ∧ t.mem = { Mem.empty with scrubs := t.mem.scrubs } ∧ t.regs = Regs.reset ∧
      t.ctr = [] ∧ t.rm.fused = s.rm.fused ∧ t.rm.imgA = s.rm.imgA ∧ t.rm.imgB = s.rm.imgB ∧ t.fab.stored = s.fab.stored) ∧
    lifts .pwrEnAssert { p with pwrEn := true, wakeN := false } ∧
    lifts .input52vPresent { p with in52 := true, pShort := false, overV := false } ∧
    (¬on → exec .pwrEnDeassert s = .next { s with pow := { p with pwrEn := false } }) ∧
    (on → ∃ t, exec .pwrEnDeassert s = .next t ∧ t.pow.power = .dormant ∧ t.pow.pwrEn = false ∧ t.mem = { Mem.empty with scrubs := t.mem.scrubs } ∧ t.cores = [] ∧
      t.time.ft = s.time.ft ∧ t.time.st = 0 ∧ t.pow.uvlo = p.uvlo ∧ t.pow.trip = p.trip) ∧
    (at' .rails p.svc → exec .railsGood s = .next { s with pow := { p with stage := .boot, svc := 1 } }) ∧
    (¬at' .rails p.svc → exec .railsGood s = .next s) ∧
    (¬at' .boot 1 → exec .bootVerified s = .next s) ∧
    (at' .boot 1 →
      (∀ k, k < 2 → good k → (¬fits (1 - k) ∨ (img (1 - k)).seqNo < (img k).seqNo) → runs k false) ∧
      (∀ k, k < 2 → good k → ¬good (1 - k) → fits (1 - k) → (img k).seqNo < (img (1 - k)).seqNo → runs k true) ∧
      (¬good 0 → ¬good 1 → ∃ t, exec .bootVerified s = .next t ∧ Touches [.rm] s t ∧ t.rm.verified = s.rm.verified ∧ t.rm.slot = s.rm.slot)) ∧
    (¬at' .secondary 1 → exec .secondaryFirmwareLoaded s = .next s) ∧
    (at' .secondary 1 → (img s.rm.slot).secOk = false → ∃ t, exec .secondaryFirmwareLoaded s = .next t ∧ Touches [.free, .rm] s t ∧
      t.rm = { s.rm with log := t.rm.log }) ∧
    (at' .secondary 1 → (img s.rm.slot).secOk = true → ∃ t, exec .secondaryFirmwareLoaded s = .next t ∧ t.rm.up = true ∧ t.pow.svc = 2 ∧
      t.pow.stage = .service ∧ t.mem = s.mem ∧ t.time.ft = s.time.ft ∧
      (∀ h < 16, s.sku.hbmc h = true → blkState t (0x408 + 0x40 * (h / 4) + h % 4) = 2) ∧
      (∀ n < 32, s.sku.port n = true → blkState t (pgXprt n) = 2) ∧
      t.fab.plan = (if s.rm.eraseDue = true ∨ s.fab.stored.chip = 0xFFFF then s.fab.plan else s.fab.stored) ∧
      (p.cause % 16 = 1 → t.time.st = 1) ∧
      (s.fab.stored.chip = 0xFFFF → ∀ n < 32, s.sku.port n = true → (port t n).rig = 3)) ∧
    (∀ failed, let i : Instr := .hbmTrainingComplete failed
      (¬at' .service 2 ∨ p.hbmDone = true → exec i s = .next s) ∧
      (at' .service 2 → p.hbmDone = false → ∃ t, exec i s = .next t ∧ Touches [.regs, .pow] s t ∧ t.regs.val = s.regs.val ∧
        (∀ q, q ∈ t.pow.failed ↔ q + 16 ∈ failed) ∧
        (∀ h < 16, s.sku.hbmc h = true → blkState t (0x408 + 0x40 * (h / 4) + h % 4) = if h ∈ failed then 6 else 3) ∧
        t.pow.hbmDone = !(upTo 0 16).any (fun h => s.sku.hbmc h && failed.contains h))) ∧
    (¬at' .service 2 → exec .fabricTrainingTimeout s = .next s ∧ exec .serviceEntry s = .next s) ∧
    (at' .service 2 → ∃ t, exec .fabricTrainingTimeout s = .next t ∧ t.pow = { p with fabDone := true } ∧ t.mem = s.mem ∧
      ∀ n < 32, s.sku.port n = true → (port s n).lstate = 1 → (port t n).lstate = 0 ∧ (port t n).rig = 4) ∧
    (at' .service 2 → p.hbmDone = false ∨ fabricDone s = false → exec .serviceEntry s = .next s) ∧
    (at' .service 2 → p.hbmDone = true → fabricDone s = true → s.rm.eraseDue = false → ∃ t, exec .serviceEntry s = .next t ∧ t.pow.svc = 3 ∧
      t.rm.fused = max s.rm.fused (img s.rm.slot).svn ∧ bit (reg t 7 0x80) 0 = true ∧ bits (reg t 7 0x28) 2 0 = 2 + reg s 7 0x28 % 2 ∧ t.mem.hbm = s.mem.hbm ∧
      (∀ q ∈ presentPages s.sku, bit (reg t q 8) 0 = true ∧ blkState t q = if blkState s q = 6 ∨ q ∈ p.failed then 6 else 3) ∧
      ∀ n < 8, reg t (pgBoxo n) 0x30 = n ∧ reg t (pgDbug n) 0x30 = n)

/-- Idle and the wake alarm (R374, R376, R383 to R385). A request for Idle is refused with its reason while a command runs or may start, a stream or
collective is live, a long operation runs or a core is in test; else entry begins. When every access has drained, the entry ends:
caches written back and empty, no byte of memory changed, ports down, LOCKED fabric time in HOLDOVER, RESULT 1; an exit event that came
meanwhile ends Idle at once. An exit event returns to SERVICE with RESULT 5 and its reason. The alarm fires once its instant has come, after every
other event of an earlier or the same instant (assumption 121), and disarms: WAKE# in Dormant, an exit in Idle, ALARM in PWRC BLK_ERR in Active. -/
def Obligations.IdleAndAlarm : Prop :=
  ∀ (s : State),
    let p := s.pow
    let busy := (∃ x ∈ s.box.queues, queueWorks s x.2 = true) ∨ (∃ x ∈ s.streams, x.2.live = true) ∨ s.coll.live ≠ []
    let test := ∃ c < 144, s.sku.core c = true ∧ blkState s (pgCore c) = 7
    let left := fun (t : State) (why : Nat) => t.pow.power = .active ∧ t.pow.svc = 3 ∧ t.pow.psState = 0 ∧ t.pow.psResult = 5 ∧ t.pow.psWhy = why ∧
      bits (reg t 4 0x9C) 1 0 = 0 ∧ t.box.ctxs = s.box.ctxs
    (∀ fn req, let i : Instr := .idleRequest fn req
      (pagesUp s = false → exec i s = .next s) ∧
      (pagesUp s = true → reaches s fn 4 = false → ∃ t, exec i s = .next t ∧ Touches [.regs, .out] s t ∧ bit (reg t 6 0x10) 2 = true) ∧
      (pagesUp s = true → reaches s fn 4 = true →
        (2 ≤ req % 4 → exec i s = .next s) ∧
        (req % 4 = 0 → p.power = .active → p.psState ≠ 1 → ∃ t, exec i s = .next t ∧ Touches [.regs] s t ∧ bits (reg t 4 0x9C) 1 0 = 0) ∧
        (req % 4 = 0 → p.power = .active → p.psState = 1 → s.dbg.fatal = false → ∃ t, exec i s = .next t ∧ Touches [.regs, .pow] s t ∧
          t.pow = { p with exitReq := if p.exitReq = 0 then 1 else p.exitReq }) ∧
        (req % 4 = 0 → p.power = .idle → s.dbg.fatal = false → ∃ t, exec i s = .next t ∧ left t 1 ∧ t.mem = s.mem ∧ t.cores = s.cores) ∧
        (req % 4 = 1 → p.power ≠ .active ∨ p.svc ≠ 3 ∨ p.psState ≠ 0 → ∃ t, exec i s = .next t ∧ Touches [.regs] s t) ∧
        (req % 4 = 1 → p.power = .active → p.svc = 3 → p.psState = 0 →
          let answers := fun (st res : Nat) => ∃ t, exec i s = .next t ∧ Touches [.regs, .pow] s t ∧ t.pow = { p with psState := st, psResult := res } ∧
            bits (reg t 4 0x9C) 1 0 = 1
          (busy → answers 0 2) ∧ (¬busy → s.rm.long ≠ none → answers 0 3) ∧ (¬busy → s.rm.long = none → test → answers 0 4) ∧
          (¬busy → s.rm.long = none → ¬test → answers 1 p.psResult)))) ∧
    (p.power ≠ .active ∨ p.psState ≠ 1 ∨ s.dbg.fatal = true ∨ drained s = false → exec .idleEntryComplete s = .next s) ∧
    (p.power = .active → p.psState = 1 → s.dbg.fatal = false → drained s = true →
      (p.exitReq = 0 → ∃ t, exec .idleEntryComplete s = .next t ∧ t.pow = { p with power := .idle, svc := 4, psState := 2, psResult := 1 } ∧
        t.mem.l2 = [] ∧ t.mem.dir = [] ∧ (∀ c, (core t c).l1 = []) ∧ t.box.ctxs = s.box.ctxs ∧ t.time.ft = s.time.ft ∧
        (s.time.st = 2 → t.time.st = 3) ∧ (∀ n < 32, s.sku.port n = true → (port t n).lstate = 0) ∧
        (Memory.wf s.mem = true → Memory.wf t.mem = true) ∧
        (Memory.wf s.mem = true → Memory.sound s.mem → s.mem.putms = [] → s.mem.answers = [] → (∀ k ∈ s.cores, ∀ x ∈ k.2.l1, x.2.dirty = 0) →
          ∀ a, peek t a 1 = peek s a 1)) ∧
      (p.exitReq ≠ 0 → ∃ t, exec .idleEntryComplete s = .next t ∧ left t p.exitReq ∧ t.mem.l2 = [])) ∧
    (p.power = .idle → s.dbg.fatal = false →
      (∀ n < 8, ∃ t, exec (.vfFlr n) s = .next t ∧ t.pow.power = .active ∧ t.pow.svc = 3 ∧ t.pow.psResult = 5 ∧ t.pow.psWhy = 7) ∧
      (∀ fn off w len d, fn < 9 → ∃ t, exec (.bar4Access fn off w len d) s = .next t ∧ left t 3)) ∧
    (let at' := reg s 4 0xA8
     let due := at' ≠ 0 ∧ mayFire s at' 7 = true ∧ p.power ≠ .off
     (¬due → exec .ftAlarm s = .next s) ∧
     (due → p.power = .dormant → ∃ t, exec .ftAlarm s = .next t ∧ Touches [.regs, .pow] s t ∧ reg t 4 0xA8 = 0 ∧ t.pow = { p with wakeN := true }) ∧
     (due → p.power = .idle → s.dbg.fatal = false → ∃ t, exec .ftAlarm s = .next t ∧ reg t 4 0xA8 = 0 ∧ left t 6) ∧
     (due → p.power = .active → p.psState ≠ 1 → ∃ t, exec .ftAlarm s = .next t ∧ Touches [.regs, .out] s t ∧ reg t 4 0xA8 = 0 ∧
       bit (reg t 4 0x10) 8 = true))
/-- The debug unit (R392 to R403, R428). While scope bit 1 is not granted its gated registers ignore every write. A raise, by register, instant or
JTAG, puts the Curtain up with its cause and instant and notes it; one while it is up is ignored. It is quiet when nothing is in flight;
LOWER takes it down unless a dump runs or the chip is FATAL. A dump begins under a quiet Curtain where the space is enough, and ends with
DUMPDONE, or with error 2 where a write failed; its first write is the header. A snapshot latches its instant, is written at once,
and ends with SNAPDONE. The window shows the ring that is selected. Boundary scan needs only good rails; another instruction needs scope
bit 2 and is refused, as the manual gives it no effect. -/
def Obligations.DebugUnit : Prop :=
  ∀ (s : State),
    let d := s.dbg
    let raises := fun (i : Instr) (cause : Nat) => ∃ t, exec i s = .next t ∧ Touches [.regs, .dbg] s t ∧
      t.dbg = { d with raised := true, cause := cause, quiet := false, curtFt := s.time.ft, rings := t.dbg.rings } ∧
      (SMap.get [] t.dbg.rings (ringKey 14 0 0)).head? = some { ft := s.time.ft, event := 0x17, part := none, ctx := none, tag := 0, arg := cause }
    let at' := reg s 0xA 0x88
    let may := at' ≠ 0 ∧ dbgOpen s = true ∧ pagesUp s = true ∧ mayFire s at' 6 = true
    let base := fun off => reg s 0xA off / 4096 * 4096
    (∀ fn (v : W64), pagesUp s = true → reaches s fn 0xA = true →
      let gated : List Instr := [.raise fn, .lower fn, .go fn, .take fn, .carouselSelect fn v]
      (dbgOpen s = false → ∀ i ∈ gated, exec i s = .next s) ∧
      (dbgOpen s = true →
        (d.raised = false → raises (.raise fn) 1) ∧ (d.raised = true → exec (.raise fn) s = .next s) ∧
        (d.raised = true → d.dumping = false → d.fatal = false →
          exec (.lower fn) s = .next { s with dbg := { d with raised := false, quiet := false, cause := 0 } }) ∧
        (d.raised = false ∨ d.dumping = true ∨ d.fatal = true → exec (.lower fn) s = .next s) ∧
        (d.raised = true → d.quiet = true → d.dumping = false →
          (reg s 0xA 0xA8 < dumpNeed s → exec (.go fn) s = .next { s with dbg := { d with dumpErr := 1 } }) ∧
          (dumpNeed s ≤ reg s 0xA 0xA8 → exec (.go fn) s = .next { s with dbg := { d with dumping := true, dumpErr := 0 } })) ∧
        (d.raised = false ∨ d.quiet = false ∨ d.dumping = true → exec (.go fn) s = .next s) ∧
        (d.snapping = true → exec (.take fn) s = .next s) ∧
        (d.snapping = false → ∃ t, exec (.take fn) s = .next t ∧ Touches [.free, .dbg, .out] s t ∧ t.dbg = { d with snapping := true, snapFt := s.time.ft } ∧
          (linkUp s 0 = false → t.out = s.out) ∧
          (linkUp s 0 = true → ∃ body, t.out = s.out ++ [.hostWrite (base 0xC8) body false] ∧ leAt body 0 8 = s.time.ft % 2 ^ 64 ∧
            leAt body 8 2 = chipNo s % 65536)) ∧
        (let unit := (v.toNat / 2 ^ 16 % 65536, v.toNat % 65536, v.toNat / 2 ^ 32 % 4)
         ∃ t, exec (.carouselSelect fn v) s = .next t ∧ Touches [.regs, .dbg] s t ∧ reg t 0xA 0x100 = v.toNat % 2 ^ 34 ∧
          t.dbg = { d with window := if unit ∈ carUnits s.sku then SMap.get [] d.rings (ringKey unit.1 unit.2.1 unit.2.2) else [] }))) ∧
    (¬may → exec .curtainInstant s = .next s) ∧
    (may → d.raised = false → ∃ t, exec .curtainInstant s = .next t ∧ reg t 0xA 0x88 = 0) ∧ (may → d.raised = false → raises .curtainInstant 2) ∧
    (railsGood s = false ∨ scopeBit s 2 = false ∨ d.raised = true → exec .jtagCurtain s = .next s) ∧
    (railsGood s = true → scopeBit s 2 = true → d.raised = false → raises .jtagCurtain 4) ∧
    (∀ code, (railsGood s = false → exec (.jtagInstruction code) s = .next s) ∧
      (railsGood s = true → code = 0 → exec (.jtagInstruction code) s = .next { s with out := s.out ++ [.jtag 0] }) ∧
      (railsGood s = true → code ≠ 0 → scopeBit s 2 = false → exec (.jtagInstruction code) s = .next s) ∧
      (railsGood s = true → code ≠ 0 → scopeBit s 2 = true → exec (.jtagInstruction code) s = .refused .jtagUnspecified)) ∧
    (d.raised = true → inFlight s = false → exec .curtainQuiet s = .next { s with dbg := { d with quiet := true } }) ∧
    (d.raised = false ∨ inFlight s = true → exec .curtainQuiet s = .next s) ∧
    (∀ ok, (d.dumping = false → exec (.dumpComplete ok) s = .next s) ∧
      (d.dumping = true → ok = true → linkUp s 0 = true → ∃ t head rest, exec (.dumpComplete ok) s = .next t ∧ Touches [.free, .regs, .dbg, .out] s t ∧
        t.dbg = { d with dumping := false } ∧ bit (reg t 0xA 0x10) 3 = true ∧ t.out = s.out ++ .hostWrite (base 0xA0) head false :: rest ∧
        head.length = 4096 ∧ leAt head 0 4 = 0x10000 ∧ leAt head 4 4 = chipNo s % 2 ^ 32 ∧ leAt head 8 8 = d.curtFt % 2 ^ 64) ∧
      (d.dumping = true → ok = false ∨ linkUp s 0 = false → ∃ t, exec (.dumpComplete ok) s = .next t ∧ Touches [.free, .dbg, .out] s t ∧
        t.dbg = { d with dumping := false, dumpErr := 2 }) ∧
      (d.snapping = false → exec (.snapshotComplete ok) s = .next s) ∧
      (d.snapping = true → ∃ t, exec (.snapshotComplete ok) s = .next t ∧ Touches [.regs, .dbg, .out] s t ∧ t.dbg = { d with snapping := false } ∧
        (ok = true → bit (reg t 0xA 0x10) 2 = true) ∧ (ok = false → t.regs = s.regs)))

/-- A step with a waiting command is that command's effect on the state with the queue's rest. -/
def Obligations.StepRunsFront : Prop :=
  ∀ (c : Instr) (rest : List Instr) (s : State), s.pending = c :: rest → step s = exec c { s with pending := rest }
/-- Every command completes in every state and leaves the queue and the SKU alone. The one exception is a JTAG instruction other than boundary
scan and CURTAIN under debug scope bit 2, which the manual permits and gives no effect (R428). -/
def Obligations.NothingStops : Prop :=
  ∀ (c : Instr) (s : State),
    (∃ t, exec c s = .next t ∧ t.pending = s.pending ∧ t.sku = s.sku) ∨
    (∃ code, c = .jtagInstruction code ∧ code ≠ 0 ∧ scopeBit s 2 = true ∧ railsGood s = true ∧ exec c s = .refused .jtagUnspecified)
/-- A step on an empty queue is one nanosecond (assumption 3). In Active and Idle fabric time counts one ft on the oscillator, and one
more or none where a slew is due, once in 5,000 ns; in Dormant it counts on the crystal; Off it stands still. Outside Active and Idle nothing
but the clocks changes; under the Curtain nothing else does either, and the clocks that count work stand still (R267, R268, R273, R394, R395). -/
def Obligations.TimePasses : Prop :=
  ∀ (s : State), s.pending = [] →
    let x := s.time
    let then' := fun (f : State → Prop) => ∃ t, step s = .next t ∧ t.pending = [] ∧ f t
    let due := 4999 ≤ x.phase ∧ x.slew ≠ 0
    let ft := if ¬due then x.ft + 1 else if 0 < x.slew then x.ft + 2 else x.ft
    (s.pow.power = .off → then' (fun t => Touches [.time] s t ∧ t.time.ft = x.ft)) ∧
    (s.pow.power = .dormant → then' (fun t => Touches [.time] s t ∧
      (x.xtal + 64 < 1953125 → t.time.ft = x.ft ∧ t.time.xtal = x.xtal + 64) ∧
      (1953125 ≤ x.xtal + 64 → t.time.xtal = x.xtal + 64 - 1953125 ∧
        (t.time.ft = (x.ft + 30517) % 2 ^ 64 ∨ t.time.ft = (x.ft + 30518) % 2 ^ 64)))) ∧
    (s.dbg.raised = true → then' (fun t => Touches [.time] s t ∧ t.time.nsRun = x.nsRun ∧ t.time.ccRun = x.ccRun)) ∧
    (s.pow.power = .active ∨ s.pow.power = .idle → s.fab.reorder = [] → then' (fun t => t.time.ft = ft % 2 ^ 64 ∧
      (¬due → t.time.slew = x.slew) ∧ (due → t.time.slew.natAbs + 1 = x.slew.natAbs) ∧
      (s.dbg.raised = false → t.time.nsRun = x.nsRun + 1) ∧
      (s.pow.power = .active → t.time.cc = (x.cc + (x.ccAcc + clockMhz s) / 1000) % 2 ^ 64 ∧ t.time.ccAcc = (x.ccAcc + clockMhz s) % 1000)))
/-- While LOCKED, fabric time never decreases and is never stepped: from one step to the next it advances by at most 2, whatever the step does;
only the loss of 3.3 V_AUX ends that (R271, R379). -/
def Obligations.LockedTimeNeverSteps : Prop :=
  ∀ (s t : State), step s = .next t → s.time.st = 2 → s.time.ft + 2 < 2 ^ 64 → s.pow.power ≠ .dormant →
    (s.time.ft ≤ t.time.ft ∧ t.time.ft ≤ s.time.ft + 2) ∨ (t.time.ft = 0 ∧ t.time.st = 0)
/-- The module after a cold reset (R267, R302, R304, R323, R374, R379): fabric time 0 in FREE, no work, every register at its reset value with its shadow
the same, BLK_ID naming each page's block and instance, every context FREE, and device memory in its canonical form with nothing cached. -/
def Obligations.ResetState : Prop :=
  let s := State.reset
  s.pending = [] ∧ s.time.ft = 0 ∧ s.time.st = 0 ∧ s.time.epoch = 0 ∧ s.pow.power = .dormant ∧ s.dbg.raised = false ∧ s.dbg.fatal = false ∧
  Memory.wf s.mem = true ∧ Memory.sound s.mem ∧ (∀ c g, (grp s c g).occ = false) ∧ (∀ c, (ctx s c).st = 0) ∧ (∀ q, (queue s q).bound = false) ∧
  (∀ k, (fence s k).owner = none) ∧ (∀ k, (stream s k).live = false) ∧ (∀ n, (port s n).lstate = 0) ∧ s.coll.live = [] ∧ s.rm.scope = 0 ∧
  (∀ page off, reg s page off = resetOf s.sku (rkey page off) ∧ shadow s page off = reg s page off) ∧
  ∀ page ∈ presentPages s.sku, ∀ b n, blkAt s.sku page = some (b, n) → reg s page 0 = b.code * 2 ^ 16 + n ∧ blkState s page = 1
/-- Instruction words (R63 to R66, R76): the word of an instruction, decoded at its issue, is that instruction, whatever its operand fields and
whichever word follows a base form; and a word that decodes to an instruction of a class and minor opcode spells that class and minor. -/
def Obligations.ThreadWordRoundTrip : Prop :=
  (∀ (i : Instr) (maj min : Nat) (x : Issue) (w : W64) (imm : Option W64) (next : W64), opOf i = some (maj, min, x) → encodeIns i = some (w, imm) →
    decodeIns x.core x.gslot x.pc w (imm.getD next) = some i) ∧
  (∀ (core gslot : Nat) (pc w imm : W64) (i : Instr), decodeIns core gslot pc w imm = some i →
    ∃ x, opOf i = some ((majorOf w).toNat % 128, (minorOf w).toNat, x) ∧ x.core = core ∧ x.gslot = gslot ∧ x.pc = pc ∧
      encodeIns i = some (w, x.f.long) ∧ (x.f.long = if w.getLsbD 63 then some imm else none))
/-- Packets on the wire (R236, R241, R292): the flits of a packet, of every kind and with every header field at every value that it can
hold, carry that packet. -/
def Obligations.PacketRoundTrip : Prop :=
  ∀ (p : Pkt) (hclass : Nat), p.kind ≤ 8 → p.dst < 2 ^ 16 → p.src < 2 ^ 16 → p.spart < 8 → p.pseq < 2 ^ 16 → p.txid < 2 ^ 12 → p.status < 16 →
    p.addr < 2 ^ 64 → p.marks < 2 ^ 136 → p.op < (if fullOp p.kind = true then 2 ^ 32 else 2 ^ 31) → p.data.length ≤ 4096 →
    pktOf (flitsOf p hclass) = p ∧ (∀ f ∈ flitsOf p hclass, f.length = 252 ∧ hdrBad (hdrOf f) = decide (4 < hclass % 8))
/-- From every state whose device memory and L2 are in order, every step that answers leaves them in order (R148, R158, R159, R175). -/
def Obligations.StepKeepsMemory : Prop :=
  ∀ (s t : State), Memory.wf s.mem = true → Memory.sound s.mem → step s = .next t → Memory.wf t.mem = true ∧ Memory.sound t.mem
/-- What an instruction of a thread can reach (R4, R28, R34 to R36, R61, R394): it always completes; it changes no clock, no power state and
nothing of the Ringmaster; and where its set may not issue (another pc, a halted, stopped or preempted group, no service, the Curtain, a chip-fatal
error) nothing at all changes. -/
def Obligations.ThreadInstructionsReach : Prop :=
  ∀ (i : Instr) (maj min : Nat) (x : Issue) (s : State), opOf i = some (maj, min, x) →
    (∃ t, exec i s = .next t ∧ Touches [.free, .mem, .regs, .ctr, .cores, .box, .streams, .tags, .fab, .coll, .dbg, .out] s t) ∧
    (gate s x = none → exec i s = .next s) ∧
    (s.dbg.raised = true ∨ s.dbg.fatal = true ∨ s.pow.svc ≠ 3 ∨ (grp s x.core x.gslot).occ = false ∨ (grp s x.core x.gslot).setAt x.pc = [] →
      exec i s = .next s)
end

