-- ==== Sys2Proof/Laws/SMap.lean ====
section
/-! SUPPORT. Laws of sparse maps: a read after a write, and the canonical form that every operation keeps. -/

namespace Sys2Proof.Machine

variable {α : Type}

@[simp] theorem SMap.get_nil (d : α) (k : Nat) : SMap.get d [] k = d := rfl

/-- A key below every listed key reads as the default. -/
theorem SMap.get_of_above [DecidableEq α] (d : α) : ∀ (m : SMap α) (b k : Nat), SMap.above d b m = true → k < b →
    SMap.get d m k = d
  | [], _, _, _, _ => rfl
  | (j, a) :: t, b, k, h, hk => by
    simp only [SMap.above, Bool.and_eq_true, decide_eq_true_eq] at h
    have hj : j ≠ k := by omega
    simp only [SMap.get, if_neg hj]
    exact SMap.get_of_above d t (j + 1) k h.2 (by omega)

/-- A key that is not listed reads as the default. -/
theorem SMap.get_of_notIn (d : α) : ∀ (m : SMap α) (k : Nat), (∀ e ∈ m, e.1 ≠ k) → SMap.get d m k = d
  | [], _, _ => rfl
  | (j, a) :: t, k, h => by
    have hj : j ≠ k := h (j, a) (List.mem_cons_self ..)
    simp only [SMap.get, if_neg hj]
    exact SMap.get_of_notIn d t k (fun e he => h e (List.mem_cons_of_mem _ he))

/-- A dropped key is not listed. -/
theorem SMap.erase_notIn : ∀ (m : SMap α) (k : Nat), ∀ e ∈ SMap.erase m k, e.1 ≠ k
  | [], _, e, h => by simp [SMap.erase] at h
  | (j, a) :: t, k, e, h => by
    unfold SMap.erase at h
    split at h
    · exact SMap.erase_notIn t k e h
    · rcases List.mem_cons.mp h with rfl | h
      · assumption
      · exact SMap.erase_notIn t k e h

theorem SMap.get_erase_ne (d : α) : ∀ (m : SMap α) (k i : Nat), i ≠ k → SMap.get d (SMap.erase m k) i = SMap.get d m i
  | [], _, _, _ => rfl
  | (j, a) :: t, k, i, h => by
    have ih := SMap.get_erase_ne d t k i h
    unfold SMap.erase
    split
    · rename_i hj
      rw [ih, SMap.get, if_neg (by omega)]
    · simp only [SMap.get, ih]

theorem SMap.get_insert_same (d : α) : ∀ (m : SMap α) (k : Nat) (v : α), (∀ e ∈ m, e.1 ≠ k) →
    SMap.get d (SMap.insert m k v) k = v
  | [], k, v, _ => by simp [SMap.insert, SMap.get]
  | (j, a) :: t, k, v, h => by
    have hj : j ≠ k := h (j, a) (List.mem_cons_self ..)
    unfold SMap.insert
    split
    · simp [SMap.get]
    · simp only [SMap.get, if_neg hj]
      exact SMap.get_insert_same d t k v (fun e he => h e (List.mem_cons_of_mem _ he))

theorem SMap.get_insert_ne (d : α) : ∀ (m : SMap α) (k i : Nat) (v : α), i ≠ k →
    SMap.get d (SMap.insert m k v) i = SMap.get d m i
  | [], k, i, v, h => by simp [SMap.insert, SMap.get, Ne.symm h]
  | (j, a) :: t, k, i, v, h => by
    unfold SMap.insert
    split
    · simp [SMap.get, Ne.symm h]
    · simp only [SMap.get, SMap.get_insert_ne d t k i v h]

/-- A read of the key just written gives the value written. -/
@[simp] theorem SMap.get_put_same [DecidableEq α] (d : α) (m : SMap α) (k : Nat) (v : α) :
    SMap.get d (SMap.put d m k v) k = v := by
  unfold SMap.put
  split
  · rename_i hv
    rw [hv, SMap.get_of_notIn d _ k (SMap.erase_notIn m k)]
  · exact SMap.get_insert_same d _ k v (SMap.erase_notIn m k)

/-- A read of another key gives what it gave. -/
theorem SMap.get_put_ne [DecidableEq α] (d : α) (m : SMap α) (k i : Nat) (v : α) (h : i ≠ k) :
    SMap.get d (SMap.put d m k v) i = SMap.get d m i := by
  unfold SMap.put
  split
  · exact SMap.get_erase_ne d m k i h
  · rw [SMap.get_insert_ne d _ k i v h, SMap.get_erase_ne d m k i h]

/-- A read after a write, by cases on the key. -/
theorem SMap.get_put [DecidableEq α] (d : α) (m : SMap α) (k i : Nat) (v : α) :
    SMap.get d (SMap.put d m k v) i = if i = k then v else SMap.get d m i := by
  split
  · rename_i h; rw [h, SMap.get_put_same]
  · rename_i h; exact SMap.get_put_ne d m k i v h

/-- A smaller bound. -/
theorem SMap.above_mono [DecidableEq α] (d : α) (m : SMap α) (b c : Nat) (h : SMap.above d b m = true) (hc : c ≤ b) :
    SMap.above d c m = true := by
  cases m with
  | nil => rfl
  | cons x t => simp_all [SMap.above]; omega

/-- Dropping a key keeps the bound. -/
theorem SMap.above_erase [DecidableEq α] (d : α) : ∀ (m : SMap α) (b k : Nat), SMap.above d b m = true →
    SMap.above d b (SMap.erase m k) = true
  | [], _, _, _ => rfl
  | (j, a) :: t, b, k, h => by
    simp only [SMap.above, Bool.and_eq_true, decide_eq_true_eq] at h
    have ih := SMap.above_erase d t (j + 1) k h.2
    unfold SMap.erase
    split
    · exact SMap.above_mono d _ (j + 1) b ih (by omega)
    · simp_all [SMap.above]

theorem SMap.above_insert [DecidableEq α] (d : α) : ∀ (m : SMap α) (b k : Nat) (v : α), SMap.above d b m = true → b ≤ k →
    v ≠ d → (∀ e ∈ m, e.1 ≠ k) → SMap.above d b (SMap.insert m k v) = true
  | [], b, k, v, _, hk, hv, _ => by simp [SMap.insert, SMap.above, hk, hv]
  | (j, a) :: t, b, k, v, h, hk, hv, hn => by
    simp only [SMap.above, Bool.and_eq_true, decide_eq_true_eq] at h
    have hj : j ≠ k := hn (j, a) (List.mem_cons_self ..)
    unfold SMap.insert
    split
    · simp_all [SMap.above]
    · have := SMap.above_insert d t (j + 1) k v h.2 (by omega) hv (fun e he => hn e (List.mem_cons_of_mem _ he))
      simp_all [SMap.above]

/-- Writing keeps the keys above a bound that the written key keeps. -/
theorem SMap.above_put [DecidableEq α] (d : α) (m : SMap α) (b k : Nat) (v : α) (h : SMap.above d b m = true)
    (hk : b ≤ k) : SMap.above d b (SMap.put d m k v) = true := by
  unfold SMap.put
  split
  · exact SMap.above_erase d m b k h
  · rename_i hv
    exact SMap.above_insert d _ b k v (SMap.above_erase d m b k h) hk hv (SMap.erase_notIn m k)

/-- Keeping some entries keeps the bound. -/
theorem SMap.above_keep [DecidableEq α] (d : α) (p : Nat → Bool) : ∀ (m : SMap α) (b : Nat), SMap.above d b m = true →
    SMap.above d b (SMap.keep p m) = true
  | [], _, _ => rfl
  | (j, a) :: t, b, h => by
    simp only [SMap.above, Bool.and_eq_true, decide_eq_true_eq] at h
    have ih := SMap.above_keep d p t (j + 1) h.2
    unfold SMap.keep
    split
    · simp_all [SMap.above]
    · exact SMap.above_mono d _ (j + 1) b ih (by omega)

/-- Writing keeps the canonical form. -/
theorem SMap.wf_put [DecidableEq α] (d : α) (m : SMap α) (k : Nat) (v : α) (h : SMap.wf d m = true) :
    SMap.wf d (SMap.put d m k v) = true := SMap.above_put d m 0 k v h (Nat.zero_le k)

/-- Keeping some entries keeps the canonical form. -/
theorem SMap.wf_keep [DecidableEq α] (d : α) (p : Nat → Bool) (m : SMap α) (h : SMap.wf d m = true) :
    SMap.wf d (SMap.keep p m) = true := SMap.above_keep d p m 0 h

/-- Writing a list keeps the canonical form. -/
theorem SMap.wf_putList [DecidableEq α] (d : α) : ∀ (vs : List α) (m : SMap α) (k : Nat), SMap.wf d m = true →
    SMap.wf d (SMap.putList d m k vs) = true
  | [], _, _, h => h
  | v :: vs, m, k, h => SMap.wf_putList d vs _ (k + 1) (SMap.wf_put d m k v h)

/-- A key outside the written run reads what it read. -/
theorem SMap.get_putList_ne [DecidableEq α] (d : α) : ∀ (vs : List α) (m : SMap α) (k i : Nat),
    i < k ∨ k + vs.length ≤ i → SMap.get d (SMap.putList d m k vs) i = SMap.get d m i
  | [], _, _, _, _ => rfl
  | v :: vs, m, k, i, h => by
    have hl : (v :: vs).length = vs.length + 1 := rfl
    rw [SMap.putList, SMap.get_putList_ne d vs _ (k + 1) i (by omega), SMap.get_put_ne d m k i v (by omega)]

/-- The run just written reads back. -/
theorem SMap.getList_putList [DecidableEq α] (d : α) : ∀ (vs : List α) (m : SMap α) (k : Nat),
    SMap.getList d (SMap.putList d m k vs) k vs.length = vs
  | [], _, _ => rfl
  | v :: vs, m, k => by
    simp only [List.length_cons, SMap.getList, SMap.putList]
    rw [SMap.get_putList_ne d vs _ (k + 1) k (by omega), SMap.get_put_same,
      SMap.getList_putList d vs _ (k + 1)]

/-- A kept key reads what it read, another the default. -/
theorem SMap.get_keep [DecidableEq α] (d : α) (p : Nat → Bool) : ∀ (m : SMap α) (b k : Nat), SMap.above d b m = true →
    SMap.get d (SMap.keep p m) k = if p k then SMap.get d m k else d
  | [], _, _, _ => by simp [SMap.keep]
  | (j, a) :: t, b, k, h => by
    simp only [SMap.above, Bool.and_eq_true, decide_eq_true_eq] at h
    have ih := SMap.get_keep d p t (j + 1) k h.2
    unfold SMap.keep
    by_cases hj : j = k
    · subst hj
      by_cases hp : p j = true
      · simp [hp, SMap.get]
      · simp only [hp, SMap.get]
        rw [if_neg (by simp), ih]
        simp [hp]
    · by_cases hp : p j = true
      · simp [hp, SMap.get, hj, ih]
      · simp only [hp, SMap.get, if_neg hj]
        rw [if_neg (by simp), ih]

/-- Equal readings are equal canonical maps. -/
theorem SMap.ext_above [DecidableEq α] (d : α) : ∀ (m n : SMap α) (b : Nat), SMap.above d b m = true →
    SMap.above d b n = true → (∀ k, SMap.get d m k = SMap.get d n k) → m = n
  | [], [], _, _, _, _ => rfl
  | [], (j, a) :: t, b, _, hn, h => by
    simp only [SMap.above, Bool.and_eq_true, decide_eq_true_eq] at hn
    have := h j
    simp [SMap.get] at this
    exact absurd this.symm hn.1.2
  | (j, a) :: t, [], b, hm, _, h => by
    simp only [SMap.above, Bool.and_eq_true, decide_eq_true_eq] at hm
    have := h j
    simp [SMap.get] at this
    exact absurd this hm.1.2
  | (j, a) :: t, (i, c) :: u, b, hm, hn, h => by
    simp only [SMap.above, Bool.and_eq_true, decide_eq_true_eq] at hm hn
    have hji : j = i := by
      by_contra hne
      rcases Nat.lt_or_gt_of_ne hne with hlt | hgt
      · have := h j
        simp only [SMap.get, if_pos] at this
        rw [if_neg (by omega), SMap.get_of_above d u (i + 1) j hn.2 (by omega)] at this
        exact hm.1.2 this
      · have := h i
        simp only [SMap.get, if_pos] at this
        rw [if_neg (by omega), SMap.get_of_above d t (j + 1) i hm.2 (by omega)] at this
        exact hn.1.2 this.symm
    subst hji
    have hac : a = c := by simpa [SMap.get] using h j
    subst hac
    rw [SMap.ext_above d t u (j + 1) hm.2 hn.2]
    intro k
    have := h k
    by_cases hk : k = j
    · subst hk
      rw [SMap.get_of_above d t (k + 1) k hm.2 (by omega), SMap.get_of_above d u (k + 1) k hn.2 (by omega)]
    · simpa [SMap.get, Ne.symm hk] using this

end Sys2Proof.Machine
end

