-- ==== Sys2Proof/Laws/State.lean ====
section
/-! SUPPORT. Laws of the state's accessors: what an update leaves, one lemma a field, and what a read after a write gives. -/

namespace Sys2Proof.Machine

/-! ## What each update leaves -/

@[simp] theorem emit_pending (s : State) (o : Out) : (emit s o).pending = s.pending := rfl
@[simp] theorem emit_free (s : State) (o : Out) : (emit s o).free = s.free := rfl
@[simp] theorem emit_sku (s : State) (o : Out) : (emit s o).sku = s.sku := rfl
@[simp] theorem emit_time (s : State) (o : Out) : (emit s o).time = s.time := rfl
@[simp] theorem emit_mem (s : State) (o : Out) : (emit s o).mem = s.mem := rfl
@[simp] theorem emit_regs (s : State) (o : Out) : (emit s o).regs = s.regs := rfl
@[simp] theorem emit_ctr (s : State) (o : Out) : (emit s o).ctr = s.ctr := rfl
@[simp] theorem emit_cores (s : State) (o : Out) : (emit s o).cores = s.cores := rfl
@[simp] theorem emit_box (s : State) (o : Out) : (emit s o).box = s.box := rfl
@[simp] theorem emit_streams (s : State) (o : Out) : (emit s o).streams = s.streams := rfl
@[simp] theorem emit_tags (s : State) (o : Out) : (emit s o).tags = s.tags := rfl
@[simp] theorem emit_fab (s : State) (o : Out) : (emit s o).fab = s.fab := rfl
@[simp] theorem emit_coll (s : State) (o : Out) : (emit s o).coll = s.coll := rfl
@[simp] theorem emit_pow (s : State) (o : Out) : (emit s o).pow = s.pow := rfl
@[simp] theorem emit_rm (s : State) (o : Out) : (emit s o).rm = s.rm := rfl
@[simp] theorem emit_dbg (s : State) (o : Out) : (emit s o).dbg = s.dbg := rfl

@[simp] theorem useFree_pending (s : State) : (useFree s).pending = s.pending := rfl
@[simp] theorem useFree_sku (s : State) : (useFree s).sku = s.sku := rfl
@[simp] theorem useFree_time (s : State) : (useFree s).time = s.time := rfl
@[simp] theorem useFree_mem (s : State) : (useFree s).mem = s.mem := rfl
@[simp] theorem useFree_regs (s : State) : (useFree s).regs = s.regs := rfl
@[simp] theorem useFree_ctr (s : State) : (useFree s).ctr = s.ctr := rfl
@[simp] theorem useFree_cores (s : State) : (useFree s).cores = s.cores := rfl
@[simp] theorem useFree_box (s : State) : (useFree s).box = s.box := rfl
@[simp] theorem useFree_streams (s : State) : (useFree s).streams = s.streams := rfl
@[simp] theorem useFree_tags (s : State) : (useFree s).tags = s.tags := rfl
@[simp] theorem useFree_fab (s : State) : (useFree s).fab = s.fab := rfl
@[simp] theorem useFree_coll (s : State) : (useFree s).coll = s.coll := rfl
@[simp] theorem useFree_pow (s : State) : (useFree s).pow = s.pow := rfl
@[simp] theorem useFree_rm (s : State) : (useFree s).rm = s.rm := rfl
@[simp] theorem useFree_dbg (s : State) : (useFree s).dbg = s.dbg := rfl
@[simp] theorem useFree_out (s : State) : (useFree s).out = s.out := rfl

@[simp] theorem setCtr_pending (s : State) (k v : Nat) : (setCtr s k v).pending = s.pending := rfl
@[simp] theorem setCtr_free (s : State) (k v : Nat) : (setCtr s k v).free = s.free := rfl
@[simp] theorem setCtr_sku (s : State) (k v : Nat) : (setCtr s k v).sku = s.sku := rfl
@[simp] theorem setCtr_time (s : State) (k v : Nat) : (setCtr s k v).time = s.time := rfl
@[simp] theorem setCtr_mem (s : State) (k v : Nat) : (setCtr s k v).mem = s.mem := rfl
@[simp] theorem setCtr_regs (s : State) (k v : Nat) : (setCtr s k v).regs = s.regs := rfl
@[simp] theorem setCtr_cores (s : State) (k v : Nat) : (setCtr s k v).cores = s.cores := rfl
@[simp] theorem setCtr_box (s : State) (k v : Nat) : (setCtr s k v).box = s.box := rfl
@[simp] theorem setCtr_streams (s : State) (k v : Nat) : (setCtr s k v).streams = s.streams := rfl
@[simp] theorem setCtr_tags (s : State) (k v : Nat) : (setCtr s k v).tags = s.tags := rfl
@[simp] theorem setCtr_fab (s : State) (k v : Nat) : (setCtr s k v).fab = s.fab := rfl
@[simp] theorem setCtr_coll (s : State) (k v : Nat) : (setCtr s k v).coll = s.coll := rfl
@[simp] theorem setCtr_pow (s : State) (k v : Nat) : (setCtr s k v).pow = s.pow := rfl
@[simp] theorem setCtr_rm (s : State) (k v : Nat) : (setCtr s k v).rm = s.rm := rfl
@[simp] theorem setCtr_dbg (s : State) (k v : Nat) : (setCtr s k v).dbg = s.dbg := rfl
@[simp] theorem setCtr_out (s : State) (k v : Nat) : (setCtr s k v).out = s.out := rfl

@[simp] theorem setReg_pending (s : State) (p o v : Nat) : (setReg s p o v).pending = s.pending := rfl
@[simp] theorem setReg_free (s : State) (p o v : Nat) : (setReg s p o v).free = s.free := rfl
@[simp] theorem setReg_sku (s : State) (p o v : Nat) : (setReg s p o v).sku = s.sku := rfl
@[simp] theorem setReg_time (s : State) (p o v : Nat) : (setReg s p o v).time = s.time := rfl
@[simp] theorem setReg_mem (s : State) (p o v : Nat) : (setReg s p o v).mem = s.mem := rfl
@[simp] theorem setReg_ctr (s : State) (p o v : Nat) : (setReg s p o v).ctr = s.ctr := rfl
@[simp] theorem setReg_cores (s : State) (p o v : Nat) : (setReg s p o v).cores = s.cores := rfl
@[simp] theorem setReg_box (s : State) (p o v : Nat) : (setReg s p o v).box = s.box := rfl
@[simp] theorem setReg_streams (s : State) (p o v : Nat) : (setReg s p o v).streams = s.streams := rfl
@[simp] theorem setReg_tags (s : State) (p o v : Nat) : (setReg s p o v).tags = s.tags := rfl
@[simp] theorem setReg_fab (s : State) (p o v : Nat) : (setReg s p o v).fab = s.fab := rfl
@[simp] theorem setReg_coll (s : State) (p o v : Nat) : (setReg s p o v).coll = s.coll := rfl
@[simp] theorem setReg_pow (s : State) (p o v : Nat) : (setReg s p o v).pow = s.pow := rfl
@[simp] theorem setReg_rm (s : State) (p o v : Nat) : (setReg s p o v).rm = s.rm := rfl
@[simp] theorem setReg_dbg (s : State) (p o v : Nat) : (setReg s p o v).dbg = s.dbg := rfl
@[simp] theorem setReg_out (s : State) (p o v : Nat) : (setReg s p o v).out = s.out := rfl

@[simp] theorem setCore_pending (s : State) (c : Nat) (k : Core) : (setCore s c k).pending = s.pending := rfl
@[simp] theorem setCore_free (s : State) (c : Nat) (k : Core) : (setCore s c k).free = s.free := rfl
@[simp] theorem setCore_sku (s : State) (c : Nat) (k : Core) : (setCore s c k).sku = s.sku := rfl
@[simp] theorem setCore_time (s : State) (c : Nat) (k : Core) : (setCore s c k).time = s.time := rfl
@[simp] theorem setCore_mem (s : State) (c : Nat) (k : Core) : (setCore s c k).mem = s.mem := rfl
@[simp] theorem setCore_regs (s : State) (c : Nat) (k : Core) : (setCore s c k).regs = s.regs := rfl
@[simp] theorem setCore_ctr (s : State) (c : Nat) (k : Core) : (setCore s c k).ctr = s.ctr := rfl
@[simp] theorem setCore_box (s : State) (c : Nat) (k : Core) : (setCore s c k).box = s.box := rfl
@[simp] theorem setCore_streams (s : State) (c : Nat) (k : Core) : (setCore s c k).streams = s.streams := rfl
@[simp] theorem setCore_tags (s : State) (c : Nat) (k : Core) : (setCore s c k).tags = s.tags := rfl
@[simp] theorem setCore_fab (s : State) (c : Nat) (k : Core) : (setCore s c k).fab = s.fab := rfl
@[simp] theorem setCore_coll (s : State) (c : Nat) (k : Core) : (setCore s c k).coll = s.coll := rfl
@[simp] theorem setCore_pow (s : State) (c : Nat) (k : Core) : (setCore s c k).pow = s.pow := rfl
@[simp] theorem setCore_rm (s : State) (c : Nat) (k : Core) : (setCore s c k).rm = s.rm := rfl
@[simp] theorem setCore_dbg (s : State) (c : Nat) (k : Core) : (setCore s c k).dbg = s.dbg := rfl
@[simp] theorem setCore_out (s : State) (c : Nat) (k : Core) : (setCore s c k).out = s.out := rfl

@[simp] theorem setGrp_pending (s : State) (c g : Nat) (x : Group) : (setGrp s c g x).pending = s.pending := rfl
@[simp] theorem setGrp_free (s : State) (c g : Nat) (x : Group) : (setGrp s c g x).free = s.free := rfl
@[simp] theorem setGrp_sku (s : State) (c g : Nat) (x : Group) : (setGrp s c g x).sku = s.sku := rfl
@[simp] theorem setGrp_time (s : State) (c g : Nat) (x : Group) : (setGrp s c g x).time = s.time := rfl
@[simp] theorem setGrp_mem (s : State) (c g : Nat) (x : Group) : (setGrp s c g x).mem = s.mem := rfl
@[simp] theorem setGrp_regs (s : State) (c g : Nat) (x : Group) : (setGrp s c g x).regs = s.regs := rfl
@[simp] theorem setGrp_ctr (s : State) (c g : Nat) (x : Group) : (setGrp s c g x).ctr = s.ctr := rfl
@[simp] theorem setGrp_box (s : State) (c g : Nat) (x : Group) : (setGrp s c g x).box = s.box := rfl
@[simp] theorem setGrp_streams (s : State) (c g : Nat) (x : Group) : (setGrp s c g x).streams = s.streams := rfl
@[simp] theorem setGrp_tags (s : State) (c g : Nat) (x : Group) : (setGrp s c g x).tags = s.tags := rfl
@[simp] theorem setGrp_fab (s : State) (c g : Nat) (x : Group) : (setGrp s c g x).fab = s.fab := rfl
@[simp] theorem setGrp_coll (s : State) (c g : Nat) (x : Group) : (setGrp s c g x).coll = s.coll := rfl
@[simp] theorem setGrp_pow (s : State) (c g : Nat) (x : Group) : (setGrp s c g x).pow = s.pow := rfl
@[simp] theorem setGrp_rm (s : State) (c g : Nat) (x : Group) : (setGrp s c g x).rm = s.rm := rfl
@[simp] theorem setGrp_dbg (s : State) (c g : Nat) (x : Group) : (setGrp s c g x).dbg = s.dbg := rfl
@[simp] theorem setGrp_out (s : State) (c g : Nat) (x : Group) : (setGrp s c g x).out = s.out := rfl

@[simp] theorem setTm_pending (s : State) (c g : Nat) (x : Team) : (setTm s c g x).pending = s.pending := rfl
@[simp] theorem setTm_free (s : State) (c g : Nat) (x : Team) : (setTm s c g x).free = s.free := rfl
@[simp] theorem setTm_sku (s : State) (c g : Nat) (x : Team) : (setTm s c g x).sku = s.sku := rfl
@[simp] theorem setTm_time (s : State) (c g : Nat) (x : Team) : (setTm s c g x).time = s.time := rfl
@[simp] theorem setTm_mem (s : State) (c g : Nat) (x : Team) : (setTm s c g x).mem = s.mem := rfl
@[simp] theorem setTm_regs (s : State) (c g : Nat) (x : Team) : (setTm s c g x).regs = s.regs := rfl
@[simp] theorem setTm_ctr (s : State) (c g : Nat) (x : Team) : (setTm s c g x).ctr = s.ctr := rfl
@[simp] theorem setTm_box (s : State) (c g : Nat) (x : Team) : (setTm s c g x).box = s.box := rfl
@[simp] theorem setTm_streams (s : State) (c g : Nat) (x : Team) : (setTm s c g x).streams = s.streams := rfl
@[simp] theorem setTm_tags (s : State) (c g : Nat) (x : Team) : (setTm s c g x).tags = s.tags := rfl
@[simp] theorem setTm_fab (s : State) (c g : Nat) (x : Team) : (setTm s c g x).fab = s.fab := rfl
@[simp] theorem setTm_coll (s : State) (c g : Nat) (x : Team) : (setTm s c g x).coll = s.coll := rfl
@[simp] theorem setTm_pow (s : State) (c g : Nat) (x : Team) : (setTm s c g x).pow = s.pow := rfl
@[simp] theorem setTm_rm (s : State) (c g : Nat) (x : Team) : (setTm s c g x).rm = s.rm := rfl
@[simp] theorem setTm_dbg (s : State) (c g : Nat) (x : Team) : (setTm s c g x).dbg = s.dbg := rfl
@[simp] theorem setTm_out (s : State) (c g : Nat) (x : Team) : (setTm s c g x).out = s.out := rfl

@[simp] theorem setFence_pending (s : State) (k : Nat) (f : Fence) : (setFence s k f).pending = s.pending := rfl
@[simp] theorem setFence_free (s : State) (k : Nat) (f : Fence) : (setFence s k f).free = s.free := rfl
@[simp] theorem setFence_sku (s : State) (k : Nat) (f : Fence) : (setFence s k f).sku = s.sku := rfl
@[simp] theorem setFence_time (s : State) (k : Nat) (f : Fence) : (setFence s k f).time = s.time := rfl
@[simp] theorem setFence_mem (s : State) (k : Nat) (f : Fence) : (setFence s k f).mem = s.mem := rfl
@[simp] theorem setFence_regs (s : State) (k : Nat) (f : Fence) : (setFence s k f).regs = s.regs := rfl
@[simp] theorem setFence_ctr (s : State) (k : Nat) (f : Fence) : (setFence s k f).ctr = s.ctr := rfl
@[simp] theorem setFence_cores (s : State) (k : Nat) (f : Fence) : (setFence s k f).cores = s.cores := rfl
@[simp] theorem setFence_streams (s : State) (k : Nat) (f : Fence) : (setFence s k f).streams = s.streams := rfl
@[simp] theorem setFence_tags (s : State) (k : Nat) (f : Fence) : (setFence s k f).tags = s.tags := rfl
@[simp] theorem setFence_fab (s : State) (k : Nat) (f : Fence) : (setFence s k f).fab = s.fab := rfl
@[simp] theorem setFence_coll (s : State) (k : Nat) (f : Fence) : (setFence s k f).coll = s.coll := rfl
@[simp] theorem setFence_pow (s : State) (k : Nat) (f : Fence) : (setFence s k f).pow = s.pow := rfl
@[simp] theorem setFence_rm (s : State) (k : Nat) (f : Fence) : (setFence s k f).rm = s.rm := rfl
@[simp] theorem setFence_dbg (s : State) (k : Nat) (f : Fence) : (setFence s k f).dbg = s.dbg := rfl
@[simp] theorem setFence_out (s : State) (k : Nat) (f : Fence) : (setFence s k f).out = s.out := rfl

@[simp] theorem resetFence_pending (s : State) (k : Nat) : (resetFence s k).pending = s.pending := rfl
@[simp] theorem resetFence_free (s : State) (k : Nat) : (resetFence s k).free = s.free := rfl
@[simp] theorem resetFence_sku (s : State) (k : Nat) : (resetFence s k).sku = s.sku := rfl
@[simp] theorem resetFence_time (s : State) (k : Nat) : (resetFence s k).time = s.time := rfl
@[simp] theorem resetFence_mem (s : State) (k : Nat) : (resetFence s k).mem = s.mem := rfl
@[simp] theorem resetFence_regs (s : State) (k : Nat) : (resetFence s k).regs = s.regs := rfl
@[simp] theorem resetFence_ctr (s : State) (k : Nat) : (resetFence s k).ctr = s.ctr := rfl
@[simp] theorem resetFence_cores (s : State) (k : Nat) : (resetFence s k).cores = s.cores := rfl
@[simp] theorem resetFence_streams (s : State) (k : Nat) : (resetFence s k).streams = s.streams := rfl
@[simp] theorem resetFence_tags (s : State) (k : Nat) : (resetFence s k).tags = s.tags := rfl
@[simp] theorem resetFence_fab (s : State) (k : Nat) : (resetFence s k).fab = s.fab := rfl
@[simp] theorem resetFence_coll (s : State) (k : Nat) : (resetFence s k).coll = s.coll := rfl
@[simp] theorem resetFence_pow (s : State) (k : Nat) : (resetFence s k).pow = s.pow := rfl
@[simp] theorem resetFence_rm (s : State) (k : Nat) : (resetFence s k).rm = s.rm := rfl
@[simp] theorem resetFence_dbg (s : State) (k : Nat) : (resetFence s k).dbg = s.dbg := rfl
@[simp] theorem resetFence_out (s : State) (k : Nat) : (resetFence s k).out = s.out := rfl

@[simp] theorem setCtx_pending (s : State) (c : Nat) (x : Ctx) : (setCtx s c x).pending = s.pending := rfl
@[simp] theorem setCtx_free (s : State) (c : Nat) (x : Ctx) : (setCtx s c x).free = s.free := rfl
@[simp] theorem setCtx_sku (s : State) (c : Nat) (x : Ctx) : (setCtx s c x).sku = s.sku := rfl
@[simp] theorem setCtx_time (s : State) (c : Nat) (x : Ctx) : (setCtx s c x).time = s.time := rfl
@[simp] theorem setCtx_mem (s : State) (c : Nat) (x : Ctx) : (setCtx s c x).mem = s.mem := rfl
@[simp] theorem setCtx_regs (s : State) (c : Nat) (x : Ctx) : (setCtx s c x).regs = s.regs := rfl
@[simp] theorem setCtx_ctr (s : State) (c : Nat) (x : Ctx) : (setCtx s c x).ctr = s.ctr := rfl
@[simp] theorem setCtx_cores (s : State) (c : Nat) (x : Ctx) : (setCtx s c x).cores = s.cores := rfl
@[simp] theorem setCtx_streams (s : State) (c : Nat) (x : Ctx) : (setCtx s c x).streams = s.streams := rfl
@[simp] theorem setCtx_tags (s : State) (c : Nat) (x : Ctx) : (setCtx s c x).tags = s.tags := rfl
@[simp] theorem setCtx_fab (s : State) (c : Nat) (x : Ctx) : (setCtx s c x).fab = s.fab := rfl
@[simp] theorem setCtx_coll (s : State) (c : Nat) (x : Ctx) : (setCtx s c x).coll = s.coll := rfl
@[simp] theorem setCtx_pow (s : State) (c : Nat) (x : Ctx) : (setCtx s c x).pow = s.pow := rfl
@[simp] theorem setCtx_rm (s : State) (c : Nat) (x : Ctx) : (setCtx s c x).rm = s.rm := rfl
@[simp] theorem setCtx_dbg (s : State) (c : Nat) (x : Ctx) : (setCtx s c x).dbg = s.dbg := rfl
@[simp] theorem setCtx_out (s : State) (c : Nat) (x : Ctx) : (setCtx s c x).out = s.out := rfl

@[simp] theorem setQueue_pending (s : State) (q : Nat) (x : Queue) : (setQueue s q x).pending = s.pending := rfl
@[simp] theorem setQueue_free (s : State) (q : Nat) (x : Queue) : (setQueue s q x).free = s.free := rfl
@[simp] theorem setQueue_sku (s : State) (q : Nat) (x : Queue) : (setQueue s q x).sku = s.sku := rfl
@[simp] theorem setQueue_time (s : State) (q : Nat) (x : Queue) : (setQueue s q x).time = s.time := rfl
@[simp] theorem setQueue_mem (s : State) (q : Nat) (x : Queue) : (setQueue s q x).mem = s.mem := rfl
@[simp] theorem setQueue_regs (s : State) (q : Nat) (x : Queue) : (setQueue s q x).regs = s.regs := rfl
@[simp] theorem setQueue_ctr (s : State) (q : Nat) (x : Queue) : (setQueue s q x).ctr = s.ctr := rfl
@[simp] theorem setQueue_cores (s : State) (q : Nat) (x : Queue) : (setQueue s q x).cores = s.cores := rfl
@[simp] theorem setQueue_streams (s : State) (q : Nat) (x : Queue) : (setQueue s q x).streams = s.streams := rfl
@[simp] theorem setQueue_tags (s : State) (q : Nat) (x : Queue) : (setQueue s q x).tags = s.tags := rfl
@[simp] theorem setQueue_fab (s : State) (q : Nat) (x : Queue) : (setQueue s q x).fab = s.fab := rfl
@[simp] theorem setQueue_coll (s : State) (q : Nat) (x : Queue) : (setQueue s q x).coll = s.coll := rfl
@[simp] theorem setQueue_pow (s : State) (q : Nat) (x : Queue) : (setQueue s q x).pow = s.pow := rfl
@[simp] theorem setQueue_rm (s : State) (q : Nat) (x : Queue) : (setQueue s q x).rm = s.rm := rfl
@[simp] theorem setQueue_dbg (s : State) (q : Nat) (x : Queue) : (setQueue s q x).dbg = s.dbg := rfl
@[simp] theorem setQueue_out (s : State) (q : Nat) (x : Queue) : (setQueue s q x).out = s.out := rfl

@[simp] theorem updCmd_pending (s : State) (q i : Nat) (f : Cmd → Cmd) : (updCmd s q i f).pending = s.pending := rfl
@[simp] theorem updCmd_free (s : State) (q i : Nat) (f : Cmd → Cmd) : (updCmd s q i f).free = s.free := rfl
@[simp] theorem updCmd_sku (s : State) (q i : Nat) (f : Cmd → Cmd) : (updCmd s q i f).sku = s.sku := rfl
@[simp] theorem updCmd_time (s : State) (q i : Nat) (f : Cmd → Cmd) : (updCmd s q i f).time = s.time := rfl
@[simp] theorem updCmd_mem (s : State) (q i : Nat) (f : Cmd → Cmd) : (updCmd s q i f).mem = s.mem := rfl
@[simp] theorem updCmd_regs (s : State) (q i : Nat) (f : Cmd → Cmd) : (updCmd s q i f).regs = s.regs := rfl
@[simp] theorem updCmd_ctr (s : State) (q i : Nat) (f : Cmd → Cmd) : (updCmd s q i f).ctr = s.ctr := rfl
@[simp] theorem updCmd_cores (s : State) (q i : Nat) (f : Cmd → Cmd) : (updCmd s q i f).cores = s.cores := rfl
@[simp] theorem updCmd_streams (s : State) (q i : Nat) (f : Cmd → Cmd) : (updCmd s q i f).streams = s.streams := rfl
@[simp] theorem updCmd_tags (s : State) (q i : Nat) (f : Cmd → Cmd) : (updCmd s q i f).tags = s.tags := rfl
@[simp] theorem updCmd_fab (s : State) (q i : Nat) (f : Cmd → Cmd) : (updCmd s q i f).fab = s.fab := rfl
@[simp] theorem updCmd_coll (s : State) (q i : Nat) (f : Cmd → Cmd) : (updCmd s q i f).coll = s.coll := rfl
@[simp] theorem updCmd_pow (s : State) (q i : Nat) (f : Cmd → Cmd) : (updCmd s q i f).pow = s.pow := rfl
@[simp] theorem updCmd_rm (s : State) (q i : Nat) (f : Cmd → Cmd) : (updCmd s q i f).rm = s.rm := rfl
@[simp] theorem updCmd_dbg (s : State) (q i : Nat) (f : Cmd → Cmd) : (updCmd s q i f).dbg = s.dbg := rfl
@[simp] theorem updCmd_out (s : State) (q i : Nat) (f : Cmd → Cmd) : (updCmd s q i f).out = s.out := rfl

@[simp] theorem endCmd_pending (s : State) (q i a b : Nat) : (endCmd s q i a b).pending = s.pending := rfl
@[simp] theorem endCmd_free (s : State) (q i a b : Nat) : (endCmd s q i a b).free = s.free := rfl
@[simp] theorem endCmd_sku (s : State) (q i a b : Nat) : (endCmd s q i a b).sku = s.sku := rfl
@[simp] theorem endCmd_time (s : State) (q i a b : Nat) : (endCmd s q i a b).time = s.time := rfl
@[simp] theorem endCmd_mem (s : State) (q i a b : Nat) : (endCmd s q i a b).mem = s.mem := rfl
@[simp] theorem endCmd_regs (s : State) (q i a b : Nat) : (endCmd s q i a b).regs = s.regs := rfl
@[simp] theorem endCmd_ctr (s : State) (q i a b : Nat) : (endCmd s q i a b).ctr = s.ctr := rfl
@[simp] theorem endCmd_cores (s : State) (q i a b : Nat) : (endCmd s q i a b).cores = s.cores := rfl
@[simp] theorem endCmd_streams (s : State) (q i a b : Nat) : (endCmd s q i a b).streams = s.streams := rfl
@[simp] theorem endCmd_tags (s : State) (q i a b : Nat) : (endCmd s q i a b).tags = s.tags := rfl
@[simp] theorem endCmd_fab (s : State) (q i a b : Nat) : (endCmd s q i a b).fab = s.fab := rfl
@[simp] theorem endCmd_coll (s : State) (q i a b : Nat) : (endCmd s q i a b).coll = s.coll := rfl
@[simp] theorem endCmd_pow (s : State) (q i a b : Nat) : (endCmd s q i a b).pow = s.pow := rfl
@[simp] theorem endCmd_rm (s : State) (q i a b : Nat) : (endCmd s q i a b).rm = s.rm := rfl
@[simp] theorem endCmd_dbg (s : State) (q i a b : Nat) : (endCmd s q i a b).dbg = s.dbg := rfl
@[simp] theorem endCmd_out (s : State) (q i a b : Nat) : (endCmd s q i a b).out = s.out := rfl

@[simp] theorem setStream_pending (s : State) (k : Nat) (x : Stream) : (setStream s k x).pending = s.pending := rfl
@[simp] theorem setStream_free (s : State) (k : Nat) (x : Stream) : (setStream s k x).free = s.free := rfl
@[simp] theorem setStream_sku (s : State) (k : Nat) (x : Stream) : (setStream s k x).sku = s.sku := rfl
@[simp] theorem setStream_time (s : State) (k : Nat) (x : Stream) : (setStream s k x).time = s.time := rfl
@[simp] theorem setStream_mem (s : State) (k : Nat) (x : Stream) : (setStream s k x).mem = s.mem := rfl
@[simp] theorem setStream_regs (s : State) (k : Nat) (x : Stream) : (setStream s k x).regs = s.regs := rfl
@[simp] theorem setStream_ctr (s : State) (k : Nat) (x : Stream) : (setStream s k x).ctr = s.ctr := rfl
@[simp] theorem setStream_cores (s : State) (k : Nat) (x : Stream) : (setStream s k x).cores = s.cores := rfl
@[simp] theorem setStream_box (s : State) (k : Nat) (x : Stream) : (setStream s k x).box = s.box := rfl
@[simp] theorem setStream_tags (s : State) (k : Nat) (x : Stream) : (setStream s k x).tags = s.tags := rfl
@[simp] theorem setStream_fab (s : State) (k : Nat) (x : Stream) : (setStream s k x).fab = s.fab := rfl
@[simp] theorem setStream_coll (s : State) (k : Nat) (x : Stream) : (setStream s k x).coll = s.coll := rfl
@[simp] theorem setStream_pow (s : State) (k : Nat) (x : Stream) : (setStream s k x).pow = s.pow := rfl
@[simp] theorem setStream_rm (s : State) (k : Nat) (x : Stream) : (setStream s k x).rm = s.rm := rfl
@[simp] theorem setStream_dbg (s : State) (k : Nat) (x : Stream) : (setStream s k x).dbg = s.dbg := rfl
@[simp] theorem setStream_out (s : State) (k : Nat) (x : Stream) : (setStream s k x).out = s.out := rfl

@[simp] theorem setPort_pending (s : State) (k : Nat) (x : Port) : (setPort s k x).pending = s.pending := rfl
@[simp] theorem setPort_free (s : State) (k : Nat) (x : Port) : (setPort s k x).free = s.free := rfl
@[simp] theorem setPort_sku (s : State) (k : Nat) (x : Port) : (setPort s k x).sku = s.sku := rfl
@[simp] theorem setPort_time (s : State) (k : Nat) (x : Port) : (setPort s k x).time = s.time := rfl
@[simp] theorem setPort_mem (s : State) (k : Nat) (x : Port) : (setPort s k x).mem = s.mem := rfl
@[simp] theorem setPort_regs (s : State) (k : Nat) (x : Port) : (setPort s k x).regs = s.regs := rfl
@[simp] theorem setPort_ctr (s : State) (k : Nat) (x : Port) : (setPort s k x).ctr = s.ctr := rfl
@[simp] theorem setPort_cores (s : State) (k : Nat) (x : Port) : (setPort s k x).cores = s.cores := rfl
@[simp] theorem setPort_box (s : State) (k : Nat) (x : Port) : (setPort s k x).box = s.box := rfl
@[simp] theorem setPort_streams (s : State) (k : Nat) (x : Port) : (setPort s k x).streams = s.streams := rfl
@[simp] theorem setPort_tags (s : State) (k : Nat) (x : Port) : (setPort s k x).tags = s.tags := rfl
@[simp] theorem setPort_coll (s : State) (k : Nat) (x : Port) : (setPort s k x).coll = s.coll := rfl
@[simp] theorem setPort_pow (s : State) (k : Nat) (x : Port) : (setPort s k x).pow = s.pow := rfl
@[simp] theorem setPort_rm (s : State) (k : Nat) (x : Port) : (setPort s k x).rm = s.rm := rfl
@[simp] theorem setPort_dbg (s : State) (k : Nat) (x : Port) : (setPort s k x).dbg = s.dbg := rfl
@[simp] theorem setPort_out (s : State) (k : Nat) (x : Port) : (setPort s k x).out = s.out := rfl

@[simp] theorem setBlkState_pending (s : State) (p n : Nat) : (setBlkState s p n).pending = s.pending := rfl
@[simp] theorem setBlkState_free (s : State) (p n : Nat) : (setBlkState s p n).free = s.free := rfl
@[simp] theorem setBlkState_sku (s : State) (p n : Nat) : (setBlkState s p n).sku = s.sku := rfl
@[simp] theorem setBlkState_time (s : State) (p n : Nat) : (setBlkState s p n).time = s.time := rfl
@[simp] theorem setBlkState_mem (s : State) (p n : Nat) : (setBlkState s p n).mem = s.mem := rfl
@[simp] theorem setBlkState_ctr (s : State) (p n : Nat) : (setBlkState s p n).ctr = s.ctr := rfl
@[simp] theorem setBlkState_cores (s : State) (p n : Nat) : (setBlkState s p n).cores = s.cores := rfl
@[simp] theorem setBlkState_box (s : State) (p n : Nat) : (setBlkState s p n).box = s.box := rfl
@[simp] theorem setBlkState_streams (s : State) (p n : Nat) : (setBlkState s p n).streams = s.streams := rfl
@[simp] theorem setBlkState_tags (s : State) (p n : Nat) : (setBlkState s p n).tags = s.tags := rfl
@[simp] theorem setBlkState_fab (s : State) (p n : Nat) : (setBlkState s p n).fab = s.fab := rfl
@[simp] theorem setBlkState_coll (s : State) (p n : Nat) : (setBlkState s p n).coll = s.coll := rfl
@[simp] theorem setBlkState_pow (s : State) (p n : Nat) : (setBlkState s p n).pow = s.pow := rfl
@[simp] theorem setBlkState_rm (s : State) (p n : Nat) : (setBlkState s p n).rm = s.rm := rfl
@[simp] theorem setBlkState_dbg (s : State) (p n : Nat) : (setBlkState s p n).dbg = s.dbg := rfl
@[simp] theorem setBlkState_out (s : State) (p n : Nat) : (setBlkState s p n).out = s.out := rfl

@[simp] theorem mapTeams_pending (s : State) (f : Team → Team) : (mapTeams s f).pending = s.pending := rfl
@[simp] theorem mapTeams_free (s : State) (f : Team → Team) : (mapTeams s f).free = s.free := rfl
@[simp] theorem mapTeams_sku (s : State) (f : Team → Team) : (mapTeams s f).sku = s.sku := rfl
@[simp] theorem mapTeams_time (s : State) (f : Team → Team) : (mapTeams s f).time = s.time := rfl
@[simp] theorem mapTeams_mem (s : State) (f : Team → Team) : (mapTeams s f).mem = s.mem := rfl
@[simp] theorem mapTeams_regs (s : State) (f : Team → Team) : (mapTeams s f).regs = s.regs := rfl
@[simp] theorem mapTeams_ctr (s : State) (f : Team → Team) : (mapTeams s f).ctr = s.ctr := rfl
@[simp] theorem mapTeams_box (s : State) (f : Team → Team) : (mapTeams s f).box = s.box := rfl
@[simp] theorem mapTeams_streams (s : State) (f : Team → Team) : (mapTeams s f).streams = s.streams := rfl
@[simp] theorem mapTeams_tags (s : State) (f : Team → Team) : (mapTeams s f).tags = s.tags := rfl
@[simp] theorem mapTeams_fab (s : State) (f : Team → Team) : (mapTeams s f).fab = s.fab := rfl
@[simp] theorem mapTeams_coll (s : State) (f : Team → Team) : (mapTeams s f).coll = s.coll := rfl
@[simp] theorem mapTeams_pow (s : State) (f : Team → Team) : (mapTeams s f).pow = s.pow := rfl
@[simp] theorem mapTeams_rm (s : State) (f : Team → Team) : (mapTeams s f).rm = s.rm := rfl
@[simp] theorem mapTeams_dbg (s : State) (f : Team → Team) : (mapTeams s f).dbg = s.dbg := rfl
@[simp] theorem mapTeams_out (s : State) (f : Team → Team) : (mapTeams s f).out = s.out := rfl

/-! ## Reads after writes -/

theorem core_setCore (s : State) (c i : Nat) (k : Core) : core (setCore s c k) i = if i = c then k else core s i := by
  simp only [core, setCore, SMap.get_put]
@[simp] theorem core_setCore_same (s : State) (c : Nat) (k : Core) : core (setCore s c k) c = k := by
  simp [core_setCore]
theorem core_setCore_ne (s : State) (c i : Nat) (k : Core) (h : i ≠ c) : core (setCore s c k) i = core s i := by
  simp [core_setCore, h]

theorem core_setGrp_ne (s : State) (c i g : Nat) (x : Group) (h : i ≠ c) : core (setGrp s c g x) i = core s i := by
  simp [setGrp, core_setCore, h]
@[simp] theorem core_setGrp_same (s : State) (c g : Nat) (x : Group) : core (setGrp s c g x) c = (core s c).setGrp g x := by
  simp [setGrp]
@[simp] theorem grp_setGrp_same (s : State) (c g : Nat) (x : Group) : grp (setGrp s c g x) c g = x := by
  simp [grp, Core.setGrp]
theorem grp_setGrp_ne (s : State) (c g i : Nat) (x : Group) (h : i ≠ g) : grp (setGrp s c g x) c i = grp s c i := by
  simp [grp, Core.setGrp, SMap.get_put, h]
theorem grp_setGrp_core (s : State) (c d g i : Nat) (x : Group) (h : d ≠ c) : grp (setGrp s c g x) d i = grp s d i := by
  simp [grp, core_setGrp_ne, h]

@[simp] theorem tm_setTm_same (s : State) (c g : Nat) (x : Team) : tm (setTm s c g x) c g = x := by simp [tm, setTm]
theorem tm_setTm_ne (s : State) (c g i : Nat) (x : Team) (h : i ≠ g) : tm (setTm s c g x) c i = tm s c i := by
  simp [tm, setTm, SMap.get_put, h]
@[simp] theorem tm_setGrp (s : State) (c g d i : Nat) (x : Group) : tm (setGrp s c g x) d i = tm s d i := by
  by_cases h : d = c <;> simp [tm, setGrp, core_setCore, h, Core.setGrp]

theorem ctx_setCtx (s : State) (c i : Nat) (x : Ctx) : ctx (setCtx s c x) i = if i = c then x else ctx s i := by
  simp only [ctx, setCtx, SMap.get_put]
@[simp] theorem ctx_setCtx_same (s : State) (c : Nat) (x : Ctx) : ctx (setCtx s c x) c = x := by simp [ctx_setCtx]
theorem queue_setQueue (s : State) (q i : Nat) (x : Queue) : queue (setQueue s q x) i = if i = q then x else queue s i := by
  simp only [queue, setQueue, SMap.get_put]
@[simp] theorem queue_setQueue_same (s : State) (q : Nat) (x : Queue) : queue (setQueue s q x) q = x := by
  simp [queue_setQueue]
@[simp] theorem ctx_setQueue (s : State) (q c : Nat) (x : Queue) : ctx (setQueue s q x) c = ctx s c := rfl
@[simp] theorem queue_setCtx (s : State) (q c : Nat) (x : Ctx) : queue (setCtx s c x) q = queue s q := rfl
@[simp] theorem fence_setQueue (s : State) (q k : Nat) (x : Queue) : fence (setQueue s q x) k = fence s k := rfl
@[simp] theorem fence_setCtx (s : State) (c k : Nat) (x : Ctx) : fence (setCtx s c x) k = fence s k := rfl
theorem fence_setFence (s : State) (k i : Nat) (f : Fence) : fence (setFence s k f) i = if i = k then f else fence s i := by
  simp only [fence, setFence, SMap.get_put]
@[simp] theorem ctx_setFence (s : State) (c k : Nat) (f : Fence) : ctx (setFence s k f) c = ctx s c := rfl
@[simp] theorem queue_setFence (s : State) (q k : Nat) (f : Fence) : queue (setFence s k f) q = queue s q := rfl
theorem stream_setStream (s : State) (k i : Nat) (x : Stream) :
    stream (setStream s k x) i = if i = k then x else stream s i := by simp only [stream, setStream, SMap.get_put]
theorem port_setPort (s : State) (p i : Nat) (x : Port) : port (setPort s p x) i = if i = p then x else port s i := by
  simp only [port, setPort, SMap.get_put]
theorem ctr_setCtr (s : State) (k i v : Nat) : ctr (setCtr s k v) i = if i = k then v % 2 ^ 64 else ctr s i := by
  simp only [ctr, setCtr, SMap.get_put]

theorem core_congr {s t : State} (h : t.cores = s.cores) (c : Nat) : core t c = core s c := by simp only [core, h]
theorem grp_congr {s t : State} (h : t.cores = s.cores) (c g : Nat) : grp t c g = grp s c g := by simp only [grp, core, h]
theorem tm_congr {s t : State} (h : t.cores = s.cores) (c g : Nat) : tm t c g = tm s c g := by simp only [tm, core, h]
theorem ctx_congr {s t : State} (h : t.box = s.box) (c : Nat) : ctx t c = ctx s c := by simp only [ctx, h]
theorem queue_congr {s t : State} (h : t.box = s.box) (q : Nat) : queue t q = queue s q := by simp only [queue, h]
theorem fence_congr {s t : State} (h : t.box = s.box) (k : Nat) : fence t k = fence s k := by simp only [fence, h]
theorem cmdAt_congr {s t : State} (h : t.box = s.box) (q i : Nat) : cmdAt t q i = cmdAt s q i := by
  simp only [cmdAt, queue, h]

/-- A register reads from the register file and the SKU alone. -/
theorem reg_congr {s t : State} (h : t.regs = s.regs) (k : t.sku = s.sku) (p o : Nat) : reg t p o = reg s p o := by
  simp only [reg, regv, h, k]

/-- A register just stored reads the value stored, cut to 64 bits. -/
@[simp] theorem reg_setReg_same (s : State) (p o v : Nat) : reg (setReg s p o v) p o = v % 2 ^ 64 := by
  simp [reg, regv, setReg]
theorem reg_setReg_ne (s : State) (p o v i j : Nat) (h : rkey i j ≠ rkey p o) : reg (setReg s p o v) i j = reg s i j := by
  simp [reg, regv, setReg, SMap.get_put, h]

/-! ## Commands of a queue -/

theorem queue_updCmd_ne (s : State) (q i p : Nat) (f : Cmd → Cmd) (h : p ≠ q) : queue (updCmd s q i f) p = queue s p := by
  simp [updCmd, queue_setQueue, h]
@[simp] theorem ctx_updCmd (s : State) (q i c : Nat) (f : Cmd → Cmd) : ctx (updCmd s q i f) c = ctx s c := rfl
@[simp] theorem fence_updCmd (s : State) (q i k : Nat) (f : Cmd → Cmd) : fence (updCmd s q i f) k = fence s k := rfl
@[simp] theorem ctx_endCmd (s : State) (q i a b c : Nat) : ctx (endCmd s q i a b) c = ctx s c := rfl
@[simp] theorem fence_endCmd (s : State) (q i a b k : Nat) : fence (endCmd s q i a b) k = fence s k := rfl

/-- The first element that a change of it leaves in its place is found again, changed. -/
theorem find_mapFirst {α : Type} (p : α → Bool) (f : α → α) (h : ∀ a, p a = true → p (f a) = true) :
    ∀ l : List α, (mapFirst p f l).find? p = (l.find? p).map f
  | [] => rfl
  | a :: t => by
    by_cases hp : p a = true
    · simp [mapFirst, hp, List.find?, h a hp]
    · simp only [mapFirst, hp, List.find?]
      simp [hp, find_mapFirst p f h t]

/-- A command that a change leaves its number is found changed. -/
theorem cmdAt_updCmd (s : State) (q i : Nat) (f : Cmd → Cmd) (h : ∀ c, (f c).idx = c.idx) :
    cmdAt (updCmd s q i f) q i = (cmdAt s q i).map f := by
  simp only [cmdAt, updCmd, queue_setQueue_same]
  exact find_mapFirst _ _ (fun a ha => by simpa [h a] using ha) _

end Sys2Proof.Machine
end

