-- ==== Sys2Proof/Laws/Touches.lean ====
section
/-! SUPPORT. Laws of Touches: how frames compose, and the frames of the shared operations. -/

namespace Sys2Proof.Machine

theorem Touches.refl (l : List Part) (s : State) : Touches l s s := fun k _ => by cases k <;> rfl

theorem Touches.trans {l : List Part} {s t u : State} (h : Touches l s t) (k : Touches l t u) : Touches l s u := by
  intro p hp
  have a := h p hp
  have b := k p hp
  cases p <;> exact Eq.trans b a

theorem Touches.mono {l m : List Part} {s t : State} (h : Touches l s t) (k : ∀ p ∈ l, p ∈ m) : Touches m s t :=
  fun p hp => h p (fun hl => hp (k p hl))

/-- A fold of steps each of which touches only the listed parts. -/
theorem Touches.foldl {α : Type} {l : List Part} (f : State → α → State) (h : ∀ s a, Touches l s (f s a)) :
    ∀ (as : List α) (s : State), Touches l s (as.foldl f s)
  | [], s => Touches.refl l s
  | a :: as, s => (h s a).trans (Touches.foldl f h as (f s a))

/-! ## Updates of one part -/

theorem touches_mem (s : State) (v : Mem) : Touches [.mem] s { s with mem := v } := by
  intro k hk; cases k <;> first | rfl | simp at hk
theorem touches_regs (s : State) (v : Regs) : Touches [.regs] s { s with regs := v } := by
  intro k hk; cases k <;> first | rfl | simp at hk
theorem touches_ctr (s : State) (v : SMap Nat) : Touches [.ctr] s { s with ctr := v } := by
  intro k hk; cases k <;> first | rfl | simp at hk
theorem touches_cores (s : State) (v : SMap Core) : Touches [.cores] s { s with cores := v } := by
  intro k hk; cases k <;> first | rfl | simp at hk
theorem touches_box (s : State) (v : Box) : Touches [.box] s { s with box := v } := by
  intro k hk; cases k <;> first | rfl | simp at hk
theorem touches_fab (s : State) (v : Fab) : Touches [.fab] s { s with fab := v } := by
  intro k hk; cases k <;> first | rfl | simp at hk
theorem touches_coll (s : State) (v : Coll) : Touches [.coll] s { s with coll := v } := by
  intro k hk; cases k <;> first | rfl | simp at hk
theorem touches_dbg (s : State) (v : Dbg) : Touches [.dbg] s { s with dbg := v } := by
  intro k hk; cases k <;> first | rfl | simp at hk
theorem touches_out (s : State) (v : List Out) : Touches [.out] s { s with out := v } := by
  intro k hk; cases k <;> first | rfl | simp at hk
theorem touches_streams (s : State) (v : SMap Stream) : Touches [.streams] s { s with streams := v } := by
  intro k hk; cases k <;> first | rfl | simp at hk
theorem touches_time (s : State) (v : Time) : Touches [.time] s { s with time := v } := by
  intro k hk; cases k <;> first | rfl | simp at hk
theorem touches_pow (s : State) (v : Pow) : Touches [.pow] s { s with pow := v } := by
  intro k hk; cases k <;> first | rfl | simp at hk
theorem touches_rm (s : State) (v : Rm) : Touches [.rm] s { s with rm := v } := by
  intro k hk; cases k <;> first | rfl | simp at hk

theorem useFree_touches (s : State) : Touches [.free] s (useFree s) := by
  intro k hk; cases k <;> first | rfl | simp at hk

/-! ## Shared operations -/

theorem setCore_touches (s : State) (c : Nat) (k : Core) : Touches [.cores] s (setCore s c k) := touches_cores s _
theorem setGrp_touches (s : State) (c g : Nat) (x : Group) : Touches [.cores] s (setGrp s c g x) := touches_cores s _
theorem setTm_touches (s : State) (c g : Nat) (x : Team) : Touches [.cores] s (setTm s c g x) := touches_cores s _
theorem setReg_touches (s : State) (p o v : Nat) : Touches [.regs] s (setReg s p o v) := touches_regs s _
theorem setFence_touches (s : State) (k : Nat) (f : Fence) : Touches [.box] s (setFence s k f) := touches_box s _
theorem setCtx_touches (s : State) (c : Nat) (x : Ctx) : Touches [.box] s (setCtx s c x) := touches_box s _
theorem setQueue_touches (s : State) (q : Nat) (x : Queue) : Touches [.box] s (setQueue s q x) := touches_box s _
theorem updCmd_touches (s : State) (q i : Nat) (f : Cmd → Cmd) : Touches [.box] s (updCmd s q i f) := touches_box s _
theorem endCmd_touches (s : State) (q i a b : Nat) : Touches [.box] s (endCmd s q i a b) := touches_box s _
theorem emit_touches (s : State) (o : Out) : Touches [.out] s (emit s o) := touches_out s _

theorem emitMsg_touches (s : State) (f v : Nat) : Touches [.out] s (emitMsg s f v) := by
  unfold emitMsg; split
  · exact emit_touches s _
  · exact Touches.refl _ s

theorem count_touches (s : State) (k n : Nat) : Touches [.ctr] s (count s k n) := by
  unfold count; split
  · exact Touches.refl _ s
  · exact touches_ctr s _
theorem countBank_touches (s : State) (p o n : Nat) : Touches [.ctr] s (countBank s p o n) := count_touches s _ n
theorem countPort_touches (s : State) (p o n : Nat) : Touches [.ctr] s (countPort s p o n) := count_touches s _ n
theorem countMem_touches (s : State) (a o n : Nat) : Touches [.ctr] s (countMem s a o n) := by
  unfold countMem; split
  · exact count_touches s _ n
  · exact Touches.refl _ s
theorem pmc_touches (s : State) (c ev n cx tag : Nat) : Touches [.ctr] s (pmc s c ev n cx tag) := by
  unfold pmc
  refine Touches.foldl _ (fun s i => ?_) _ s
  dsimp only
  split
  · exact count_touches s _ n
  · exact Touches.refl _ s
theorem pmcAny_touches (s : State) (c ev n : Nat) : Touches [.ctr] s (pmcAny s c ev n) := by
  unfold pmcAny
  refine Touches.foldl _ (fun s i => ?_) _ s
  split
  · exact count_touches s _ n
  · exact Touches.refl _ s
theorem pmcG_touches (s : State) (c g ev n : Nat) : Touches [.ctr] s (pmcG s c g ev n) := pmc_touches s c ev n _ _
theorem countIssue_touches (s : State) (x : Issue) (act : List Nat) : Touches [.ctr] s (countIssue s x act) :=
  ((count_touches s _ 1).trans (pmcG_touches _ _ _ _ _)).trans (pmcG_touches _ _ _ _ _)

theorem note_touches (s : State) (a b c d : Nat) (p x : Option Nat) (t g : Nat) :
    Touches [.dbg] s (note s a b c d p x t g) := by
  unfold note; split
  · exact Touches.refl _ s
  · exact touches_dbg s _
theorem noteBox_touches (s : State) (c ev : Nat) (b : List Byte) (arg : Nat) : Touches [.dbg] s (noteBox s c ev b arg) :=
  note_touches s _ _ _ _ _ _ _ _

theorem interrupts_touches (s : State) (p : Nat) : Touches [.regs, .out] s (interrupts s p) := by
  unfold interrupts
  have h1 : ∀ v, Touches [.regs, .out] s { s with regs := v } :=
    fun v => (touches_regs s v).mono (by simp)
  have h2 : ∀ u f v, Touches [.regs, .out] s u → Touches [.regs, .out] s (emitMsg u f v) :=
    fun u f v hu => hu.trans ((emitMsg_touches u f v).mono (by simp))
  dsimp only
  split
  · split
    · exact h2 _ _ _ (h1 _)
    · exact h2 _ _ _ (h2 _ _ _ (h1 _))
  · exact h1 _
theorem raiseErr_touches (s : State) (p b : Nat) : Touches [.regs, .out] s (raiseErr s p b) :=
  ((setReg_touches s p _ _).mono (by simp)).trans (interrupts_touches _ p)
theorem aerReport_touches (s : State) (n : Nat) : Touches [.regs, .pow, .out] s (aerReport s n) :=
  ((touches_pow s _).mono (by simp)).trans ((raiseErr_touches _ 6 16).mono (by simp))
theorem emitHost_touches (s : State) (p : Nat) (o : Out) : Touches [.regs, .pow, .out] s (emitHost s p o) := by
  have e : Touches [.regs, .pow, .out] s (emit s o) := (emit_touches s o).mono (by simp)
  unfold emitHost; split
  · exact Touches.refl _ s
  · split
    · exact e.trans (aerReport_touches _ _)
    · exact e
theorem dropped_touches (s : State) : Touches [.regs, .out] s (dropped s) := raiseErr_touches s 6 4
theorem logAdd_touches (s : State) (b : List Byte) : Touches [.rm] s (logAdd s b) := touches_rm s _
theorem logOpen_touches (s : State) : Touches [.free, .rm] s (logOpen s) :=
  ((logAdd_touches s _).mono (by simp)).trans ((useFree_touches _).mono (by simp))
theorem stormErr_touches (s : State) : Touches [.free, .regs, .rm, .out] s (stormErr s) := by
  have h := (raiseErr_touches s 0xA 1).mono (m := [.free, .regs, .rm, .out]) (by simp)
  unfold stormErr; dsimp only; split
  · exact h.trans ((logOpen_touches _).mono (by simp))
  · exact h
/-- Without a storm a corrected error changes the debug block alone. -/
theorem corrected_calm (s : State) (t n l : Nat) (h : storms s t = false) : Touches [.dbg] s (corrected s t n l) := by
  unfold corrected; simp only [h]
  exact (touches_dbg s _).trans (note_touches _ _ _ _ _ _ _ _ _)
theorem corrected_touches (s : State) (t n l : Nat) : Touches [.free, .regs, .rm, .dbg, .out] s (corrected s t n l) := by
  have h := ((touches_dbg s { s.dbg with ce := SMap.put 0 s.dbg.ce t ((SMap.get 0 s.dbg.ce t + 1) % 2 ^ 64)
                                         ceWin := SMap.put [] s.dbg.ceWin t (ceWindow s t) }).trans
    (note_touches _ t n 0 0x0F none none 0 l)).mono (m := [.free, .regs, .rm, .dbg, .out]) (by simp)
  unfold corrected; dsimp only; split
  · exact h.trans ((stormErr_touches _).mono (by simp))
  · exact h

theorem releaseAll_touches (s : State) (k : Nat) (e : Bool) : Touches [.box, .cores] s (releaseAll s k e) := by
  have key : ∀ (res : Nat) (l : SMap Core) (u : State), Touches [.box, .cores] u
      (l.foldl (fun (s : State) (ck : Nat × Core) => ck.2.groups.foldl (fun (s : State) (gk : Nat × Group) =>
        if gk.2.waits.any (fun w => w.slot == k) then setGrp s ck.1 gk.1 ((grp s ck.1 gk.1).release k res) else s) s) u) := by
    intro res l u
    refine Touches.foldl _ (fun s ck => Touches.foldl _ (fun s gk => ?_) _ s) _ _
    split
    · exact (setGrp_touches s _ _ _).mono (by simp)
    · exact Touches.refl _ s
  exact Touches.trans ((touches_box s _).mono (by simp)) (key _ _ _)
theorem signal_touches (s : State) (k : Nat) (e : Bool) : Touches [.box, .cores, .dbg] s (signal s k e) :=
  (((setFence_touches s k _).mono (by simp)).trans ((note_touches _ _ _ _ _ _ _ _ _).mono (by simp))).trans
    ((releaseAll_touches _ k _).mono (by simp))

end Sys2Proof.Machine
end

