-- ==== Sys2Proof/Laws/Issue.lean ====
section
/-! SUPPORT. Laws of issue: what an instruction that issues does, once for each shape of effect. -/

namespace Sys2Proof.Machine

/-! ## Lists -/

theorem nthD_setNth_ne {α : Type} (d : α) : ∀ (l : List α) (i j : Nat) (v : α), j ≠ i →
    nthD d (setNth l i v) j = nthD d l j
  | [], _, _, _, _ => rfl
  | a :: t, 0, j, v, h => by cases j with
    | zero => exact absurd rfl h
    | succ j => rfl
  | a :: t, i + 1, j, v, h => by cases j with
    | zero => rfl
    | succ j => exact nthD_setNth_ne d t i j v (fun e => h (by rw [e]))

theorem nthD_setNth_same {α : Type} (d : α) : ∀ (l : List α) (i : Nat) (v : α), i < l.length →
    nthD d (setNth l i v) i = v
  | [], _, _, h => by simp at h
  | _ :: _, 0, _, _ => rfl
  | _ :: t, i + 1, v, h => nthD_setNth_same d t i v (by simpa using h)

@[simp] theorem length_setNth {α : Type} : ∀ (l : List α) (i : Nat) (v : α), (setNth l i v).length = l.length
  | [], _, _ => rfl
  | _ :: _, 0, _ => rfl
  | _ :: t, i + 1, v => by simp [setNth, length_setNth t i v]

theorem nthD_of_length {α : Type} (d : α) : ∀ (l : List α) (i : Nat), l.length ≤ i → nthD d l i = d
  | [], _, _ => rfl
  | _ :: t, 0, h => by simp at h
  | _ :: t, i + 1, h => nthD_of_length d t i (by simpa using h)

theorem mem_upTo : ∀ (n a i : Nat), i ∈ upTo a n ↔ a ≤ i ∧ i < a + n
  | 0, a, i => by simp [upTo]
  | n + 1, a, i => by simp [upTo, mem_upTo n (a + 1) i]; omega

theorem nodup_upTo : ∀ (n a : Nat), (upTo a n).Nodup
  | 0, _ => List.nodup_nil
  | n + 1, a => by
    simp only [upTo, List.nodup_cons, mem_upTo]
    exact ⟨by omega, nodup_upTo n (a + 1)⟩

theorem mem_lanes (k : Nat) : k ∈ lanes ↔ k < 32 := by simp [lanes, mem_upTo]

/-! ## Registers -/

theorem v_setV (g : Group) (t r k j : Nat) (x : W32) (hj : j < 256) (hr : r < 256) :
    (g.setV t r x).v k j = if k = t ∧ j = r ∧ r ≠ 255 then x else g.v k j := by
  unfold Group.setV
  by_cases h : r = 255
  · simp [h]
  · simp only [h, if_false, Group.v]
    by_cases h5 : j = 255
    · subst h5; simp [Ne.symm h]
    · simp only [h5, if_false, SMap.get_put]
      by_cases hk : k = t ∧ j = r
      · simp [hk.1, hk.2]; intro e; exact absurd e h
      · have : ¬ 256 * k + j = 256 * t + r := by omega
        simp [this]
        intro a b; exact absurd ⟨a, b⟩ hk

@[simp] theorem setV_threads (g : Group) (t r : Nat) (x : W32) : (g.setV t r x).threads = g.threads := by
  unfold Group.setV; split <;> rfl
@[simp] theorem setV_ureg (g : Group) (t r : Nat) (x : W32) : (g.setV t r x).ureg = g.ureg := by
  unfold Group.setV; split <;> rfl
@[simp] theorem setV_p (g : Group) (t r k j : Nat) (x : W32) : (g.setV t r x).p k j = g.p k j := by
  simp [Group.p, Group.thr]
theorem setV_only (g : Group) (t r : Nat) (x : W32) :
    g.setV t r x = { g with vreg := (g.setV t r x).vreg, vpoison := (g.setV t r x).vpoison } := by
  unfold Group.setV; split <;> rfl

/-! ## What two groups share -/

/-- Groups that differ in vector registers alone. -/
def Group.VecOnly (g h : Group) : Prop := h = { g with vreg := h.vreg, vpoison := h.vpoison }

theorem Group.VecOnly.refl (g : Group) : g.VecOnly g := rfl
theorem Group.VecOnly.trans {g h i : Group} (a : g.VecOnly h) (b : h.VecOnly i) : g.VecOnly i := by
  unfold Group.VecOnly at *
  rw [b, a]
theorem Group.VecOnly.threads {g h : Group} (a : g.VecOnly h) : h.threads = g.threads := by rw [a]
theorem Group.VecOnly.ureg {g h : Group} (a : g.VecOnly h) : h.ureg = g.ureg := by rw [a]
theorem setV_vecOnly (g : Group) (t r : Nat) (x : W32) : g.VecOnly (g.setV t r x) := setV_only g t r x

theorem setDst_vecOnly (f : Fields) (g : Group) (t n v : Nat) : g.VecOnly (setDst f g t n v) := by
  unfold setDst
  split
  · exact setV_vecOnly _ _ _ _
  · unfold Group.setV64
    split
    · exact Group.VecOnly.refl g
    · exact (setV_vecOnly _ _ _ _).trans (setV_vecOnly _ _ _ _)

/-- A write to DST of one lane: its registers hold the value, every other register what it held. -/
theorem v_setDst (f : Fields) (g : Group) (t n v k j : Nat) (hn : n = 1 ∨ n = 2) (hd : f.dst.toNat ≠ 255 → f.dst.toNat + n ≤ 255)
    (hj : j < 256) :
    (setDst f g t n v).v k j = if k = t ∧ f.dst.toNat ≠ 255 ∧ f.dst.toNat ≤ j ∧ j < f.dst.toNat + n
      then BitVec.ofNat 32 (v / 2 ^ (32 * (j - f.dst.toNat))) else g.v k j := by
  have hlt : f.dst.toNat < 256 := f.dst.isLt
  rcases hn with rfl | rfl
  · simp only [setDst, if_true]
    rw [v_setV g t _ k j _ hj hlt]
    by_cases h : k = t ∧ j = f.dst.toNat ∧ f.dst.toNat ≠ 255
    · rw [if_pos h, if_pos ⟨h.1, h.2.2, by omega, by omega⟩, h.2.1]; simp
    · rw [if_neg h, if_neg (fun q => h ⟨q.1, by omega, q.2.1⟩)]
  · have e21 : ¬ (2 = 1) := by decide
    simp only [setDst, e21, if_false, Group.setV64]
    by_cases h5 : f.dst.toNat = 255
    · simp [h5]
    · simp only [h5, if_false]
      have hd := hd h5
      rw [v_setV _ t _ k j _ hj (by omega), v_setV g t _ k j _ hj hlt]
      by_cases hk : k = t
      · by_cases hj1 : j = f.dst.toNat + 1
        · have e : f.dst.toNat + 1 - f.dst.toNat = 1 := by omega
          have c : f.dst.toNat + 1 ≠ 255 := by omega
          simp only [hk, hj1, true_and, h5, not_false_eq_true, ne_eq, c, if_true, Nat.le_succ, Nat.lt_succ_self, e]
          apply BitVec.eq_of_toNat_eq
          simp only [BitVec.toNat_setWidth, BitVec.toNat_ushiftRight, BitVec.toNat_ofNat, Nat.shiftRight_eq_div_pow]
          simp
          omega
        · by_cases hj0 : j = f.dst.toNat
          · have c : ¬ (f.dst.toNat = f.dst.toNat + 1) := by omega
            have d : f.dst.toNat < f.dst.toNat + 2 := by omega
            simp only [hk, hj0, true_and, h5, not_false_eq_true, ne_eq, c, false_and, if_false, if_true, le_refl, d, Nat.sub_self]
            apply BitVec.eq_of_toNat_eq
            simp only [BitVec.toNat_setWidth, BitVec.toNat_ofNat]
            omega
          · have c : ¬ (f.dst.toNat ≤ j ∧ j < f.dst.toNat + 2) := by omega
            simp only [hj1, hj0, false_and, and_false, if_false, c]
      · simp only [hk, false_and, if_false]

/-! ## Operands of a lane -/

/-- Two groups hold the same operands for lane `k`. -/
structure Group.SameLane (k : Nat) (g h : Group) : Prop where
  v     : ∀ j < 256, h.v k j = g.v k j
  ureg  : h.ureg = g.ureg
  preds : (h.thr k).preds = (g.thr k).preds

theorem Group.SameLane.refl (k : Nat) (g : Group) : g.SameLane k g := ⟨fun _ _ => rfl, rfl, rfl⟩

theorem regVal_congr {k : Nat} {g h : Group} (e : g.SameLane k h) (u : Bool) (r n : Nat) (hr : r < 256) :
    regVal h k u r n = regVal g k u r n := by
  have hu : ∀ r, h.u r = g.u r := fun r => by simp only [Group.u, e.ureg]
  have h64 : h.v64 k r = g.v64 k r := by
    unfold Group.v64
    split
    · rfl
    · rw [e.v (r + 1) (by omega), e.v r hr]
  unfold regVal
  rw [hu, e.v r hr, h64]

theorem srcA_congr {k : Nat} {g h : Group} (e : g.SameLane k h) (sh : Shape) (f : Fields) (n : Nat) :
    srcA sh f h k n = srcA sh f g k n := by
  unfold srcA; rw [regVal_congr e _ _ _ f.srca.isLt]
theorem srcB_congr {k : Nat} {g h : Group} (e : g.SameLane k h) (sh : Shape) (f : Fields) (n : Nat) :
    srcB sh f h k n = srcB sh f g k n := by
  unfold srcB; rw [regVal_congr e _ _ _ f.srcb.isLt]
theorem srcC_congr {k : Nat} {g h : Group} (e : g.SameLane k h) (f : Fields) (n : Nat) :
    srcC f h k n = srcC f g k n := by
  unfold srcC; rw [regVal_congr e _ _ _ f.srcc.isLt]
theorem p_congr {k : Nat} {g h : Group} (e : g.SameLane k h) (j : Nat) : h.p k j = g.p k j := by
  simp only [Group.p, e.preds]

/-! ## Lane by lane -/

/-- Lanes that each write DST from their own operands: each holds its value, everything else is as it was. -/
theorem foldl_setDst (f : Fields) (n : Nat) (val : Group → Nat → Nat) (hn : n = 1 ∨ n = 2)
    (hd : f.dst.toNat ≠ 255 → f.dst.toNat + n ≤ 255)
    (hv : ∀ g h k, g.SameLane k h → val h k = val g k) :
    ∀ (act : List Nat) (g : Group), act.Nodup →
      g.VecOnly (act.foldl (fun g k => setDst f g k n (val g k)) g) ∧
      ∀ k j, j < 256 → (act.foldl (fun g k => setDst f g k n (val g k)) g).v k j =
        if k ∈ act ∧ f.dst.toNat ≠ 255 ∧ f.dst.toNat ≤ j ∧ j < f.dst.toNat + n
        then BitVec.ofNat 32 (val g k / 2 ^ (32 * (j - f.dst.toNat))) else g.v k j
  | [], g, _ => ⟨Group.VecOnly.refl g, fun k j _ => by simp⟩
  | a :: l, g, hl => by
    rw [List.nodup_cons] at hl
    have ih := foldl_setDst f n val hn hd hv l (setDst f g a n (val g a)) hl.2
    simp only [List.foldl_cons]
    refine ⟨(setDst_vecOnly f g a n _).trans ih.1, fun k j hj => ?_⟩
    rw [ih.2 k j hj]
    by_cases hk : k ∈ l
    · have ka : k ≠ a := fun e => hl.1 (e ▸ hk)
      have same : g.SameLane k (setDst f g a n (val g a)) :=
        ⟨fun i hi => by rw [v_setDst f g a n _ k i hn hd hi]; simp [ka],
         (setDst_vecOnly f g a n _).ureg, by simp only [Group.thr, (setDst_vecOnly f g a n _).threads]⟩
      simp only [hk, true_and, List.mem_cons, or_true]
      rw [hv _ _ k same, same.v j hj]
    · simp only [hk, false_and, if_false, List.mem_cons, or_false]
      rw [v_setDst f g a n _ k j hn hd hj]
      by_cases ka : k = a
      · simp only [ka, true_and]
      · simp only [ka, false_and, if_false]

/-! ## The set moves on -/

/-- Groups that differ in threads and in the marks of a step alone. -/
theorem aged_only (g : Group) (set : List Nat) :
    g.aged set = { g with threads := (g.aged set).threads, stepReq := none, passBp := (g.aged set).passBp
                          stepping := (g.aged set).stepping, issues := g.issues + 1 } := rfl

theorem goto_only (f : Nat → W64) : ∀ (l : List Nat) (g : Group),
    g.goto l f = { g with threads := (g.goto l f).threads }
  | [], _ => rfl
  | a :: l, g => by
    have ih := goto_only f l (g.setThr a { g.thr a with pc := f a })
    simp only [Group.goto, List.foldl_cons] at ih ⊢
    rw [ih]; rfl

@[simp] theorem goto_vreg (l : List Nat) (f : Nat → W64) (g : Group) : (g.goto l f).vreg = g.vreg := by rw [goto_only]
@[simp] theorem goto_ureg (l : List Nat) (f : Nat → W64) (g : Group) : (g.goto l f).ureg = g.ureg := by rw [goto_only]
@[simp] theorem aged_vreg (g : Group) (l : List Nat) : (g.aged l).vreg = g.vreg := rfl
@[simp] theorem aged_ureg (g : Group) (l : List Nat) : (g.aged l).ureg = g.ureg := rfl

theorem nthD_map {α β : Type} (d : α) (e : β) (f : α → β) : ∀ (l : List α) (i : Nat), i < l.length →
    nthD e (l.map f) i = f (nthD d l i)
  | [], _, h => by simp at h
  | _ :: _, 0, _ => rfl
  | _ :: t, i + 1, h => nthD_map d e f t i (by simpa using h)

theorem nthD_upTo : ∀ (n a i : Nat), i < n → nthD 0 (upTo a n) i = a + i
  | 0, _, _, h => by omega
  | n + 1, a, 0, _ => rfl
  | n + 1, a, i + 1, h => by
    simp only [upTo, nthD]; rw [nthD_upTo n (a + 1) i (by omega)]; omega

theorem length_upTo : ∀ (n a : Nat), (upTo a n).length = n
  | 0, _ => rfl
  | n + 1, a => by simp [upTo, length_upTo n (a + 1)]

theorem nthD_take {α : Type} (d : α) : ∀ (l : List α) (n i : Nat), nthD d (l.take n) i = if i < n then nthD d l i else d
  | [], n, i => by cases n <;> simp [nthD]
  | a :: t, 0, i => by simp [nthD]
  | a :: t, n + 1, 0 => by simp [nthD]
  | a :: t, n + 1, i + 1 => by simp [nthD, nthD_take d t n i]

/-- The threads after an issue: ages and marks aside, each is what it was. -/
theorem thr_aged (g : Group) (set : List Nat) (k : Nat) (hk : k < 32) :
    ((g.aged set).thr k).pc = (g.thr k).pc ∧ ((g.aged set).thr k).stat = (g.thr k).stat ∧
      ((g.aged set).thr k).preds = (g.thr k).preds := by
  have h32 : k < lanes.length := by simpa [lanes, length_upTo] using hk
  simp only [Group.aged, Group.thr, nthD_take]
  by_cases hl : k < g.threads.length
  · simp only [hl, if_true]
    rw [nthD_map 0 Thread.gone _ lanes k h32]
    have : nthD 0 lanes k = k := by simp [lanes, nthD_upTo 32 0 k hk]
    rw [this]
    split
    · exact ⟨rfl, rfl, rfl⟩
    · by_cases hs : (nthD Thread.gone g.threads k).stat = .running <;> simp [hs]
  · simp only [hl, if_false]
    rw [nthD_of_length Thread.gone g.threads k (by omega)]
    exact ⟨rfl, rfl, rfl⟩

theorem thr_setThr (g : Group) (a k : Nat) (y : Thread) (ha : a < g.threads.length) :
    (g.setThr a y).thr k = if k = a then y else g.thr k := by
  simp only [Group.thr, Group.setThr]
  split
  · rename_i h; rw [h, nthD_setNth_same _ _ _ _ ha]
  · rename_i h; rw [nthD_setNth_ne _ _ _ _ _ h]

theorem thr_goto (f : Nat → W64) : ∀ (l : List Nat) (g : Group) (k : Nat), (∀ a ∈ l, a < g.threads.length) →
    (g.goto l f).thr k = if k ∈ l then { g.thr k with pc := f k } else g.thr k
  | [], g, k, _ => by simp [Group.goto]
  | a :: l, g, k, h => by
    have ha := h a (List.mem_cons_self ..)
    have ih := thr_goto f l (g.setThr a { g.thr a with pc := f a }) k
      (fun b hb => by simpa [Group.setThr] using h b (List.mem_cons_of_mem _ hb))
    simp only [Group.goto, List.foldl_cons] at ih ⊢
    rw [ih, thr_setThr g a k _ ha]
    by_cases ka : k = a
    · subst ka; by_cases kl : k ∈ l <;> simp [kl]
    · by_cases kl : k ∈ l <;> simp [kl, ka]

/-- The threads of the set at an address: below 32, running, and there. -/
theorem mem_setAt (g : Group) (pc : W64) (k : Nat) :
    k ∈ g.setAt pc ↔ k < 32 ∧ (g.thr k).stat = .running ∧ (g.thr k).pc = pc := by
  simp [Group.setAt, mem_lanes, List.mem_filter]

theorem nodup_setAt (g : Group) (pc : W64) : (g.setAt pc).Nodup := (nodup_upTo 32 0).filter _

/-- A running thread is listed. -/
theorem lt_of_running (g : Group) (k : Nat) (h : (g.thr k).stat = .running) : k < g.threads.length := by
  by_contra hl
  rw [Group.thr, nthD_of_length _ _ _ (by omega)] at h
  simp [Thread.gone] at h

/-- The gate answers the set at the address. -/
theorem gate_set {s : State} {x : Issue} {set : List Nat} (h : gate s x = some set) :
    set = (grp s x.core x.gslot).setAt x.pc := by
  unfold gate at h
  dsimp only at h
  rw [Option.ite_none_right_eq_some] at h
  exact (Option.some.inj h.2).symm

/-- An instruction that issues: the set moves on, then the effect. -/
theorem issueBad_next {sh : Shape} {ok : Bool} {bad : Group → List Nat → List Nat} {x : Issue} {s : State} {set act : List Nat}
    (h : IssuesBad sh ok bad x s set act) (ready : Bool) (hr : ready = true) (body : State → List Nat → List Nat → State) :
    issueBad sh ok ready bad x s body = .next (body (advance s x set act) set act) := by
  have e : pre sh ok ready bad x s = .go set act := by
    unfold pre
    rw [h.gate]
    dsimp only
    rw [h.legal, h.own, ← h.acts, h.settled, h.clean, hr]
    rfl
  unfold issueBad
  rw [e]

theorem issue_next {sh : Shape} {ok : Bool} {x : Issue} {s : State} {set act : List Nat} (h : Issues sh ok x s set act)
    (ready : Bool) (hr : ready = true) (body : State → List Nat → List Nat → State) :
    issue sh ok ready x s body = .next (body (advance s x set act) set act) := issueBad_next h ready hr body

/-- An issue slot's note changes no group and no other core. -/
theorem core_slotServed (s : State) (c gs k : Nat) :
    core (slotServed s c gs) k = if k = c then { core s c with lastIss := SMap.put 0 (core s c).lastIss (gs % 4) (gs / 4 + 1) }
      else core s k := by
  unfold slotServed
  split
  · rename_i h; rw [h, core_setCore_same]
  · rename_i h; rw [core_setCore_ne _ _ _ _ h]
theorem grp_slotServed (s : State) (c gs k g : Nat) : grp (slotServed s c gs) k g = grp s k g := by
  simp only [grp, core_slotServed]
  split
  · rename_i h; rw [h]
  · rfl

/-- The group after the set has moved on. -/
theorem grp_advance (s : State) (x : Issue) (set act : List Nat) :
    grp (advance s x set act) x.core x.gslot =
      ((grp s x.core x.gslot).aged set).goto set (fun _ => x.pc + insLen x.f) := by
  unfold advance
  dsimp only
  rw [grp_congr (countIssue_touches _ x act .cores (by simp)), grp_slotServed, grp_setGrp_same]

theorem length_aged (g : Group) (set : List Nat) (a : Nat) (ha : a < 32) (h : a < g.threads.length) :
    a < (g.aged set).threads.length := by
  simp only [Group.aged, List.length_take, List.length_map]
  have : lanes.length = 32 := by simp [lanes, length_upTo]
  omega

theorem advance_onlyGroup (s : State) (x : Issue) (set act : List Nat) : OnlyGroup x s (advance s x set act) := by
  have hc := countIssue_touches (slotServed (setGrp s x.core x.gslot (((grp s x.core x.gslot).aged set).goto set
    (fun _ => x.pc + insLen x.f))) x.core x.gslot) x act
  have cores := hc .cores (by simp)
  refine ⟨?_, ?_, ?_, ?_⟩
  · exact Touches.trans ((setGrp_touches s _ _ _).mono (by simp))
      (Touches.trans ((setCore_touches _ _ _).mono (by simp)) (hc.mono (by simp)))
  · intro c hne
    exact (core_congr cores c).trans (by rw [core_slotServed, if_neg hne, core_setGrp_ne s _ _ _ _ hne])
  · intro g hne
    exact (grp_congr cores _ g).trans (by rw [grp_slotServed, grp_setGrp_ne s _ _ _ _ hne])
  · rw [show core (advance s x set act) x.core = _ from core_congr cores x.core, core_slotServed, if_pos rfl, core_setGrp_same]; rfl

/-- What the move of a set leaves of its group, thread by thread. -/
theorem advance_thr {s : State} {x : Issue} {set : List Nat} (act : List Nat)
    (hs : set = (grp s x.core x.gslot).setAt x.pc) (k : Nat) (hk : k < 32) :
    ((grp (advance s x set act) x.core x.gslot).thr k).pc =
        (if k ∈ set then x.pc + insLen x.f else ((grp s x.core x.gslot).thr k).pc)
      ∧ ((grp (advance s x set act) x.core x.gslot).thr k).stat = ((grp s x.core x.gslot).thr k).stat
      ∧ ((grp (advance s x set act) x.core x.gslot).thr k).preds = ((grp s x.core x.gslot).thr k).preds := by
  rw [grp_advance, thr_goto]
  · have h := thr_aged (grp s x.core x.gslot) set k hk
    split
    · exact ⟨rfl, h.2.1, h.2.2⟩
    · exact ⟨h.1, h.2.1, h.2.2⟩
  · intro a ha
    rw [hs, mem_setAt] at ha
    exact length_aged _ _ _ ha.1 (lt_of_running _ _ ha.2.1)

theorem advance_group (s : State) (x : Issue) (set act : List Nat) :
    grp (advance s x set act) x.core x.gslot =
      { grp s x.core x.gslot with
        threads := (grp (advance s x set act) x.core x.gslot).threads, stepReq := none
        passBp := (grp (advance s x set act) x.core x.gslot).passBp
        stepping := (grp (advance s x set act) x.core x.gslot).stepping
        issues := (grp s x.core x.gslot).issues + 1 } := by
  rw [grp_advance, goto_only, aged_only]

theorem advance_vreg (s : State) (x : Issue) (set act : List Nat) :
    (grp (advance s x set act) x.core x.gslot).vreg = (grp s x.core x.gslot).vreg := by
  rw [grp_advance, goto_vreg, aged_vreg]
theorem advance_ureg (s : State) (x : Issue) (set act : List Nat) :
    (grp (advance s x set act) x.core x.gslot).ureg = (grp s x.core x.gslot).ureg := by
  rw [grp_advance, goto_ureg, aged_ureg]

/-- A change of the group after the set has moved on. -/
theorem setGrp_onlyGroup {x : Issue} {s t : State} (h : OnlyGroup x s t) (g : Group) :
    OnlyGroup x s (setGrp t x.core x.gslot g) := by
  refine ⟨h.parts.trans ((setGrp_touches t _ _ _).mono (by simp)), fun c hc => ?_, fun i hi => ?_, ?_⟩
  · rw [core_setGrp_ne _ _ _ _ _ hc, h.cores c hc]
  · rw [grp_setGrp_ne _ _ _ _ _ hi, h.groups i hi]
  · rw [core_setGrp_same, h.rest]; rfl

/-- The acting lanes are among the set. -/
theorem acting_sub (f : Fields) (g : Group) (set : List Nat) (k : Nat) (h : k ∈ acting f g set) : k ∈ set := by
  unfold acting at h
  split at h
  · exact (List.mem_filter.mp h).1
  · exact h

theorem acting_nodup (f : Fields) (g : Group) (set : List Nat) (h : set.Nodup) : (acting f g set).Nodup := by
  unfold acting
  split
  · exact h.filter _
  · exact h

/-- A legal vector destination lies below v255. -/
theorem dst_lt {sh : Shape} {ok : Bool} {x : Issue} {s : State} {set act : List Nat} (h : Issues sh ok x s set act) (n : Nat)
    (hd : sh.d = .v n) (hne : x.f.dst.toNat ≠ 255) : x.f.dst.toNat + n ≤ 255 := by
  have hl := h.legal
  simp only [legal, Bool.and_eq_true] at hl
  have hdst := hl.1.1.1.2
  simp only [dstOk, hd, vecOk, Bool.or_eq_true, beq_iff_eq, decide_eq_true_eq] at hdst
  rcases hdst with e | e
  · exact absurd e hne
  · omega

/-- An instruction that writes a value of its own to DST of each acting lane. -/
theorem issueLanes_vec {sh : Shape} {ok : Bool} {x : Issue} {s : State} {set act : List Nat} (h : Issues sh ok x s set act)
    (n : Nat) (val : Group → Nat → Nat) (hn : n = 1 ∨ n = 2) (hd : sh.d = .v n)
    (hv : ∀ g h k, g.SameLane k h → val h k = val g k) :
    ∃ t, issueLanes sh ok x s (fun g k => setDst x.f g k n (val g k)) = .next t ∧
      WritesVec x set act x.f.dst.toNat n s t ∧
      ∀ k ∈ act, ∀ i < n, x.f.dst.toNat ≠ 255 → (grp t x.core x.gslot).v k (x.f.dst.toNat + i) =
        BitVec.ofNat 32 (val (grp s x.core x.gslot) k / 2 ^ (32 * i)) := by
  have hset := gate_set h.gate
  have nd : act.Nodup := by
    rw [h.acts]; exact acting_nodup _ _ _ (hset ▸ nodup_setAt _ _)
  have lim := dst_lt h n hd
  have key := foldl_setDst x.f n val hn lim hv act (grp (advance s x set act) x.core x.gslot) nd
  have adv := advance_group s x set act
  have thr := advance_thr (x := x) act hset
  have vadv : ∀ k j, (grp (advance s x set act) x.core x.gslot).v k j = (grp s x.core x.gslot).v k j := by
    intro k j
    simp only [Group.v, advance_vreg]
  refine ⟨_, issue_next h true rfl _, ⟨?_, ?_, ?_, ?_, ?_, ?_⟩, ?_⟩
  · exact setGrp_onlyGroup (advance_onlyGroup s x set act) _
  · simp only [OnlyRegs, grp_setGrp_same]
    rw [key.1, adv]
  · intro k hk
    simp only [grp_setGrp_same, Group.thr, key.1.threads]
    exact ⟨(thr k hk).1, (thr k hk).2.1⟩
  · intro k j hk hj hno
    rw [grp_setGrp_same, key.2 k j hj, if_neg hno, vadv]
  · rw [UniKept, grp_setGrp_same, key.1.ureg, advance_ureg]
  · intro k j hk hj _
    simp only [grp_setGrp_same, Group.p, Group.thr, key.1.threads]
    exact congrArg (fun p : BitVec 8 => p.getLsbD j) (thr k hk).2.2
  · intro k hk i hi hne
    have kl : k < 32 := by
      have := acting_sub x.f (grp s x.core x.gslot) set k (by rw [← h.acts]; exact hk)
      rw [hset, mem_setAt] at this
      exact this.1
    have same : (grp s x.core x.gslot).SameLane k (grp (advance s x set act) x.core x.gslot) :=
      ⟨fun j _ => vadv k j, advance_ureg s x set act, (thr k kl).2.2⟩
    rw [grp_setGrp_same, key.2 k (x.f.dst.toNat + i) (by have := lim hne; omega),
      if_pos ⟨hk, hne, by omega, by omega⟩, Nat.add_sub_cancel_left, hv _ _ k same]

/-! ## Uniform results -/

theorem u_setU (g : Group) (r j : Nat) (y : W64) (hr : r ≠ 255) : (g.setU r y).u j = if j = r then y else g.u j := by
  simp only [Group.u, Group.setU, SMap.get_put]
  by_cases h : j = 255
  · simp [h, Ne.symm hr]
  · simp [h]

/-- A uniform instruction that writes one uniform register. -/
theorem issueUni_next {sh : Shape} {ok : Bool} {x : Issue} {s : State} {set act : List Nat} (h : Issues sh ok x s set act)
    (hd : sh.d = .u) (val : State → Group → W64) :
    ∃ t, issueUni sh ok x s val = .next t ∧ WritesUni x set x.f.dst.toNat s t ∧
      (grp t x.core x.gslot).u x.f.dst.toNat =
        val (advance s x set act) (grp (advance s x set act) x.core x.gslot) := by
  have hset := gate_set h.gate
  have adv := advance_group s x set act
  have thr := advance_thr (x := x) act hset
  have hne : x.f.dst.toNat ≠ 255 := by
    have hl := h.legal
    simp only [legal, Bool.and_eq_true] at hl
    have hdst := hl.1.1.1.2
    simp only [dstOk, hd, decide_eq_true_eq] at hdst
    omega
  refine ⟨_, issue_next h true rfl _, ⟨?_, ?_, ?_, ?_, ?_, ?_⟩, ?_⟩
  · exact setGrp_onlyGroup (advance_onlyGroup s x set act) _
  · simp only [OnlyRegs, grp_setGrp_same, Group.setU]
    rw [adv]
  · intro k hk
    simp only [grp_setGrp_same, Group.thr, Group.setU]
    exact ⟨(thr k hk).1, (thr k hk).2.1⟩
  · intro k j _ _ _
    simp only [grp_setGrp_same, Group.v, Group.setU, advance_vreg]
  · intro j hj
    rw [grp_setGrp_same, u_setU _ _ _ _ hne, if_neg hj]
    simp only [Group.u, advance_ureg]
  · intro k j hk _ _
    simp only [grp_setGrp_same, Group.p, Group.thr, Group.setU]
    exact congrArg (fun p : BitVec 8 => p.getLsbD j) (thr k hk).2.2
  · rw [grp_setGrp_same, u_setU _ _ _ _ hne, if_pos rfl]

/-! ## Predicate results -/

theorem getLsbD_one (p j : Nat) (hp : p < 8) (hj : j < 8) : (BitVec.ofNat 8 (2 ^ p)).getLsbD j = decide (j = p) := by
  have h : ∀ p j : Fin 8, (BitVec.ofNat 8 (2 ^ p.val)).getLsbD j.val = decide (j.val = p.val) := by decide
  exact h ⟨p, hp⟩ ⟨j, hj⟩

theorem setP_only (g : Group) (t p : Nat) (b : Bool) : g.setP t p b = { g with threads := (g.setP t p b).threads } := rfl

theorem length_setP (g : Group) (t p : Nat) (b : Bool) : (g.setP t p b).threads.length = g.threads.length := by
  simp [Group.setP, Group.setThr]

theorem thr_setP (g : Group) (t p k : Nat) (b : Bool) (ht : t < g.threads.length) :
    ((g.setP t p b).thr k).pc = (g.thr k).pc ∧ ((g.setP t p b).thr k).stat = (g.thr k).stat ∧
      (k ≠ t → (g.setP t p b).thr k = g.thr k) := by
  simp only [Group.setP]
  rw [thr_setThr g t k _ ht]
  by_cases h : k = t
  · simp [h]
  · simp [h]

theorem p_setP (g : Group) (t p k j : Nat) (b : Bool) (ht : t < g.threads.length) (hp : p < 8) (hj : j < 8) :
    (g.setP t p b).p k j = if k = t ∧ j = p then b else g.p k j := by
  simp only [Group.setP, Group.p]
  rw [thr_setThr g t k _ ht]
  by_cases h : k = t
  · have one := getLsbD_one p j hp hj
    by_cases e : j = p
    · cases b <;> simp only [h, e, if_true, Bool.false_eq_true, if_false, and_self] <;> subst e
      · rw [BitVec.getLsbD_and, BitVec.getLsbD_not, one]; simp
      · rw [BitVec.getLsbD_or, one]; simp
    · cases b <;> simp only [h, e, if_true, Bool.false_eq_true, if_false, and_false]
      · rw [BitVec.getLsbD_and, BitVec.getLsbD_not, one]; simp [e, hj]
      · rw [BitVec.getLsbD_or, one]; simp [e]
  · rw [if_neg h, if_neg (fun q => h q.1)]

/-- Lanes that each write predicate `p`. -/
theorem foldl_setP (p : Nat) (val : Group → Nat → Bool) (hp : p < 8) (hv : ∀ g h k, g.SameLane k h → val h k = val g k) :
    ∀ (act : List Nat) (g : Group), act.Nodup → (∀ k ∈ act, k < g.threads.length) →
      (act.foldl (fun g k => g.setP k p (val g k)) g =
        { g with threads := (act.foldl (fun g k => g.setP k p (val g k)) g).threads }) ∧
      ∀ k, ((act.foldl (fun g k => g.setP k p (val g k)) g).thr k).pc = (g.thr k).pc ∧
        ((act.foldl (fun g k => g.setP k p (val g k)) g).thr k).stat = (g.thr k).stat ∧
        ∀ j < 8, (act.foldl (fun g k => g.setP k p (val g k)) g).p k j = if k ∈ act ∧ j = p then val g k else g.p k j
  | [], g, _, _ => ⟨rfl, fun k => ⟨rfl, rfl, fun j _ => by simp⟩⟩
  | a :: l, g, hl, hlen => by
    rw [List.nodup_cons] at hl
    have ha := hlen a (List.mem_cons_self ..)
    have ih := foldl_setP p val hp hv l (g.setP a p (val g a)) hl.2
      (fun k hk => by rw [length_setP]; exact hlen k (List.mem_cons_of_mem _ hk))
    simp only [List.foldl_cons]
    refine ⟨?_, fun k => ⟨?_, ?_, fun j hj => ?_⟩⟩
    · rw [ih.1]; rfl
    · rw [(ih.2 k).1, (thr_setP g a p k _ ha).1]
    · rw [(ih.2 k).2.1, (thr_setP g a p k _ ha).2.1]
    · rw [(ih.2 k).2.2 j hj, p_setP g a p k j _ ha hp hj]
      by_cases hk : k ∈ l
      · have ka : k ≠ a := fun e => hl.1 (e ▸ hk)
        have same : g.SameLane k (g.setP a p (val g a)) :=
          ⟨fun i _ => rfl, rfl, by rw [(thr_setP g a p k _ ha).2.2 ka]⟩
        simp only [hk, true_and, List.mem_cons, or_true, hv _ _ k same, ka, false_and, if_false]
      · by_cases ka : k = a
        · subst ka; simp [hk]
        · simp [hk, ka]

/-- An instruction that writes predicate DST of each acting lane. -/
theorem issueLanes_pred {sh : Shape} {ok : Bool} {x : Issue} {s : State} {set act : List Nat} (h : Issues sh ok x s set act)
    (val : Group → Nat → Bool) (hd : sh.d = .p) (hv : ∀ g h k, g.SameLane k h → val h k = val g k) :
    ∃ t, issueLanes sh ok x s (fun g k => g.setP k x.f.dst.toNat (val g k)) = .next t ∧
      WritesPred x set act x.f.dst.toNat s t ∧
      ∀ k ∈ act, (grp t x.core x.gslot).p k x.f.dst.toNat = val (grp s x.core x.gslot) k := by
  have hset := gate_set h.gate
  have nd : act.Nodup := by
    rw [h.acts]; exact acting_nodup _ _ _ (hset ▸ nodup_setAt _ _)
  have hp : x.f.dst.toNat < 8 := by
    have hl := h.legal
    simp only [legal, Bool.and_eq_true] at hl
    have hdst := hl.1.1.1.2
    simpa only [dstOk, hd, decide_eq_true_eq] using hdst
  have inset : ∀ k ∈ act, k ∈ (grp s x.core x.gslot).setAt x.pc := by
    intro k hk
    rw [← hset]
    exact acting_sub x.f (grp s x.core x.gslot) set k (by rw [← h.acts]; exact hk)
  have thr := advance_thr (x := x) act hset
  have len : ∀ k ∈ act, k < (grp (advance s x set act) x.core x.gslot).threads.length := by
    intro k hk
    have hk := (mem_setAt _ _ _).mp (inset k hk)
    apply lt_of_running
    rw [(thr k hk.1).2.1]; exact hk.2.1
  have key := foldl_setP x.f.dst.toNat val hp hv act (grp (advance s x set act) x.core x.gslot) nd len
  have adv := advance_group s x set act
  refine ⟨_, issue_next h true rfl _, ⟨?_, ?_, ?_, ?_, ?_, ?_⟩, ?_⟩
  · exact setGrp_onlyGroup (advance_onlyGroup s x set act) _
  · simp only [OnlyRegs, grp_setGrp_same]
    rw [key.1, adv]
  · intro k hk
    rw [grp_setGrp_same, (key.2 k).1, (key.2 k).2.1]
    exact ⟨(thr k hk).1, (thr k hk).2.1⟩
  · intro k j _ _ _
    rw [grp_setGrp_same, key.1]
    simp only [Group.v, advance_vreg]
  · rw [UniKept, grp_setGrp_same, key.1]
    dsimp only
    rw [advance_ureg]
  · intro k j hk hj hno
    rw [grp_setGrp_same, (key.2 k).2.2 j hj, if_neg (fun q => hno ⟨q.1, by rw [q.2]⟩)]
    exact congrArg (fun p : BitVec 8 => p.getLsbD j) (thr k hk).2.2
  · intro k hk
    have kl := ((mem_setAt _ _ _).mp (inset k hk)).1
    rw [grp_setGrp_same, (key.2 k).2.2 _ hp, if_pos ⟨hk, rfl⟩]
    exact hv _ _ k ⟨fun j _ => by simp only [Group.v, advance_vreg], advance_ureg s x set act, (thr k kl).2.2⟩

/-! ## Illegal encodings -/

/-- An illegal instruction does nothing: ILLEGAL is raised for the whole set (R67). -/
theorem issueBad_illegal {sh : Shape} {ok rd : Bool} {bad : Group → List Nat → List Nat} {x : Issue} {s : State} {set : List Nat}
    {body : State → List Nat → List Nat → State} (h : gate s x = some set)
    (hl : legal (grp s x.core x.gslot).nreg sh x.f = false ∨ ok = false) :
    ∃ t, issueBad sh ok rd bad x s body = .next t ∧ FaultsWhole x set 4 s t := by
  have e : pre sh ok rd bad x s = .bad set := by
    unfold pre
    rw [h]
    dsimp only
    rcases hl with e | e <;> rw [e] <;> simp
  unfold issueBad
  rw [e]
  refine ⟨_, rfl, ?_⟩
  have hne : set ≠ [] := by
    unfold gate at h
    dsimp only at h
    rw [Option.ite_none_right_eq_some] at h
    have hs := Option.some.inj h.2
    have ha := h.1
    simp only [Bool.and_eq_true, Bool.not_eq_true', List.isEmpty_eq_false_iff] at ha
    rw [← hs]
    exact ha.1.1.2
  unfold illegal laneFaults takeFault takeFaultIn
  have : (List.map (fun t => ((t, 4, none) : LaneFault)) set).isEmpty = false := by
    cases set <;> simp at hne ⊢
  rw [this]
  have fo : faultOf (List.map (fun t => ((t, 4, none) : LaneFault)) set) = (4, 0) := by
    cases set with
    | nil => simp at hne
    | cons a l =>
      unfold faultOf
      have : List.filterMap (fun x => Option.map BitVec.toNat x.2.2) (List.map (fun t => ((t, 4, none) : LaneFault)) (a :: l)) = [] := by
        simp
      rw [this]; rfl
  rw [fo]
  have fm : faultMask (List.map (fun t => ((t, 4, none) : LaneFault)) set) = maskOf set := by
    unfold faultMask; rw [List.map_map]; congr 1; exact List.map_id' set
  simp only [Bool.false_eq_true, if_false, fm]
  have T : ∀ (s : State) (c g : Nat) (p q : Option Nat) (a b d : Nat), (note (pmcG s c g 18 1) 1 c 0 4 p q a b).cores = s.cores := by
    intro s c g p q a b d
    rw [(note_touches _ _ _ _ _ _ _ _ _) .cores (by decide)]
    exact (pmcG_touches _ _ _ _ _) .cores (by decide)
  refine ⟨?_, ?_, ?_, ?_, ?_⟩
  · refine Touches.trans ?_ ((note_touches _ _ _ _ _ _ _ _ _).mono (by simp))
    refine Touches.trans ?_ ((pmcG_touches _ _ _ _ _).mono (by simp))
    refine Touches.trans ?_ ((setCore_touches _ _ _).mono (by simp))
    exact (setGrp_touches _ _ _ _).mono (by simp)
  · intro c hc
    rw [core_congr (T _ _ _ _ _ _ _ 0), core_setCore_ne _ _ _ _ hc, core_setGrp_ne _ _ _ _ _ hc]
  · intro g hg
    rw [grp_congr (T _ _ _ _ _ _ _ 0)]
    simp only [grp, core_setCore_same, core_setGrp_same, Core.setGrp, SMap.get_put, hg, if_false]
  · rw [grp_congr (T _ _ _ _ _ _ _ 0)]
    simp only [grp, core_setCore_same, core_setGrp_same, Core.setGrp, SMap.get_put, if_true]
  · rw [core_congr (T _ _ _ _ _ _ _ 0), core_setCore_same]
    simp only [core_setGrp_same, Core.setGrp]
    refine ⟨_, rfl, rfl, rfl, rfl, rfl, rfl, rfl, rfl⟩

end Sys2Proof.Machine
end

