-- ==== Sys2Proof/Laws/Memory.lean ====
section
/-! SUPPORT. Laws of device memory and the L2: every operation keeps the canonical form (Memory.wf) and the order of the L2
(Memory.sound). -/

namespace Sys2Proof.Machine

/-! ## Keys of a map -/

theorem SMap.keys_erase {α : Type} : ∀ (m : SMap α) (k : Nat), (m.map (fun (x : Nat × α) => x.1)).Nodup →
    ((SMap.erase m k).map (fun (x : Nat × α) => x.1)).Nodup ∧ ∀ e ∈ SMap.erase m k, e ∈ m
  | [], _, _ => ⟨List.nodup_nil, fun _ h => h⟩
  | (j, a) :: t, k, h => by
    have h' := List.nodup_cons.mp h
    obtain ⟨h1, h2⟩ := SMap.keys_erase t k h'.2
    unfold SMap.erase
    split
    · exact ⟨h1, fun e he => List.mem_cons_of_mem _ (h2 e he)⟩
    · refine ⟨List.nodup_cons.mpr ⟨?_, h1⟩, ?_⟩
      · intro hm
        obtain ⟨e, he, hj⟩ := List.mem_map.mp hm
        exact h'.1 (List.mem_map.mpr ⟨e, h2 e he, hj⟩)
      · intro e he
        cases List.mem_cons.mp he with
        | inl h => exact h ▸ List.mem_cons_self ..
        | inr h => exact List.mem_cons_of_mem _ (h2 e h)

theorem SMap.mem_insert {α : Type} : ∀ (m : SMap α) (k : Nat) (v : α) (e : Nat × α),
    e ∈ SMap.insert m k v → e = (k, v) ∨ e ∈ m
  | [], k, v, e, h => by simpa [SMap.insert] using h
  | (j, a) :: t, k, v, e, h => by
    unfold SMap.insert at h
    split at h
    · simpa using h
    · cases List.mem_cons.mp h with
      | inl h => exact .inr (h ▸ List.mem_cons_self ..)
      | inr h =>
        cases SMap.mem_insert t k v e h with
        | inl h => exact .inl h
        | inr h => exact .inr (List.mem_cons_of_mem _ h)

theorem SMap.keys_insert {α : Type} : ∀ (m : SMap α) (k : Nat) (v : α), (m.map (fun (x : Nat × α) => x.1)).Nodup → (∀ e ∈ m, e.1 ≠ k) →
    ((SMap.insert m k v).map (fun (x : Nat × α) => x.1)).Nodup
  | [], _, _, _, _ => by simp [SMap.insert]
  | (j, a) :: t, k, v, h, hk => by
    have h' := List.nodup_cons.mp h
    unfold SMap.insert
    split
    · refine List.nodup_cons.mpr ⟨?_, h⟩
      intro hm
      obtain ⟨e, he, hj⟩ := List.mem_map.mp hm
      exact hk e he hj
    · refine List.nodup_cons.mpr ⟨?_, SMap.keys_insert t k v h'.2 (fun e he => hk e (List.mem_cons_of_mem _ he))⟩
      intro hm
      obtain ⟨e, he, hj⟩ := List.mem_map.mp hm
      cases SMap.mem_insert t k v e he with
      | inl h2 => exact hk (j, a) (List.mem_cons_self ..) (by have := congrArg Prod.fst h2; exact hj.symm.trans this)
      | inr h2 => exact h'.1 (List.mem_map.mpr ⟨e, h2, hj⟩)

/-- Writing lists no key twice. -/
theorem SMap.keys_put {α : Type} [DecidableEq α] (d : α) (m : SMap α) (k : Nat) (v : α) (h : (m.map (fun (x : Nat × α) => x.1)).Nodup) :
    ((SMap.put d m k v).map (fun (x : Nat × α) => x.1)).Nodup := by
  unfold SMap.put
  split
  · exact (SMap.keys_erase m k h).1
  · exact SMap.keys_insert _ k v (SMap.keys_erase m k h).1 (SMap.erase_notIn m k)

/-- A key that an entry lists reads that entry, where no key is listed twice. -/
theorem SMap.get_of_mem {α : Type} (d : α) : ∀ (m : SMap α) (k : Nat) (v : α), (m.map (fun (x : Nat × α) => x.1)).Nodup → (k, v) ∈ m →
    SMap.get d m k = v
  | (j, a) :: t, k, v, h, hm => by
    have h' := List.nodup_cons.mp h
    unfold SMap.get
    cases List.mem_cons.mp hm with
    | inl e =>
      have h1 : k = j := congrArg Prod.fst e
      have h2 : v = a := congrArg Prod.snd e
      subst h1; subst h2; rw [if_pos rfl]
    | inr e =>
      have hj : j ≠ k := by
        intro hj; subst hj
        exact h'.1 (List.mem_map.mpr ⟨(j, v), e, rfl⟩)
      rw [if_neg hj]
      exact SMap.get_of_mem d t k v h'.2 e

/-- What a filter leaves reads as before, the rest as the default, where no key is listed twice. -/
theorem SMap.get_filter {α : Type} (d : α) (p : Nat × α → Bool) : ∀ (m : SMap α) (k : Nat), (m.map (fun (x : Nat × α) => x.1)).Nodup →
    SMap.get d (m.filter p) k = if p (k, SMap.get d m k) then SMap.get d m k else d
  | [], k, _ => by
    show d = if p (k, d) = true then d else d
    cases p (k, d) <;> rfl
  | (j, a) :: t, k, h => by
    have h' := List.nodup_cons.mp h
    have ih := SMap.get_filter d p t k h'.2
    by_cases hj : j = k
    · subst hj
      have hn : ∀ e ∈ t.filter p, e.1 ≠ j := fun e he hx =>
        h'.1 (List.mem_map.mpr ⟨e, (List.mem_filter.mp he).1, hx⟩)
      by_cases hp : p (j, a) = true
      · simp [List.filter, hp, SMap.get]
      · simp [List.filter, hp, SMap.get, SMap.get_of_notIn d _ j hn]
    · by_cases hp : p (j, a) = true
      · simpa [List.filter, hp, SMap.get, hj] using ih
      · simpa [List.filter, hp, SMap.get, hj] using ih

/-- An invariant of every step of a fold is one of the fold. -/
theorem foldl_keeps {α : Type} (P : State → Prop) (f : State → α → State) (l : List α) (s : State) (hs : P s)
    (hf : ∀ s, P s → ∀ a ∈ l, P (f s a)) : P (l.foldl f s) := by
  induction l generalizing s with
  | nil => exact hs
  | cons a t ih =>
    exact ih (f s a) (hf s hs a (List.mem_cons_self ..)) (fun s h b hb => hf s h b (List.mem_cons_of_mem _ hb))

/-! ## Bits and lists -/

theorem mem_maskBits (n m i : Nat) : i ∈ maskBits n m ↔ i < n ∧ bit m i = true := by
  simp [maskBits, mem_upTo, bit]

theorem bit_or_pow (x i j : Nat) : bit (x ||| 2 ^ i) j = (bit x j || decide (i = j)) := by
  simp [bit, Nat.testBit_or, Nat.testBit_two_pow]

/-- Taking a set bit away clears it alone. -/
theorem testBit_sub (x i j : Nat) (h : x.testBit i = true) : (x - 2 ^ i).testBit j = (x.testBit j && decide (i ≠ j)) := by
  have hx : 2 ^ i ≤ x := Nat.ge_two_pow_of_testBit h
  obtain ⟨y, rfl⟩ := Nat.exists_eq_add_of_le hx
  rw [Nat.add_sub_cancel_left]
  have hy : y.testBit i = false := by
    rw [Nat.testBit_two_pow_add_eq] at h; simpa using h
  rcases Nat.lt_trichotomy j i with hj | hj | hj
  · rw [Nat.testBit_two_pow_add_gt hj]; simp; omega
  · subst hj; simp [hy]
  · have h1 : y % 2 ^ (i + 1) < 2 ^ i := by
      by_contra hc
      have : (y % 2 ^ (i + 1)).testBit i = true := by
        rw [Nat.testBit_eq_decide_div_mod_eq]
        have h2 : y % 2 ^ (i + 1) < 2 ^ (i + 1) := Nat.mod_lt _ (by positivity)
        have h3 : y % 2 ^ (i + 1) / 2 ^ i = 1 := by
          rw [pow_succ] at h2
          exact Nat.div_eq_of_lt_le (by omega) (by omega)
        simp [h3]
      rw [Nat.testBit_mod_two_pow] at this
      simp [hy] at this
    have h4 : (2 ^ i + y) / 2 ^ (i + 1) = y / 2 ^ (i + 1) := by
      conv_lhs => rw [← Nat.div_add_mod y (2 ^ (i + 1))]
      rw [show 2 ^ i + (2 ^ (i + 1) * (y / 2 ^ (i + 1)) + y % 2 ^ (i + 1)) = (2 ^ i + y % 2 ^ (i + 1)) + 2 ^ (i + 1) * (y / 2 ^ (i + 1)) by ring]
      rw [Nat.add_mul_div_left _ _ (by positivity), Nat.div_eq_of_lt (by have := pow_succ 2 i; omega), Nat.zero_add]
    obtain ⟨d, rfl⟩ := Nat.exists_eq_add_of_lt hj
    have h5 : ∀ z, Nat.testBit z (i + d + 1) = Nat.testBit (z / 2 ^ (i + 1)) d := by
      intro z; rw [Nat.testBit_div_two_pow]; congr 1; omega
    rw [h5, h5, h4]; simp; omega

theorem bit_sub_pow (x i j : Nat) (h : bit x i = true) : bit (x - 2 ^ i) j = (bit x j && decide (i ≠ j)) := testBit_sub x i j h

theorem length_splice (l d : List Byte) (off : Nat) (h : off + d.length ≤ l.length) : (splice l off d).length = l.length := by
  simp [splice]; omega

/-- Taking a part of a list that a splice leaves. -/
theorem part_splice (l d : List Byte) (off k n : Nat) (h : off + d.length ≤ l.length) (hk : k + n ≤ off ∨ off + d.length ≤ k) :
    ((splice l off d).drop k).take n = (l.drop k).take n := by
  apply List.ext_getElem?
  intro i
  simp only [List.getElem?_take, List.getElem?_drop, splice]
  split
  · rename_i hi
    rw [List.getElem?_append, List.getElem?_append]
    simp only [List.length_append, List.length_take, List.getElem?_take, List.getElem?_drop]
    split
    · split
      · rw [if_pos (by omega)]
      · omega
    · congr 1; omega
  · rfl

/-- The spliced part reads back. -/
theorem part_splice_self (l d : List Byte) (off : Nat) (h : off + d.length ≤ l.length) : ((splice l off d).drop off).take d.length = d := by
  simp only [splice, List.append_assoc]
  rw [List.drop_append_of_le_length (by simp; omega)]
  rw [List.drop_eq_nil_of_le (by simp)]
  simp

theorem SMap.getList_congr {α : Type} (d : α) (m m' : SMap α) : ∀ (n k : Nat), (∀ i, k ≤ i → i < k + n → SMap.get d m i = SMap.get d m' i) →
    SMap.getList d m k n = SMap.getList d m' k n
  | 0, _, _ => rfl
  | n + 1, k, h => by
    rw [SMap.getList, SMap.getList, h k (Nat.le_refl _) (by omega),
      SMap.getList_congr d m m' n (k + 1) (fun i h1 h2 => h i (by omega) (by omega))]

theorem SMap.length_getList {α : Type} (d : α) (m : SMap α) : ∀ (n k : Nat), (SMap.getList d m k n).length = n
  | 0, _ => rfl
  | n + 1, k => by simp [SMap.getList, SMap.length_getList d m n (k + 1)]

/-! ## The invariant -/

/-- Both invariants of device memory. -/
def Memory.inv (m : Mem) : Prop := Memory.wf m = true ∧ Memory.sound m

/-- They depend on the stacks, their marks and the L2 alone. -/
theorem Memory.inv_congr {m n : Mem} (h : n.hbm = m.hbm) (p : n.poison = m.poison) (l : n.l2 = m.l2) (i : Memory.inv m) : Memory.inv n := by
  obtain ⟨w, s⟩ := i
  refine ⟨?_, ⟨?_, ?_, ?_, ?_, ?_⟩⟩
  · unfold Memory.wf at *; rw [h, p]; exact w
  · rw [l]; exact s.keys
  · rw [l]; exact s.place
  · rw [l]; exact s.marks
  · rw [l, h, p]; exact s.clean
  · rw [l]; exact s.once

theorem Memory.inv_empty (m : Mem) (h : Memory.wf m = true) (l : m.l2 = []) : Memory.inv m := by
  refine ⟨h, ⟨?_, ?_, ?_, ?_, ?_⟩⟩ <;> rw [l]
  · exact List.nodup_nil
  · intro k x hx; simp [x, L2Line.empty] at hx
  · intro k i hi x hx; simp [x, L2Line.empty, bit] at hx
  · intro k i hi x hx; simp [x, L2Line.empty] at hx
  · intro j k hx; simp [L2Line.empty] at hx

theorem inv_reset : Memory.inv State.reset.mem := Memory.inv_empty _ rfl rfl

@[simp] theorem count_mem (s : State) (k n : Nat) : (count s k n).mem = s.mem := by unfold count; split <;> rfl
@[simp] theorem countBank_mem (s : State) (p o n : Nat) : (countBank s p o n).mem = s.mem := count_mem ..
@[simp] theorem countMem_mem (s : State) (a o n : Nat) : (countMem s a o n).mem = s.mem := by
  unfold countMem; split
  · exact countBank_mem ..
  · rfl

theorem touchWay_inv (s : State) (i t k w : Nat) (h : Memory.inv s.mem) : Memory.inv (touchWay s i t k w).mem := by
  unfold touchWay; split
  · exact h
  · exact Memory.inv_congr (m := s.mem) rfl rfl rfl h
@[simp] theorem touchWay_l2 (s : State) (i t k w : Nat) : (touchWay s i t k w).mem.l2 = s.mem.l2 := by unfold touchWay; split <;> rfl
@[simp] theorem touchWay_hbm (s : State) (i t k w : Nat) : (touchWay s i t k w).mem.hbm = s.mem.hbm := by unfold touchWay; split <;> rfl
@[simp] theorem touchWay_poison (s : State) (i t k w : Nat) : (touchWay s i t k w).mem.poison = s.mem.poison := by
  unfold touchWay; split <;> rfl

theorem wf_hbmWrite (s : State) (sec : Nat) (d : List Byte) (p : Bool) (h : Memory.wf s.mem = true) :
    Memory.wf (hbmWrite s sec d p).mem = true := by
  unfold Memory.wf at *
  simp only [Bool.and_eq_true] at *
  exact ⟨SMap.wf_putList 0 d _ _ h.1, SMap.wf_put false _ _ _ h.2⟩

/-- Writing back a dirty sector of a line that the L2 holds. -/
theorem inv_hbmWrite (s : State) (key i : Nat) (d : List Byte) (p : Bool) (h : Memory.inv s.mem) (hd : d.length = 32) (hi : i < 4)
    (hx : bit (SMap.get L2Line.empty s.mem.l2 key).dirty i = true) :
    Memory.inv (hbmWrite s (4 * (SMap.get L2Line.empty s.mem.l2 key).line + i) d p).mem := by
  obtain ⟨w, q⟩ := h
  refine ⟨wf_hbmWrite _ _ _ _ w, ⟨q.keys, q.place, q.marks, ?_, q.once⟩⟩
  intro k j hj x hu hv hdj
  have hk := q.marks key i hi (.inl hx)
  have hne : 4 * x.line + j ≠ 4 * (SMap.get L2Line.empty s.mem.l2 key).line + i := by
    intro e
    have hl : x.line = (SMap.get L2Line.empty s.mem.l2 key).line := by omega
    have hij : j = i := by omega
    have := q.once k key hu hk.1 hl
    subst this; subst hij
    simp only [x, hbmWrite] at hdj
    rw [hdj] at hx; exact absurd hx (by decide)
  have c := q.clean k j hj hu hv hdj
  refine ⟨?_, fun hp => ?_⟩
  · refine c.1.trans ?_
    apply SMap.getList_congr
    intro a h1 h2
    refine (SMap.get_putList_ne 0 d _ _ a ?_).symm
    rw [hd]
    show a < 32 * (4 * _ + i) ∨ 32 * (4 * _ + i) + 32 ≤ a
    change 32 * (4 * x.line + j) ≤ a at h1
    change a < 32 * (4 * x.line + j) + 32 at h2
    omega
  · exact (SMap.get_put_ne false s.mem.poison _ _ p hne).trans (c.2 hp)

/-! ## Ways of a line -/

/-- A way of a line's set: the key lies in the line's home and set. -/
theorem l2Key_place (line w : Nat) (h : w < 16) : l2Key line w / 16 = homeOf line * 1024 + l2Set line := by
  unfold l2Key; omega

theorem find_upTo (p : Nat → Bool) : ∀ (n a w : Nat), (upTo a n).find? p = some w → p w = true ∧ a ≤ w ∧ w < a + n
  | 0, a, w, h => by simp [upTo] at h
  | n + 1, a, w, h => by
    rw [upTo, List.find?_cons] at h
    split at h
    · cases h; exact ⟨by assumption, Nat.le_refl _, by omega⟩
    · obtain ⟨h1, h2, h3⟩ := find_upTo p n (a + 1) w h
      exact ⟨h1, by omega, by omega⟩

theorem find_upTo_none (p : Nat → Bool) (n a : Nat) (h : (upTo a n).find? p = none) (w : Nat) (h1 : a ≤ w) (h2 : w < a + n) : p w = false := by
  have := List.find?_eq_none.mp h w ((mem_upTo n a w).mpr ⟨h1, h2⟩)
  simpa using this

theorem l2Find_some (s : State) (line w : Nat) (h : l2Find s line = some w) :
    (l2At s line w).used = true ∧ (l2At s line w).line = line ∧ w < 16 := by
  obtain ⟨h1, _, h3⟩ := find_upTo _ 16 0 w h
  simp only [Bool.and_eq_true, beq_iff_eq] at h1
  exact ⟨h1.1, h1.2, by omega⟩

/-- A line that no way of its set holds is nowhere in the L2. -/
theorem l2Find_none (s : State) (line : Nat) (q : Memory.sound s.mem) (h : l2Find s line = none) (k : Nat)
    (hu : (SMap.get L2Line.empty s.mem.l2 k).used = true) : (SMap.get L2Line.empty s.mem.l2 k).line ≠ line := by
  intro hl
  have hp := (q.place k hu).1
  have hk : k = l2Key line (k % 16) := by unfold l2Key; rw [← hl]; omega
  have := find_upTo_none _ 16 0 h (k % 16) (by omega) (by omega)
  unfold l2At at this
  rw [← hk] at this
  simp [hu, hl] at this

/-- A line that stands in a way, put there with its sectors in order. -/
theorem inv_setL2 (s : State) (line w : Nat) (x : L2Line) (h : Memory.inv s.mem) (hw : w < 16) (hx : x.used = true) (hl : x.line = line)
    (hd : x.data.length = 128)
    (hm : ∀ i < 4, bit x.dirty i = true ∨ bit x.poison i = true → bit x.valid i = true)
    (hc : ∀ i < 4, bit x.valid i = true → bit x.dirty i = false → (x.data.drop (32 * i)).take 32 = SMap.getList 0 s.mem.hbm (32 * (4 * line + i)) 32 ∧
      (bit x.poison i = true → SMap.get false s.mem.poison (4 * line + i) = true))
    (ho : ∀ k, (SMap.get L2Line.empty s.mem.l2 k).used = true → (SMap.get L2Line.empty s.mem.l2 k).line = line → k = l2Key line w) :
    Memory.inv (setL2 s line w x).mem := by
  obtain ⟨wf, q⟩ := h
  have g : ∀ k, SMap.get L2Line.empty (setL2 s line w x).mem.l2 k = if k = l2Key line w then x else SMap.get L2Line.empty s.mem.l2 k := by
    intro k; exact SMap.get_put L2Line.empty s.mem.l2 _ k x
  refine ⟨wf, ⟨SMap.keys_put _ _ _ _ q.keys, ?_, ?_, ?_, ?_⟩⟩
  · intro k; rw [g]; split
    · rename_i hk; intro y _; exact ⟨by rw [hk, l2Key_place line w hw]; simp [y, hl], hd⟩
    · exact q.place k
  · intro k i hi; rw [g]; split
    · intro y hy; exact ⟨hx, hm i hi hy⟩
    · exact q.marks k i hi
  · intro k i hi; rw [g]; split
    · intro y _ hv hdd
      have := hc i hi hv hdd
      rw [← hl] at this
      exact this
    · exact q.clean k i hi
  · intro j k hj hk hjk
    rw [g] at hj hjk; rw [g] at hk hjk
    by_cases ej : j = l2Key line w
    · by_cases ek : k = l2Key line w
      · rw [ej, ek]
      · rw [if_neg ek] at hk; rw [if_pos ej, if_neg ek] at hjk
        rw [ej]; exact (ho k hk (by rw [← hjk, hl])).symm
    · by_cases ek : k = l2Key line w
      · rw [if_neg ej] at hj; rw [if_neg ej, if_pos ek] at hjk
        rw [ek]; exact ho j hj (by rw [hjk, hl])
      · rw [if_neg ej] at hj; rw [if_neg ek] at hk; rw [if_neg ej, if_neg ek] at hjk
        exact q.once j k hj hk hjk

/-- Writing back a line that the L2 holds; the L2 stays as it is. -/
theorem inv_l2Clean (s : State) (key : Nat) (h : Memory.inv s.mem) :
    Memory.inv (l2Clean s (SMap.get L2Line.empty s.mem.l2 key)).mem ∧ (l2Clean s (SMap.get L2Line.empty s.mem.l2 key)).mem.l2 = s.mem.l2 := by
  unfold l2Clean
  refine foldl_keeps (fun t => Memory.inv t.mem ∧ t.mem.l2 = s.mem.l2) _ _ s ⟨h, rfl⟩ ?_
  intro t ⟨ht, hl⟩ i hi
  obtain ⟨h4, hb⟩ := (mem_maskBits 4 _ i).mp hi
  refine ⟨?_, hl⟩
  have hu := (ht.2.marks key i h4 (.inl (by rw [hl]; exact hb))).1
  have hp := (ht.2.place key hu).2
  have := inv_hbmWrite t key i (((SMap.get L2Line.empty s.mem.l2 key).data.drop (32 * i)).take 32) (bit (SMap.get L2Line.empty s.mem.l2 key).poison i) ht
    (by rw [hl] at hp; simp [hp]; omega) h4 (by rw [hl]; exact hb)
  rw [hl] at this
  exact this

theorem plruVictim_lt : ∀ (k node m w : Nat), plruVictim k node m w < (w + 1) * 2 ^ k
  | 0, _, _, w => by simp [plruVictim]
  | k + 1, node, m, w => by
    unfold plruVictim
    have := plruVictim_lt k (2 * node + (bit m node).toNat) m (2 * w + (bit m node).toNat)
    have hb : (bit m node).toNat ≤ 1 := by cases bit m node <;> decide
    calc _ < (2 * w + (bit m node).toNat + 1) * 2 ^ k := this
      _ ≤ (2 * (w + 1)) * 2 ^ k := Nat.mul_le_mul_right _ (by omega)
      _ = (w + 1) * 2 ^ (k + 1) := by rw [pow_succ]; ring

theorem victim_lt (s : State) (i t : Nat) : (victim s i t 4).2 < 16 := by
  unfold victim; split
  · exact Nat.mod_lt _ (by decide)
  · have := plruVictim_lt 4 1 (SMap.get 0 s.mem.plru (i * 1024 + t)) 0
    simpa using this
theorem victim_inv (s : State) (i t k : Nat) (h : Memory.inv s.mem) : Memory.inv (victim s i t k).1.mem := by
  unfold victim; split
  · exact Memory.inv_congr (m := s.mem) rfl rfl rfl h
  · exact h
@[simp] theorem victim_l2 (s : State) (i t k : Nat) : (victim s i t k).1.mem.l2 = s.mem.l2 := by unfold victim; split <;> rfl

/-- What an allocation leaves: the invariant, and the line in the way that it answers. -/
theorem inv_l2Alloc (s : State) (line : Nat) (h : Memory.inv s.mem) :
    Memory.inv (l2Alloc s line).1.mem ∧ (l2At (l2Alloc s line).1 line (l2Alloc s line).2).used = true ∧
      (l2At (l2Alloc s line).1 line (l2Alloc s line).2).line = line ∧ (l2Alloc s line).2 < 16 := by
  unfold l2Alloc
  split
  · rename_i w hw
    have f := l2Find_some s line w hw
    refine ⟨touchWay_inv _ _ _ _ _ (by rw [countMem_mem]; exact h), ?_⟩
    simp only [l2At, touchWay_l2, countMem_mem]
    exact f
  · rename_i hw
    -- the way to fill
    suffices H : ∀ (t : State) (w : Nat), Memory.inv t.mem → t.mem.l2 = s.mem.l2 → w < 16 →
        let u := setL2 (l2Clean t (l2At t line w)) line w
          { used := true, line := line, valid := 0, dirty := 0, poison := 0, data := (upTo 0 128).map (fun _ => 0) }
        Memory.inv u.mem ∧ (l2At u line w).used = true ∧ (l2At u line w).line = line by
      dsimp only
      cases hf : (upTo 0 16).find? (fun w => !(l2At (countMem s (128 * line) 0x98 1) line w).used) with
      | some w =>
        have hlt := (find_upTo _ 16 0 w hf).2.2
        dsimp only
        have := H (countMem s (128 * line) 0x98 1) w (by rw [countMem_mem]; exact h) (by rw [countMem_mem]) (by omega)
        refine ⟨touchWay_inv _ _ _ _ _ this.1, ?_⟩
        simp only [l2At, touchWay_l2] at *
        exact ⟨this.2.1, this.2.2, by omega⟩
      | none =>
        have hlt := victim_lt (countMem s (128 * line) 0x98 1) (instL2 (homeOf line)) (l2Set line)
        have := H (victim (countMem s (128 * line) 0x98 1) (instL2 (homeOf line)) (l2Set line) 4).1
          (victim (countMem s (128 * line) 0x98 1) (instL2 (homeOf line)) (l2Set line) 4).2
          (victim_inv _ _ _ _ (by rw [countMem_mem]; exact h)) (by rw [victim_l2, countMem_mem]) hlt
        refine ⟨touchWay_inv _ _ _ _ _ this.1, ?_⟩
        simp only [l2At, touchWay_l2] at *
        exact ⟨this.2.1, this.2.2, hlt⟩
    intro t w ht hl hlt
    have c := inv_l2Clean t (l2Key line w) ht
    have hb : ∀ i, bit 0 i = false := by intro i; simp [bit]
    refine ⟨inv_setL2 _ line w _ c.1 hlt rfl rfl (by simp [length_upTo]) ?_ ?_ ?_, ?_⟩
    · intro i _ hi; simp [hb] at hi
    · intro i _ hi; simp [hb] at hi
    · intro k hu hk
      have hn := l2Find_none s line (Memory.inv_congr (m := s.mem) rfl rfl rfl h).2 hw k
      have e := c.2.trans hl
      unfold l2At at hu hk
      rw [e] at hu hk
      exact absurd hk (hn hu)
    · simp [l2At, setL2]

/-! ## Reads and writes through the L2 -/

/-- The invariant, and a way that holds a line. -/
def Memory.holds (line w : Nat) (t : State) : Prop :=
  Memory.inv t.mem ∧ (l2At t line w).used = true ∧ (l2At t line w).line = line ∧ w < 16

theorem Memory.holds.place {line w : Nat} {t : State} (h : Memory.holds line w t) : (l2At t line w).data.length = 128 :=
  (h.1.2.place _ h.2.1).2

theorem Memory.holds.only {line w : Nat} {t : State} (h : Memory.holds line w t) (k : Nat)
    (hu : (SMap.get L2Line.empty t.mem.l2 k).used = true) (hl : (SMap.get L2Line.empty t.mem.l2 k).line = line) : k = l2Key line w :=
  h.1.2.once k _ hu h.2.1 (by rw [hl]; exact h.2.2.1.symm)

@[simp] theorem l2At_setL2 (s : State) (line w : Nat) (x : L2Line) : l2At (setL2 s line w x) line w = x := by simp [l2At, setL2]

/-- Fetching sectors keeps the line in its way. -/
theorem holds_l2Fetch (s : State) (line w mask : Nat) (h : Memory.holds line w s) : Memory.holds line w (l2Fetch s line w mask) := by
  unfold l2Fetch
  refine foldl_keeps (Memory.holds line w) _ _ s h ?_
  intro t ht i hi
  obtain ⟨h4, _⟩ := (mem_maskBits 4 _ i).mp hi
  dsimp only
  split
  · exact ht
  · rename_i hv
    have hv' : bit (l2At t line w).valid i = false := by simpa using hv
    have q := ht.1.2
    have sl : 32 * i + (hbmSector t (4 * line + i)).length ≤ (l2At t line w).data.length := by
      rw [ht.place, hbmSector, SMap.length_getList]; omega
    have pv : ∀ j, bit (if hbmPoison t (4 * line + i) = true then (l2At t line w).poison ||| 2 ^ i else (l2At t line w).poison) j = true →
        bit (l2At t line w).poison j = true ∨ (i = j ∧ hbmPoison t (4 * line + i) = true) := by
      intro j hj
      split at hj
      · rename_i hp; rw [bit_or_pow] at hj
        simp only [Bool.or_eq_true, decide_eq_true_eq] at hj
        exact hj.imp id (fun e => ⟨e, hp⟩)
      · exact .inl hj
    refine ⟨?_, ?_, ?_, ht.2.2.2⟩
    · rw [countMem_mem]
      refine inv_setL2 t line w _ ht.1 ht.2.2.2 ht.2.1 ht.2.2.1 (by rw [length_splice _ _ _ sl]; exact ht.place) ?_ ?_ ht.only
      · intro j hj hb
        dsimp only
        rw [bit_or_pow]
        cases hb with
        | inl hb =>
          have v : bit (l2At t line w).valid j = true := (q.marks (l2Key line w) j hj (.inl hb)).2
          simp [v]
        | inr hb =>
          cases pv j hb with
          | inl hb =>
            have v : bit (l2At t line w).valid j = true := (q.marks (l2Key line w) j hj (.inr hb)).2
            simp [v]
          | inr hb => simp [hb.1]
      · intro j hj hvj hdj
        dsimp only at hvj hdj ⊢
        rw [bit_or_pow] at hvj
        by_cases hij : i = j
        · subst hij
          refine ⟨?_, fun hp => ?_⟩
          · have := part_splice_self (l2At t line w).data (hbmSector t (4 * line + i)) (32 * i) sl
            have e : (hbmSector t (4 * line + i)).length = 32 := SMap.length_getList ..
            rw [e] at this
            exact this
          · cases pv i hp with
            | inl hb =>
              have := (q.marks _ i h4 (.inr hb)).2
              exact absurd this (by change bit (l2At t line w).valid i ≠ true; rw [hv']; decide)
            | inr hb => exact hb.2
        · have hvj' : bit (l2At t line w).valid j = true := by simpa [hij] using hvj
          have c := q.clean _ j hj ht.2.1 hvj' hdj
          have hl := ht.2.2.1
          unfold l2At at hl
          rw [hl] at c
          refine ⟨?_, fun hp => ?_⟩
          · rw [part_splice _ _ _ _ _ sl (by
              have e : (hbmSector t (4 * line + i)).length = 32 := SMap.length_getList ..
              rw [e]; omega)]
            exact c.1
          · cases pv j hp with
            | inl hb => exact c.2 hb
            | inr hb => exact absurd hb.1 hij
    · simp only [l2At, countMem_mem]; have e := ht.2.1; simpa [setL2, l2At] using e
    · simp only [l2At, countMem_mem]; have e := ht.2.2.1; simpa [setL2, l2At] using e

theorem holds_l2Alloc (s : State) (line : Nat) (h : Memory.inv s.mem) : Memory.holds line (l2Alloc s line).2 (l2Alloc s line).1 :=
  inv_l2Alloc s line h

theorem inv_l2Read (s : State) (line mask : Nat) (h : Memory.inv s.mem) : Memory.inv (l2Read s line mask).mem :=
  (holds_l2Fetch _ _ _ _ (holds_l2Alloc s line h)).1

theorem inv_touchRange (s : State) (pa n : Nat) (h : Memory.inv s.mem) : Memory.inv (touchRange s pa n).mem :=
  foldl_keeps (fun t => Memory.inv t.mem) _ _ s h (fun t ht _ _ => inv_l2Read t _ _ ht)

theorem setL2_mem_congr {s t : State} (h : t.mem = s.mem) (line w : Nat) (x : L2Line) : (setL2 t line w x).mem = (setL2 s line w x).mem := by
  simp only [setL2, h]

/-- A write into one sector. -/
theorem inv_l2WriteSector (s : State) (sec off : Nat) (d : List Byte) (p : Bool) (h : Memory.inv s.mem) (hd : off + d.length ≤ 32) :
    Memory.inv (l2WriteSector s sec off d p).mem := by
  unfold l2WriteSector
  dsimp only
  have ha := holds_l2Alloc s (sec / 4) h
  generalize (l2Alloc s (sec / 4)).2 = w at ha ⊢
  generalize (l2Alloc s (sec / 4)).1 = t at ha ⊢
  have hu : Memory.holds (sec / 4) w (if (d.length == 32) = true then t else l2Fetch t (sec / 4) w (2 ^ (sec % 4))) := by
    split
    · exact ha
    · exact holds_l2Fetch _ _ _ _ ha
  generalize (if (d.length == 32) = true then t else l2Fetch t (sec / 4) w (2 ^ (sec % 4))) = u at hu ⊢
  have q := hu.1.2
  have h4 : sec % 4 < 4 := Nat.mod_lt _ (by decide)
  generalize sec % 4 = i at h4 ⊢
  have sl : 32 * i + off + d.length ≤ (l2At u (sec / 4) w).data.length := by rw [hu.place]; omega
  have pv : ∀ (b : Bool) j, bit (if b = true then
        ((l2At u (sec / 4) w).poison - if bit (l2At u (sec / 4) w).poison i = true then 2 ^ i else 0) ||| 2 ^ i
        else (l2At u (sec / 4) w).poison - if bit (l2At u (sec / 4) w).poison i = true then 2 ^ i else 0) j = true →
      i = j ∨ bit (l2At u (sec / 4) w).poison j = true := by
    intro b j hj
    by_cases hij : i = j
    · exact .inl hij
    · right
      have base : ∀ m, bit (m - if bit m i = true then 2 ^ i else 0) j = true → bit m j = true := by
        intro m hm
        split at hm
        · rename_i hb; rw [bit_sub_pow _ _ _ hb] at hm; simp at hm; exact hm.1
        · exact hm
      split at hj
      · rw [bit_or_pow] at hj; simp [hij] at hj; exact base _ hj
      · exact base _ hj
  rw [setL2_mem_congr (s := u) (by split <;> simp)]
  refine inv_setL2 u (sec / 4) w _ hu.1 hu.2.2.2 hu.2.1 hu.2.2.1 (by dsimp only; rw [length_splice _ _ _ sl]; exact hu.place) ?_ ?_ hu.only
  · intro j hj hb
    dsimp only at hb ⊢
    rw [bit_or_pow] at hb ⊢
    by_cases hij : i = j
    · simp [hij]
    · cases hb with
      | inl hb => 
        simp [hij] at hb
        have v : bit (l2At u (sec / 4) w).valid j = true := (q.marks (l2Key (sec / 4) w) j hj (.inl hb)).2
        simp [v]
      | inr hb =>
        cases pv _ j hb with
        | inl hb => exact absurd hb hij
        | inr hb =>
          have v : bit (l2At u (sec / 4) w).valid j = true := (q.marks (l2Key (sec / 4) w) j hj (.inr hb)).2
          simp [v]
  · intro j hj hvj hdj
    dsimp only at hvj hdj ⊢
    rw [bit_or_pow] at hvj hdj
    have hij : i ≠ j := by intro e; simp [e] at hdj
    simp [hij] at hvj hdj
    have c := q.clean _ j hj hu.2.1 hvj hdj
    have hl := hu.2.2.1
    unfold l2At at hl
    rw [hl] at c
    refine ⟨?_, fun hp => ?_⟩
    · rw [part_splice _ _ _ _ _ sl (by omega)]
      exact c.1
    · cases pv _ j hp with
      | inl hb => exact absurd hb hij
      | inr hb => exact c.2 hb

theorem inv_writeSecs (p : Nat → Bool) : ∀ (secs : List Nat) (s : State) (off : Nat) (d : List Byte), Memory.inv s.mem → off < 32 →
    Memory.inv (writeSecs secs s off d p).mem
  | [], _, _, _, h, _ => h
  | sec :: t, s, off, d, h, ho => by
    unfold writeSecs
    exact inv_writeSecs p t _ 0 _ (inv_l2WriteSector s sec off _ _ h (by simp; omega)) (by decide)

theorem inv_writeMem (s : State) (pa : Nat) (d : List Byte) (p : Nat → Bool) (h : Memory.inv s.mem) : Memory.inv (writeMem s pa d p).mem :=
  inv_writeSecs p _ s _ d h (Nat.mod_lt _ (by decide))

theorem inv_writeOk (s : State) (pa : Nat) (d : List Byte) (h : Memory.inv s.mem) : Memory.inv (writeOk s pa d).mem := inv_writeMem s pa d _ h

/-- Dirty sectors of a write-back or an answer. -/
theorem inv_takeDirty (s : State) (a : Ans) (h : Memory.inv s.mem) : Memory.inv (takeDirty s a).mem :=
  foldl_keeps (fun t => Memory.inv t.mem) _ _ s h (fun t ht i _ => inv_l2WriteSector t _ 0 _ _ ht (by simp))

/-! ## Whole ranges -/

/-- Zeroing a run. -/
theorem inv_zeroRun (s : State) (pa n : Nat) (h : Memory.inv s.mem) : Memory.inv (zeroRun s pa n).mem := by
  obtain ⟨w, q⟩ := h
  have hw : Memory.wf (zeroRun s pa n).mem = true := by
    unfold Memory.wf zeroRun at *
    simp only [Bool.and_eq_true] at *
    exact ⟨SMap.wf_keep 0 _ _ w.1, SMap.wf_keep false _ _ w.2⟩
  have wf := w
  unfold Memory.wf at wf
  simp only [Bool.and_eq_true] at wf
  have g : ∀ k, SMap.get L2Line.empty (zeroRun s pa n).mem.l2 k =
      if (!overlaps (128 * (SMap.get L2Line.empty s.mem.l2 k).line) 128 pa n) = true then SMap.get L2Line.empty s.mem.l2 k else L2Line.empty :=
    fun k => SMap.get_filter L2Line.empty _ s.mem.l2 k q.keys
  refine ⟨hw, ⟨?_, ?_, ?_, ?_, ?_⟩⟩
  · exact List.Nodup.sublist (List.Sublist.map _ (List.filter_sublist ..)) q.keys
  · intro k; rw [g]; split
    · exact q.place k
    · intro x hx; simp [x, L2Line.empty] at hx
  · intro k i hi; rw [g]; split
    · exact q.marks k i hi
    · intro x hx; simp [x, L2Line.empty, bit] at hx
  · intro k i hi; rw [g]; split
    · rename_i ho
      intro x hu hv hd
      have c := q.clean k i hi hu hv hd
      have ho' : overlaps (128 * x.line) 128 pa n = false := by simpa using ho
      refine ⟨?_, fun hp => ?_⟩
      · refine c.1.trans (SMap.getList_congr 0 _ _ _ _ fun a h1 h2 => ?_)
        refine Eq.symm ?_
        show SMap.get 0 (SMap.keep (fun a => !(pa ≤ a && a < pa + n)) s.mem.hbm) a = _
        rw [SMap.get_keep 0 _ s.mem.hbm 0 a wf.1]
        rw [if_pos]
        simp only [overlaps] at ho'
        simp [x] at ho' ⊢
        omega
      · show SMap.get false (SMap.keep _ s.mem.poison) _ = _
        rw [SMap.get_keep false _ s.mem.poison 0 _ wf.2, if_pos]
        · exact c.2 hp
        · simp only [overlaps] at ho' ⊢
          simp [x] at ho' ⊢
          omega
    · intro x hu; simp [x, L2Line.empty] at hu
  · intro j k hj hk hjk
    rw [g] at hj hjk; rw [g] at hk hjk
    split at hj
    · rename_i h1
      split at hk
      · rename_i h2
        rw [if_pos h1, if_pos h2] at hjk
        exact q.once j k hj hk hjk
      · simp [L2Line.empty] at hk
    · simp [L2Line.empty] at hj

theorem wf_l2Clean (s : State) (x : L2Line) (h : Memory.wf s.mem = true) : Memory.wf (l2Clean s x).mem = true :=
  foldl_keeps (fun t => Memory.wf t.mem = true) _ _ s h (fun t ht _ _ => wf_hbmWrite t _ _ _ ht)

/-- Entry to Idle and a memory test write every dirty sector back. -/
theorem inv_writeBackAll (s : State) (h : Memory.inv s.mem) : Memory.inv (writeBackAll s).mem := by
  refine Memory.inv_empty _ ?_ rfl
  refine foldl_keeps (fun t => Memory.wf t.mem = true) _ _ _ ?_ (fun t ht x _ => wf_l2Clean t _ ht)
  refine (foldl_keeps (fun t => Memory.inv t.mem) _ _ _ ?_ ?_).1
  · exact foldl_keeps (fun t => Memory.inv t.mem) _ _ s h (fun t ht a _ => inv_takeDirty t a ht)
  · intro t ht k _
    refine foldl_keeps (fun t => Memory.inv t.mem) _ _ t ht (fun u hu x _ => ?_)
    exact inv_takeDirty u _ hu

theorem inv_keptMem (s : State) (h : Memory.inv s.mem) : Memory.inv (keptMem s) := Memory.inv_empty _ h.1 rfl

theorem wf_keep (s : State) (p q : Nat → Bool) (h : Memory.wf s.mem = true) :
    Memory.wf { s.mem with hbm := SMap.keep p s.mem.hbm, poison := SMap.keep q s.mem.poison } = true := by
  unfold Memory.wf at *
  simp only [Bool.and_eq_true] at *
  exact ⟨SMap.wf_keep 0 _ _ h.1, SMap.wf_keep false _ _ h.2⟩

theorem inv_eraseMem (s : State) (h : Memory.inv s.mem) : Memory.inv (eraseMem s).mem :=
  Memory.inv_empty _ (by have := wf_keep s (fun a => s.sku.usable ≤ a) (fun k => s.sku.usable ≤ 32 * k) h.1; exact this) rfl

end Sys2Proof.Machine
end

