-- ==== Sys2Proof/Tests/Slice0.lean ====
section
/-! SUPPORT. Tests: each on one step or one definition, expected results from the manual. A theorem `witness_…` shows a concrete state
and operands that meet the hypotheses of an obligation, clause by clause. -/

set_option maxRecDepth 20000

namespace Sys2Proof.Machine.Tests

set_option Elab.async false

/-! ## Small states -/

/-- The module in SERVICE: rails good, memory ready, firmware up, fabric time 1,000. -/
def up : State :=
  { State.reset with
    time := { Time.zero with ft := 1000 }
    pow := { Pow.reset with power := .active, svc := 3, pwrEn := true, in52 := true, perst := false, hbmDone := true, fabDone := true
                            coldNext := false }
    rm := { Rm.reset with up := true, verified := true } }

/-- The fields of an instruction that acts for its whole set. -/
def flds (dst srca srcb srcc : BitVec 8) (opmod : BitVec 8 := 0) : Fields :=
  { dst := dst, srca := srca, srcb := srcb, srcc := srcc, guard := 0, neg := false, ge := false, ua := false, ub := false, ic := false
    opmod := opmod, long := none }

/-- Address 64 of a context: device memory 0x4000_0040, executable in `withGroup`. -/
def home : W64 := 0xFFFF000000000040

/-- An issue of group slot 0 of core 0 at `home`. -/
def at0 (f : Fields) : Issue := { core := 0, gslot := 0, pc := home, f := f }

def runsAt (pc : W64) : Thread := { pc := pc, stat := .running, preds := 0, mark := false, age := 0 }

/-- A group of two threads at `home`, with 16 registers a thread, in team slot 0 of context 0. -/
def g2 : Group := { Group.empty with occ := true, nreg := 16, threads := [runsAt home, runsAt home] }
/-- Its team: group slot 0 and one granule of tile memory. -/
def t1 : Team := { Team.empty with occ := true, gslots := [0], tgran := [0] }

/-- `up` with a group and its team on core 0, and a live context 0 of partition 0 whose table maps 1 GiB pages: memory at VA 0, host
memory at 1 GiB, a thatched page at 2 GiB and the register pages at 3 GiB; the instruction cache holds the line of `home`. -/
def withGroup (g : Group) (k : Core := Core.empty) : State :=
  { up with
    cores := [(0, { k with groups := [(0, g)], teams := [(0, t1)], icache := [(icKey 0x800000 0, 0x800001)] })]
    box := { Box.empty with ctxs := [(0, { Ctx.free with st := 1, root := some 0x10000 })] }
    mem := { Mem.empty with
      hbm := [(0x10000, 0x01), (0x10001, 0x10), (0x10002, 0x01), (0x11000, 0x1F), (0x11003, 0x40), (0x11008, 0x8F), (0x11010, 0x27)
        , (0x11013, 0x80), (0x11018, 0x4F)] } }

def one : State := withGroup g2

/-- The conditions of an issue, as a Bool. -/
def issuesB (sh : Shape) (ok : Bool) (bad : Group → List Nat → List Nat) (x : Issue) (s : State) (set act : List Nat) : Bool :=
  decide (gate s x = some set) && legal (grp s x.core x.gslot).nreg sh x.f && ok && decide (act = acting x.f (grp s x.core x.gslot) set)
    && interlocked sh x.f (grp s x.core x.gslot) act && decide (bad (grp s x.core x.gslot) act = [])

theorem issues_of {sh : Shape} {ok : Bool} {bad : Group → List Nat → List Nat} {x : Issue} {s : State} {set act : List Nat}
    (h : issuesB sh ok bad x s set act = true) : IssuesBad sh ok bad x s set act := by
  simp only [issuesB, Bool.and_eq_true, decide_eq_true_eq] at h
  obtain ⟨⟨⟨⟨⟨a, b⟩, c⟩, d⟩, e⟩, f⟩ := h
  exact ⟨a, b, c, d, e, f⟩

theorem sound_of_empty (s : State) (w : Memory.wf s.mem = true) (h : s.mem.l2 = []) : Memory.sound s.mem := (Memory.inv_empty _ w h).2

/-! ## Witnesses: instructions of a thread (OPMOD, registers and lanes at the ends of their ranges) -/

theorem witness_IntegerResults :
    Issues (shBin 1 3) true (at0 (flds 15 0 15 0 2)) one [0, 1] [0, 1] ∧ Issues (shBin 2 3) true (at0 (flds 14 0 2 0 3)) one [0, 1] [0, 1] :=
  ⟨issues_of (by decide +kernel), issues_of (by decide +kernel)⟩

def uflds (dst srca srcb : BitVec 8) (opmod : BitVec 8 := 0) : Fields := { flds dst srca srcb 0 opmod with ua := true, ub := true }

theorem witness_UniformResults :
    Issues (shUBin 3) true (at0 (uflds 63 0 63 3)) one [0, 1] [0, 1] ∧
    Issues ⟨.u, .un, .un, .un, .none, 0, .uni⟩ (decide (0 < (flds 63 7 0 0).srca.toNat) && decide ((flds 63 7 0 0).srca.toNat < 8))
      (at0 (flds 63 7 0 0)) one [0, 1] [0, 1] :=
  ⟨issues_of (by decide +kernel), issues_of (by decide +kernel)⟩

theorem witness_FloatResults :
    Issues { shBin 1 3 with lop := .b } true (at0 (flds 15 0 1 0 3)) one [0, 1] [0, 1] ∧
    Issues (shTer 2 3) true (at0 (flds 14 0 2 4 3)) one [0, 1] [0, 1] :=
  ⟨issues_of (by decide +kernel), issues_of (by decide +kernel)⟩

theorem witness_FloatMinMaxCompare :
    Issues { shBin 1 3 with lop := .b } true (at0 (flds 15 0 1 0)) one [0, 1] [0, 1] ∧
    Issues (shCmp 2) (decide ((flds 7 0 2 0 5).opmod.toNat % 8 < 6)) (at0 (flds 7 0 2 0 5)) one [0, 1] [0, 1] :=
  ⟨issues_of (by decide +kernel), issues_of (by decide +kernel)⟩

theorem witness_ElementaryResults :
    Issues { shUn 1 0 with lop := .none } true (at0 (flds 15 0 0 0)) one [0, 1] [0, 1] := issues_of (by decide +kernel)

/-- F2F from binary32 to binary64, and to INT8, which is of the wrong kind. -/
theorem witness_ConversionResults :
    Issues ⟨.v 2, .v 1, .un, .un, .none, 255, .vec⟩ true (at0 (flds 14 0 0 0 0x10)) one [0, 1] [0, 1] ∧
    gate one (at0 (flds 14 0 0 0 0x60)) = some [0, 1] := ⟨issues_of (by decide +kernel), by decide +kernel⟩

theorem witness_MoveCompareResults :
    Issues shMov true (at0 (flds 15 0 0 0)) one [0, 1] [0, 1] ∧ Issues shSel true (at0 (flds 15 0 1 7)) one [0, 1] [0, 1] ∧
    Issues ⟨.v 1, .un, .un, .un, .none, 0, .vec⟩ (decide ((flds 15 7 0 0).srca.toNat < 8)) (at0 (flds 15 7 0 0)) one [0, 1] [0, 1] ∧
    Issues ⟨.v 2, .un, .un, .un, .none, 0, .vec⟩ (decide ((flds 14 5 0 0).srca.toNat < 8)) (at0 (flds 14 5 0 0)) one [0, 1] [0, 1] ∧
    Issues (shCmp 1) (decide ((flds 7 0 1 0 0xD).opmod.toNat % 8 < 6)) (at0 (flds 7 0 1 0 0xD)) one [0, 1] [0, 1] ∧
    Issues ⟨.p, .p, .p, .un, .none, 15, .vec⟩ true (at0 (flds 7 0 7 0 15)) one [0, 1] [0, 1] :=
  ⟨issues_of (by decide +kernel), issues_of (by decide +kernel), issues_of (by decide +kernel), issues_of (by decide +kernel), issues_of (by decide +kernel), issues_of (by decide +kernel)⟩

/-- The instruction acts for the threads whose p1 is 1: thread 0. -/
def guarded : State := withGroup { g2 with threads := [{ runsAt home with preds := 2 }, runsAt home] }

theorem witness_CrossLaneResults :
    (let x := at0 (flds 15 0 1 0); let g := grp one 0 0
     let sh : Shape := ⟨.v 1, .v 1, .v 1, .un, .none, 0, .vec⟩
     let own : Shape := ⟨.v 1, if x.f.ua then .v 1 else .un, .v 1, .un, .none, 0, .vec⟩
     let src := fun k => srcB sh x.f g k 1 % 32
     IssuesBad sh true (fun g act => act.filter (fun k => poisonedReads own x.f g [k] != []
       || (!x.f.ua && SMap.get false g.vpoison (256 * src k + x.f.srca.toNat)))) x one [0, 1] [0, 1] ∧ regSettled g lanes 0 = true) ∧
    Issues ⟨.p, .p, .un, .un, .none, 0, .vec⟩ true (at0 { flds 7 0 0 0 with ge := true, guard := 1 }) guarded [0, 1] [0] ∧
    Issues ⟨.v 1, .p, .un, .un, .none, 0, .vec⟩ true (at0 (flds 15 7 0 0)) one [0, 1] [0, 1] ∧
    (let x := at0 { flds 63 15 0 31 with ic := true }; let i := x.f.srcc.toNat; let r := x.f.srca.toNat
     IssuesBad ⟨.u, .v 1, .un, .un, .none, 0, .uni⟩ (x.f.ic && decide (i < 32))
       (fun g act => if r != 255 && SMap.get false g.vpoison (256 * i + r) then act else []) x one [0, 1] [0, 1] ∧
     regSettled (grp one 0 0) [i] r = true) ∧
    gate one (at0 { flds 63 15 0 32 with ic := true }) = some [0, 1] :=
  ⟨⟨issues_of (by decide +kernel), by decide +kernel⟩, issues_of (by decide +kernel), issues_of (by decide +kernel), ⟨issues_of (by decide +kernel), by decide +kernel⟩, by decide +kernel⟩

/-- `g2` with the 64-bit address `a` in v2 and v3 of both threads, and in u2. -/
def withAddr (a : Nat) : Group :=
  let l := BitVec.ofNat 32 a
  let h := BitVec.ofNat 32 (a / 2 ^ 32)
  { g2 with vreg := [(2, l), (3, h), (258, l), (259, h)].filter (fun e => e.2 != 0), ureg := [(2, BitVec.ofNat 64 a)] }

/-- A context address of the virtual address `va`. -/
def cva (va : Nat) : Nat := 0xFFFF * 2 ^ 48 + va
def cva' (va : Nat) : W64 := BitVec.ofNat 64 (cva va)

/-- `Issues` as a Bool; `iss_issues` says that it implies it. -/
def iss (sh : Shape) (ok : Bool) (x : Issue) (s : State) (set act : List Nat) : Bool := issuesB sh ok (poisonedReads sh x.f) x s set act
theorem iss_issues {sh : Shape} {ok : Bool} {x : Issue} {s : State} {set act : List Nat} (h : iss sh ok x s set act = true) :
    Issues sh ok x s set act := issues_of h

/-- Thread 0 acts alone: p1 is 1 for it only. -/
def lone (g : Group) : Group := { g with threads := [{ runsAt home with preds := 2 }, runsAt home] }
def onP1 (f : Fields) : Fields := { f with ge := true, guard := 1 }

/-- `s` with the pages of VA `va` of context 0 among the shared translations. -/
def heldAt (va : Nat) (s : State) : State := { s with mem := { s.mem with stlb := [(0, va / 65536)] } }

/-- LD.G and an atomic at the last aligned address of the memory page, by both threads, whose page is among the shared translations, or by
one, whose page is not; LD.IO of CORE_FLT_INFO, LD.G of the thatched page, ULD.G. -/
theorem witness_AccessesIssue :
    (let s := heldAt 0x3FFFFFF0 (withGroup (withAddr (cva 0x3FFFFFF0))); let f := flds 12 2 0xFF 0xFF 4
     iss (shLdG f) (accOk f) (at0 f) s [0, 1] [0, 1] = true ∧ s.mem.stlb.length ≤ 8192 ∧
     ∀ k ∈ [0, 1], (memAddr f (grp s 0 0) k 16).toNat % 16 = 0 ∧ isLocal (memAddr f (grp s 0 0) k 16) = true ∧
       access s 0 .load (vaOf (memAddr f (grp s 0 0) k 16)) = .mem 0x7FFFFFF0 ∧ xlatHeld s 0 (vaOf (memAddr f (grp s 0 0) k 16)) = true) ∧
    (let s := withGroup (lone (withAddr (cva 0x80000000))); let f := onP1 (flds 4 2 0xFF 0xFF 2)
     iss (shLdG f) (accOk f) (at0 f) s [0, 1] [0] = true ∧ access s 0 .load (vaOf (memAddr f (grp s 0 0) 0 4)) = .thatch 0x80000000 0) ∧
    (let s := withGroup (lone (withAddr (cva (0xC0000000 + 0x10000C0)))); let f := onP1 (flds 4 2 0xFF 0xFF 2)
     iss (shLdIo f) (ioOk f) (at0 f) s [0, 1] [0] = true ∧ access s 0 .ldio (vaOf (memAddr f (grp s 0 0) 0 4)) = .io 0x10000C0 ∧
     iss (shStIo f) (ioOk f && dataOk f) (at0 f) s [0, 1] [0] = true ∧ access s 0 .stio (vaOf (memAddr f (grp s 0 0) 0 4)) = .io 0x10000C0) ∧
    (let s := heldAt 0x3FFFFFF8 (withGroup (withAddr (cva 0x3FFFFFF8))); let f := flds 12 2 4 0 1
     iss (shAtom 2 false 1) true (at0 f) s [0, 1] [0, 1] = true ∧
     ∀ k ∈ [0, 1], let a : W64 := BitVec.ofNat 64 (regVal (grp s 0 0) k false 2 2)
       a.toNat % 8 = 0 ∧ isLocal a = true ∧ access s 0 .atom (vaOf a) = .mem 0x7FFFFFF8 ∧ xlatHeld s 0 (vaOf a) = true) ∧
    (let s := withGroup (withAddr (cva 0x3FFFFFF8)); let f := { flds 63 2 0xFF 0xFF 3 with ua := true }
     iss shUld (accOk f && decide (accSize f ≤ 8) && f.ua) (at0 f) s [0, 1] [0, 1] = true ∧ (memAddr f (grp s 0 0) 0 8).toNat % 8 = 0 ∧
     isLocal (memAddr f (grp s 0 0) 0 8) = true ∧ access s 0 .load (vaOf (memAddr f (grp s 0 0) 0 8)) = .mem 0x7FFFFFF8) := by decide +kernel

/-- A line of core 0 in M, all sectors valid. -/
def ownedLine (line : Nat) (dirty : Nat := 0) : SMap L1Line :=
  [(l1Key line 0, { line := line, st := .m, valid := 15, dirty := dirty, poison := 0, mark := false, data := (upTo 0 128).map (fun _ => 0) })]


/-- ST.G on a line not held and on one held in M, at the end of the line; ST.T and LD.T of the last byte of one granule. -/
theorem witness_StoresAndTileMemory :
    (let f := onP1 (flds 0 2 4 0xFF 4); let s := withGroup (lone (withAddr (cva 0x70)))
     iss (shStG f) (accOk f && dataOk f) (at0 f) s [0, 1] [0] = true ∧ (grp s 0 0).sb = [] ∧ (grp s 0 0).accs = [] ∧
     (memAddr f (grp s 0 0) 0 16).toNat % 16 = 0 ∧ isLocal (memAddr f (grp s 0 0) 0 16) = true ∧ Memory.wf s.mem = true ∧ s.mem.l2 = [] ∧
     access s 0 .store (vaOf (memAddr f (grp s 0 0) 0 16)) = .mem 0x40000070 ∧ ownsLine s 0 0x40000070 = false) ∧
    (let f := onP1 (flds 0 2 4 0xFF 4); let s := withGroup (lone (withAddr (cva 0x70))) { Core.empty with l1 := ownedLine (0x40000070 / 128) }
     (grp s 0 0).sb = [] ∧ (grp s 0 0).accs = [] ∧ access s 0 .store (vaOf (memAddr f (grp s 0 0) 0 16)) = .mem 0x40000070 ∧
     iss (shStG f) (accOk f && dataOk f) (at0 f) s [0, 1] [0] = true ∧ ownsLine s 0 0x40000070 = true ∧
     (l1Line s 0 (0x40000070 / 128)).data.length = 128 ∧ policyOf f ≠ 2) ∧
    (let f := onP1 (flds 0 2 4 0xFF 0); let s := withGroup (lone (withAddr 4095))
     iss (shStT f) (accOk f && dataOk f) (at0 f) s [0, 1] [0] = true ∧ (tileAddr f (grp s 0 0) 0 1).toNat < tileSize (tm s 0 0) ∧
     (tm s 0 0).tgran.Nodup) ∧
    (let f := flds 4 2 0xFF 0xFF 0; let s := withGroup (withAddr 4095)
     iss (shLdT f) (accOk f) (at0 f) s [0, 1] [0, 1] = true ∧ engineWrites (core s 0) 0 = [] ∧
     ∀ j ∈ [0, 1], (tileAddr f (grp s 0 0) j 1).toNat < tileSize (tm s 0 0) ∧ tileBad s 0 0 (tileAddr f (grp s 0 0) j 1).toNat 1 = false) := by
  decide +kernel

theorem witness_MisalignedFaults :
    (let f := flds 4 2 0xFF 0xFF 1; let s := withGroup (withAddr (cva 1))
     iss (shLdG f) (accOk f) (at0 f) s [0, 1] [0, 1] = true ∧
     ∀ k ∈ [0, 1], (memAddr f (grp s 0 0) k 2).toNat % 2 ≠ 0 ∧ isLocal (memAddr f (grp s 0 0) k 2) = true) ∧
    (let f := flds 0 2 4 0xFF 4; let s := withGroup (withAddr 0xFF8)
     iss (shStT f) (accOk f && dataOk f) (at0 f) s [0, 1] [0, 1] = true ∧ ∀ k ∈ [0, 1], (tileAddr f (grp s 0 0) k 16).toNat % 16 ≠ 0) ∧
    (let f := flds 4 2 6 8 1; let s := withGroup (withAddr (cva 0xFFC))
     iss (shAtom 2 true 1) true (at0 f) s [0, 1] [0, 1] = true ∧
     ∀ k ∈ [0, 1], (BitVec.ofNat 64 (regVal (grp s 0 0) k false 2 2) : W64).toNat % 8 ≠ 0) := by decide +kernel

theorem witness_CacheMaintenance :
    (let f := onP1 { flds 0 2 0xFF 0 with srcb := 4 }; let g := { lone (withAddr (cva 0x70)) with vreg := [(2, 0x70), (3, 0xFFFF0000), (4, 1)] }
     let s := withGroup g { Core.empty with l1 := ownedLine (0x40000070 / 128) 8 }
     iss shRange true (at0 f) s [0, 1] [0] = true ∧ s.mem.putms = [] ∧ g.sb = [] ∧
     l1Ranges s 0 (BitVec.ofNat 64 (regVal g 0 false 2 2)) (srcB shRange f g 0 1) = [(0x40000000, 0x40000080)]) := by decide +kernel

/-- Both threads arrive; and thread 0 alone, while thread 1 does not. -/
theorem witness_BarrierResults :
    (let x := at0 (flds 0 0 0 0)
     iss shNone true x one [0, 1] [0, 1] = true ∧ lanesQuiet one x = true ∧ (tm one 0 0).gslots = [0] ∧ (grp one 0 0).watch = none ∧
     ∀ k < 32, k ∈ [0, 1] ∨ ((grp one 0 0).thr k).stat = .exited) ∧
    (let x := at0 (onP1 (flds 0 0 0 0)); let s := withGroup (lone g2)
     iss shNone true x s [0, 1] [0] = true ∧ lanesQuiet s x = true ∧ ((grp s 0 0).thr 1).stat = .running ∧ (tm s 0 0).watch = none) := by decide +kernel

/-- Nothing outstanding; and a store in the buffer. -/
theorem witness_FenceResults :
    (let x := at0 (flds 0 0 0 0)
     iss shNone true x one [0, 1] [0, 1] = true ∧ (grp one 0 0).sb = [] ∧ (grp one 0 0).accs = [] ∧ mxPending (core one 0) 0 = 0 ∧
     tmPending (core one 0) 0 = 0 ∧ groupReqs one 0 0 = []) ∧
    (let x := at0 (flds 0 0 0 0)
     let s := withGroup { g2 with sb := [{ id := 0, th := 0, dest := .l1 0x40000000, addr := 0, size := 4, data := 1, policy := 0, after := [] }] }
     iss shNone true x s [0, 1] [0, 1] = true ∧ (grp s 0 0).sb ≠ []) := by decide +kernel

/-- `s` with fence slot 262,143 owned by context 0. -/
def withFence (s : State) (f : Fence) : State := { s with box := { s.box with fences := [(262143, f)] } }
def fenceAddr : Nat := 0xFFFF * 2 ^ 48 + 2 * 2 ^ 40 + 8 * 262143

theorem witness_FenceSlotResults :
    (let x := at0 (onP1 (flds 4 2 0xFF 0xFF)); let g := lone (withAddr fenceAddr)
     let s := withFence (withGroup g) { owner := some 0, sig := false, err := false }
     let t := withFence (withGroup g) { owner := some 0, sig := true, err := true }
     iss shWaitf true x s [0, 1] [0] = true ∧ waitSlot s (lfref x g 0) = some 262143 ∧ slotMine s 0 262143 = true ∧
     (fence s 262143).sig = false ∧ iss shWaitf true x t [0, 1] [0] = true ∧ (fence t 262143).sig = true ∧ slotMine t 0 262143 = true) ∧
    (let w : WaitRec := { th := 1, slot := 262143, dst := 15, till := some 0 }
     let s := withGroup { g2 with waits := [w] }
     (grp s 0 0).waits.find? (fun v => v.th == 1 && match v.till with | some n => decide (n ≤ s.time.ccRun) | none => false) = some w ∧
     1 < (grp s 0 0).threads.length) ∧
    (let x := at0 (onP1 (flds 0 2 0xFF 0xFF 1)); let g := lone (withAddr fenceAddr)
     let s := withFence (withGroup g) { owner := some 0, sig := false, err := false }
     iss shSigf true x s [0, 1] [0] = true ∧ fref (lfref x g 0) = .loc 262143 ∧ slotMine s 0 262143 = true ∧
     iss shSigf true x (withGroup g) [0, 1] [0] = true ∧ slotMine (withGroup g) 0 262143 = false) ∧
    (let x := at0 (onP1 (flds 0 2 0xFF 0xFF)); let g := lone (withAddr (fenceAddr + 8))
     iss shSigf true x (withGroup g) [0, 1] [0] = true ∧ fref (lfref x g 0) = .bad) ∧
    (let x := at0 (onP1 (flds 4 2 0xFF 0xFF)); let g := lone (withAddr fenceAddr)
     iss shWaitf true x (withGroup g) [0, 1] [0] = true ∧ slotMine (withGroup g) 0 262143 = false) := by decide +kernel

/-- BRA to itself, a long-form BRA to 68, EXIT of both threads. -/
theorem witness_ControlResults :
    (let f := flds 0 0 0 0; iss shBra true (at0 f) one [0, 1] [0, 1] = true ∧
      (home + 8 * (f.srca ++ f.srcb ++ f.srcc : BitVec 24).signExtend 64).toNat % 8 = 0) ∧
    (let f := { flds 14 0 0 0 with long := some 68 }; iss shCall true (at0 f) one [0, 1] [0, 1] = true ∧ (68 : W64).toNat % 8 ≠ 0) ∧
    (let s := withGroup (withAddr 68); iss shBraR true (at0 (flds 0 2 0 0)) s [0, 1] [0, 1] = true ∧
      ∀ k ∈ [0, 1], (BitVec.ofNat 64 (regVal (grp s 0 0) k false 2 2) : W64).toNat % 8 ≠ 0) ∧
    (iss shNone true (at0 (flds 0 0 0 0)) one [0, 1] [0, 1] = true ∧ ∀ k, k < (grp one 0 0).threads.length → k ∈ [0, 1] ∨ ((grp one 0 0).thr k).stat = .exited) := by
  decide +kernel

def debugCtx (s : State) : State := { s with box := { s.box with ctxs := [(0, { ctx s 0 with debug := true })] } }
theorem witness_TrapResults :
    (let x := at0 (flds 0 0 0 0); iss shNone true x one [0, 1] [0, 1] = true ∧ (ctx one 0).debug = false ∧
     iss shNone true x (debugCtx one) [0, 1] [0, 1] = true ∧ (ctx (debugCtx one) 0).debug = true) := by decide +kernel

/-! ## Witnesses: engines and answers -/

def gflds (srca srcb srcc : BitVec 8) (opmod : BitVec 8 := 0) : Fields := { flds 0xFF srca srcb srcc opmod with ua := true, ub := true }
def mxSwapCmd : MxCmd := { kind := .swap, gslot := 0, pc := home, mask := 3, a := 0, b := 0, c := 0, order := 0 }

/-- The claim is free and nobody waits; another group holds it; this group holds it with 16 commands outstanding; a group in the last
slot waits. -/
theorem witness_MatrixIssue :
    (iss (shMx 3) true (at0 (gflds 0 63 1)) one [0, 1] [0, 1] = true ∧ mxCan (core one 0) 0 = true ∧ (core one 0).claim = none ∧
     (core one 0).last ≠ some 0 ∧ (grp one 0 0).mxBack = none) ∧
    (let s := withGroup g2 { Core.empty with claim := some 1 }
     iss (shMx 2) true (at0 (gflds 0 63 0xFF)) s [0, 1] [0, 1] = true ∧ mxCan (core s 0) 0 = false) ∧
    (let s := withGroup g2 { Core.empty with claim := some 0, mxq := List.replicate 16 mxSwapCmd }
     iss (shMx 0) true (at0 (gflds 0xFF 0xFF 0xFF)) s [0, 1] [0, 1] = true ∧ mxCan (core s 0) 0 = false ∧ mxPending (core s 0) 0 ≠ 0) ∧
    (let s := withGroup g2 { Core.empty with claim := some 0, last := some 0, mxq := [mxSwapCmd] }
     iss (shMx 0) true (at0 (gflds 0xFF 0xFF 0xFF)) s [0, 1] [0, 1] = true ∧ mxCan (core s 0) 0 = true ∧ mxPending (core s 0) 0 ≠ 0) ∧
    (iss (shMx 0) true (at0 (gflds 0xFF 0xFF 0xFF)) one [0, 1] [0, 1] = true ∧ mxPending (core one 0) 0 = 0) ∧
    (let s := { up with cores := [(0, { Core.empty with last := some 63, groups := [(63, { g2 with mxWait := true })] })] }
     running s = true ∧ (core s 0).claim = none ∧ (grp s 0 63).occ = true ∧ (grp s 0 63).mxWait = true ∧
     ∀ j < 64, (grp s 0 j).occ = true ∧ (grp s 0 j).mxWait = true → (63 + 64 - 64 % 64) % 64 ≤ (j + 64 - 64 % 64) % 64) := by decide +kernel

/-- Core 0 whose group 0 holds the claim with one command. -/
def withMx (m : MxCmd) (k : Core := Core.empty) : State := withGroup g2 { k with claim := some 0, mxq := [m] }
def loadw (a b : W64) : MxCmd := { mxSwapCmd with kind := .loadw, a := a, b := b }

/-- A reserved shape word; an odd range; the range one step past the granule; a damaged range; a load of one row at the end of the
granule; an exchange; the ends of a load and of a run. -/
theorem witness_MatrixCommands :
    (mxStarts (withMx (loadw 0 0x80)) 0 = some (loadw 0 0x80) ∧ shapeOk 0x80 = false) ∧
    (mxStarts (withMx (loadw 0x80 0x7F00)) 0 = some (loadw 0x80 0x7F00) ∧ shapeOk 0x7F00 = true ∧ mxReads (loadw 0x80 0x7F00) = [(0x80, 256)]) ∧
    (let s := withMx (loadw 0x1000 0x7F00); mxStarts s 0 = some (loadw 0x1000 0x7F00) ∧ tileSize (tm s 0 0) < 0x1000 + 256) ∧
    (let s := withMx (loadw 0 0x7F00) { Core.empty with tpoison := [(7, true)] }
     mxStarts s 0 = some (loadw 0 0x7F00) ∧ tileBad s 0 0 0 256 = true) ∧
    (let s := withMx (loadw 0xF00 0x7F00); mxStarts s 0 = some (loadw 0xF00 0x7F00) ∧ tileBad s 0 0 0xF00 256 = false ∧
     tileSize (tm s 0 0) = 0xF00 + 256 ∧ (core s 0).reload = none) ∧
    (mxStarts (withMx mxSwapCmd) 0 = some mxSwapCmd ∧ ∃ y ∈ (grp (withMx mxSwapCmd) 0 0).threads, y.stat ≠ .exited) ∧
    (let m := loadw 0xF00 0x7F00; let s := withGroup g2 { Core.empty with claim := some 0 }
     let t := withGroup g2 { Core.empty with claim := some 0, mxRuns := [{ cmd := m, input := tileRead s 0 0 0xF00 256, old := [], w := WSet.zero }] }
     ∃ r, (core t 0).mxRuns = [r] ∧ (∃ y ∈ (grp t 0 0).threads, y.stat ≠ .exited) ∧ r.cmd.kind = .loadw ∧ t.dbg.quiet = false ∧
       r.input = tileRead t 0 0 r.cmd.a.toNat (shapeM r.cmd.b.toNat * 128 * mxSize (shapeFmt r.cmd.b.toNat))) := by
  refine ⟨by decide +kernel, by decide +kernel, by decide +kernel, by decide +kernel, by decide +kernel, by decide +kernel, ⟨_, rfl, by decide +kernel, by decide +kernel, by decide +kernel, by decide +kernel⟩⟩

theorem witness_MatrixRun :
    let m : MxCmd := { mxSwapCmd with kind := .run, a := 0, b := 0xE00, c := 1 }
    let s := withGroup g2 { Core.empty with claim := some 0 }
    let r : MxRun := { cmd := m, input := tileRead s 0 0 0 256, old := tileRead s 0 0 0xE00 512, w := WSet.zero }
    let t := withGroup g2 { Core.empty with claim := some 0, mxRuns := [r] }
    (core t 0).mxRuns = [r] ∧ runOk m.c.toNat = true ∧ t.dbg.quiet = false ∧ (∃ y ∈ (grp t 0 0).threads, y.stat ≠ .exited) ∧
      r.input = tileRead t 0 0 m.a.toNat (128 * mxSize (runFmt 1) * runK 1) ∧ r.old = tileRead t 0 0 m.b.toNat (512 * runK 1) ∧
      m.a.toNat + 256 ≤ m.b.toNat ∧ m.b.toNat + 512 = tileSize (tm t 0 0) ∧ (tm t 0 0).tgran.Nodup ∧ r.w.m ≤ 128 ∧ r.w.n ≤ 128 ∧ m.a.toNat % 256 = 0 ∧
      m.b.toNat % 256 = 0 ∧ SMap.wf 0 r.w.w = true := by decide +kernel

def tmCmd (put : Bool) (a b c : W64) (mod : Nat := 0) : TmCmd :=
  { put := put, gslot := 0, pc := home, mask := 3, a := a, b := b, c := c, mod := mod, order := 0, moved := 0 }

/-- A heap of 2 MiB at VA 1 GiB with one live block of 256 bytes at its start. -/
def heapObj : Obj :=
  { index := 1, gen := 0, kind := 1, size := 2 ^ 21, target := 2 ^ 30, perm := 3, backing := [(0x50000000, 2 ^ 21)]
    maps := [{ va := 2 ^ 30, size := 2 ^ 21, psz := 2 ^ 16 }], region := 0, blocks := [(2 ^ 30, 256)], grans := [], dead := false }
def withHeap (s : State) : State := { s with box := { s.box with ctxs := [(0, { ctx s 0 with objs := [heapObj] })] } }
def allocAcc : Acc :=
  { id := 0, kind := .alloc, th := 1, mask := 2, addr := 0, dest := .none, size := 2 ^ 20, sx := false, policy := 0, dst := 14, data := none
    poison := false, before := [], regs := [], ins := 0 }

/-- `g2` with `v` in v2 and `w` in v3 of both threads. -/
def withV (v w : W32) : Group := { g2 with vreg := [(2, v), (3, w), (258, v), (259, w)].filter (fun e => e.2 != 0) }

theorem witness_MoverAndAllocatorIssue :
    (iss shTm (decide (bits (gflds 0 1 63 0xC).opmod.toNat 4 1 ≤ 6)) (at0 (gflds 0 1 63 0xC)) one [0, 1] [0, 1] = true ∧ tmRoom (core one 0) = true) ∧
    (let s := withGroup g2 { Core.empty with tmq := List.replicate 16 (tmCmd true 0 0 0) }
     iss shTmPut true (at0 (gflds 0 1 63)) s [0, 1] [0, 1] = true ∧ tmRoom (core s 0) = false) ∧
    (let f := { gflds 0xFF 0xFF 1 with ic := true }; let s := withGroup g2 { Core.empty with tmq := [tmCmd true 0 0 0, tmCmd true 0 0 0] }
     iss shNone (waitOk f) (at0 f) one [0, 1] [0, 1] = true ∧ tmPending (core one 0) 0 ≤ f.srcc.toNat ∧
     iss shNone (waitOk f) (at0 f) s [0, 1] [0, 1] = true ∧ f.srcc.toNat < tmPending (core s 0) 0) ∧
    (let x := at0 (flds 14 2 0 0)
     iss shAlloc true x (withGroup (withV 0 0)) [0, 1] [0, 1] = true ∧ iss shAlloc true x (withGroup (withV 0x40000001 0)) [0, 1] [0, 1] = true ∧
     iss shAlloc true x (withGroup (withV 0x40000000 0)) [0, 1] [0, 1] = true ∧ regVal (withV 0x40000000 0) 1 false 2 1 % 2 ^ 32 = 2 ^ 30) ∧
    (let x := at0 (onP1 (flds 0 2 0 0)); let s := withHeap (withGroup (lone (withAddr (cva (2 ^ 30))))); let t := withGroup (lone (withAddr (cva 0x100)))
     iss shFree true x s [0, 1] [0] = true ∧ quietCore s x = true ∧ blockAt (ctx s 0) (2 ^ 30) = some heapObj ∧
     iss shFree true x t [0, 1] [0] = true ∧ quietCore t x = true ∧ blockAt (ctx t 0) 0x100 = none ∧
     iss shFree true x (withGroup (lone g2)) [0, 1] [0] = true ∧ regVal (lone g2) 0 false 2 2 = 0) ∧
    (let s := withGroup { g2 with accs := [allocAcc] }; let t := withHeap s
     accAt s 0 0 0 = some allocAcc ∧ canSupply (ctx s 0) (2 ^ 20) = false ∧ accAt t 0 0 0 = some allocAcc) := by decide +kernel

theorem witness_AllocResult : regionPick (ctx (withHeap one) 0) 0 (2 ^ 20) = some (heapObj, 2 ^ 30 + 2 ^ 20) := by decide +kernel

/-- `one` with a tile-mover command at the head of core 0's queue. -/
def withTm (m : TmCmd) (grant : Bool := false) : State := withGroup g2 { Core.empty with tmq := [m], grant := grant }
/-- One row of 32 bytes. -/
def row32 : W64 := 0x1000020
/-- A live stream in slot 63 whose only tile of 32 bytes is ready, dealt to core 0. -/
def readyStream : Stream :=
  { Stream.empty with live := true, n1 := 1, n2 := 1, rowBytes := 32, rows := 1, rowStride := 32, lead := 1, ncores := 1, cstride := 1, deal := 1
                      tiles := [{ t := 0, dies := [0, 1, 2, 3], ready := true, fault := none, bytes := [], poison := [] }] }
def withStream (s : State) (x : Stream) : State := { s with streams := [(63, x)] }

theorem witness_MoverCommands :
    (tmStarts (withTm (tmCmd true 0 (cva' 0) 0)) 0 = some (tmCmd true 0 (cva' 0) 0) ∧ tmRow 0 = 0) ∧
    (tmStarts (withTm (tmCmd false 0 (cva' 1) row32)) 0 = some (tmCmd false 0 (cva' 1) row32) ∧ (cva' 1).toNat % 32 ≠ 0) ∧
    (let m := tmCmd false 0xFE1 (cva' 0) row32; tmStarts (withTm m) 0 = some m ∧ tileSize (tm (withTm m) 0 0) < m.a.toNat + m.size 32) ∧
    (let m := tmCmd false 0xFE0 (cva' 0x100000000) row32; tmStarts (withTm m) 0 = some m ∧ m.a.toNat + m.size 32 = tileSize (tm (withTm m) 0 0) ∧
      firstFault (spots (withTm m) 0 false (tmPieces m)) = some (1, cva 0x100000000)) ∧
    (let m := tmCmd true 0xFE0 (cva' 0) row32; tmStarts (withTm m) 0 = some m ∧ firstFault (spots (withTm m) 0 true (tmPieces m)) = none) ∧
    (let m := tmCmd false 0xFE0 (cva' 0) row32; tmStarts (withTm m) 0 = some m ∧ firstFault (spots (withTm m) 0 false (tmPieces m)) = none) ∧
    (let m := tmCmd false 0xFE1 63 0 1; let s := withStream (withTm m true) readyStream
     tmStarts s 0 = some m ∧ m.isStream = true ∧ getCase s 0 m = .take 0 ∧ tileSize (tm s 0 0) < m.a.toNat + (tileOf (stream s 63) 0).1.length) ∧
    (let m := tmCmd false 0xFE0 63 0 1; let s := withStream (withTm m true) readyStream
     tmStarts s 0 = some m ∧ getCase s 0 m = .take 0 ∧ m.a.toNat + (tileOf (stream s 63) 0).1.length = tileSize (tm s 0 0)) ∧
    (let s := withTm (tmCmd false 0 63 0 1); let t := { s with box := { s.box with grantReq := [0] } }
     running t = true ∧ grantCount t < grantMax t ∧ headReady t 0 = false ∧ headReady (withStream t readyStream) 0 = true) := by decide +kernel

/-- Ends of a TM.GET and of a TM.PUT to memory. -/
theorem witness_MoverEnds :
    (let r : TmRun := { cmd := tmCmd false 0xFE0 (cva' 0) row32, tile := none, src := (upTo 0 32).map (fun _ => 1), bad := [], puts := [], wait := [], host := [] }
     let s := withGroup g2 { Core.empty with tmRun := some r }
     (core s 0).tmRun = some r ∧ r.cmd.unpack = 0 ∧ (∃ y ∈ (grp s 0 0).threads, y.stat ≠ .exited) ∧ 0xFE0 + r.src.length = tileSize (tm s 0 0) ∧
     (tm s 0 0).tgran.Nodup) ∧
    (let s := withGroup g2
     let r : TmRun := { cmd := tmCmd true 0 (cva' 0) row32, tile := none, src := tileRead s 0 0 0 32, bad := [], puts := [(0x40000000, 0, 32, false)], wait := [], host := [] }
     let t := withGroup g2 { Core.empty with tmRun := some r }
     (core t 0).tmRun = some r ∧ r.src = tileRead t 0 0 0 r.src.length ∧ Memory.sound t.mem) :=
  ⟨by decide +kernel, by decide +kernel, by decide +kernel, sound_of_empty _ (by decide +kernel) rfl⟩

/-- An access of thread 1 with its result in v12. -/
def accOf (kind : AccKind) (dest : Dest) (size : Nat) (policy : Nat := 0) : Acc :=
  { id := 5, kind := kind, th := 1, mask := 2, addr := BitVec.ofNat 64 (cva 0x70), dest := dest, size := size, sx := true, policy := policy, dst := 12
    data := none, poison := false, before := [], regs := [], ins := 0 }
def withAcc (a : Acc) (k : Core := Core.empty) : State := withGroup { g2 with accs := [a] } k
def poisoned (m : SMap L1Line) : SMap L1Line := m.map (fun (e : Nat × L1Line) => (e.1, { e.2 with poison := 8 }))

def aFault (mask : Nat := 1) : FaultRec :=
  { kind := 15, gslot := 0, tslot := 15, engine := false, ctx := 4095, mask := mask, pc := home, addr := 0xFFFFFFFFFFFFFFFF, tag := 0xFFFF, code := 0xFFFF, lanes := [], ins := none }
theorem witness_AccessAnswers :
    (let a := accOf .load (.mem 0x40000070) 16; let s := withAcc a { Core.empty with l1 := ownedLine 0x800000 }
     accAt s 0 0 5 = some a ∧ memUp s = true ∧ mayPerform (grp s 0 0) a = true ∧ loadHit s 0 0 a 0x40000070 = true ∧
     loadHit (withAcc a) 0 0 a 0x40000070 = false ∧ bit (l1Line s 0 0x800000).poison 3 = false ∧ (l1Line s 0 0x800000).data.length = 128 ∧
     bit (l1Line (withAcc a { Core.empty with l1 := poisoned (ownedLine 0x800000) }) 0 0x800000).poison 3 = true ∧
     12 + (a.size + 3) / 4 ≤ 255 ∧ a.mask.testBit a.th = true) ∧
    (let a := accOf .load (.thatch 0x80000000 4080) 16; accAt (withAcc a) 0 0 5 = some a ∧ (thRead (withAcc a) 0x80000000 4080 16).isSome = true) ∧
    (let a := accOf .load (.thatch 0x80000000 0) 4; let s := withAcc a
     let t := { s with mem := { s.mem with poison := [(0x80000000 / 32, true)] } }
     accAt t 0 0 5 = some a ∧ memUp t = true ∧ thRead t 0x80000000 0 4 = none) ∧
    (let a := accOf .load (.host 0) 16; accAt (withAcc a) 0 0 5 = some a ∧ memUp (withAcc a) = true ∧ a.dest = .host 0) ∧
    (let a := accOf .ldio (.io 0x10000C0) 8; accAt (withAcc a) 0 0 5 = some a ∧ a.kind = .ldio) ∧
    (let a := accOf .stio (.io 0x10000C0) 8; accAt (withAcc a) 0 0 5 = some a ∧ a.kind = .stio) ∧
    (let a := accOf .load (.mem 0x40000070) 16 2; let s := withAcc a
     bypReadable s 0 0 5 = some 0x800000 ∧ blocked s 0x800000 = false ∧ (dirOf s 0x800000).used = false ∧ poisonIn s 0x40000070 16 = false) ∧
    (let a := accOf (.atom 1 true 1 0) (.mem 0x40000078) 8; let s := withAcc a
     atomReady s 0 0 5 = some 0x800000 ∧ blocked s 0x800000 = false ∧ (dirOf s 0x800000).used = false ∧ poisonIn s 0x40000078 8 = false) ∧
    (let e : StEnt := { id := 0, th := 0, dest := .bypass 0x40000070, addr := 0, size := 16, data := 1, policy := 2, after := [] }
     let s := withGroup { g2 with sb := [e] }
     bypWritable s 0 0 0 = some (0x800000, e) ∧ blocked s 0x800000 = false ∧ (dirOf s 0x800000).used = false ∧ 0x40000070 % 32 + e.size ≤ 32) ∧
    (let a := accOf .load (.mem 0x40000070) 16; let k := { Core.empty with l1 := poisoned (ownedLine 0x800000), faults := [{ aFault with ins := some 0 }] }
     ∃ q ∈ (core (withAcc a k) 0).faults, q.isOf 0 a.ins = true) ∧
    (let s := withAcc (accOf .load (.host 0) 16); let t := { s with pow := { s.pow with links := [(0, (1, 4, false))] } }
     linkUp t (hostPort t 0) = true ∧ linkUp s (hostPort s 0) = false ∧ (∀ q ∈ (core s 0).faults, q.isOf 0 0 = false) ∧
     accAt t 0 0 5 = some (accOf .load (.host 0) 16)) := by
  decide +kernel

/-- Fetches: a reserved word that is in memory and in the cache, a misaligned program counter, a page that may not be executed, the last
word of the page, and a long instruction whose second word lies in the next page. -/
theorem witness_Fetches :
    (fetches one 0 0 home = true ∧ reservedNext one 0 0 home = true) ∧
    (let s := withGroup { g2 with threads := [runsAt (cva' 4)] }; fetches s 0 0 (cva' 4) = true ∧ reservedNext s 0 0 (cva' 4) = false) ∧
    (let s := withGroup { g2 with threads := [runsAt (cva' 0x40000000)] }
     fetches s 0 0 (cva' 0x40000000) = true ∧ reservedNext s 0 0 (cva' 0x40000000) = false ∧
     (fetchWords s 0 (cva' 0x40000000)).find? (fun w => w.2.1 != 0) = some (cva' 0x40000000, 2, 0)) ∧
    (let pc := cva' 0x3FFFFFF8; let s := withGroup { g2 with threads := [runsAt pc] }
     let t := { s with mem := { s.mem with hbm := s.mem.hbm ++ [(0x7FFFFFFF, 0x80)] } }
     fetches s 0 0 pc = true ∧ reservedNext s 0 0 pc = false ∧ (∀ w ∈ fetchWords s 0 pc, w.2.1 = 0) ∧
     reservedNext t 0 0 pc = false ∧ (fetchWords t 0 pc).find? (fun w => w.2.1 != 0) = some (cva' 0x40000000, 2, 0)) := by decide +kernel

/-- `s` with the listed register values (page * 4096 + offset, value). -/
def withRegs (s : State) (l : List (Nat × Nat)) : State :=
  { s with regs := { s.regs with val := l.foldl (fun m e => SMap.put none m e.1 (some (BitVec.ofNat 64 e.2))) s.regs.val } }

/-- `s` with context 0 as given. -/
def withCtx (s : State) (x : Ctx) : State := { s with box := { s.box with ctxs := [(0, x)] } }

def thrAt (st : ThStat) : Thread := { runsAt 72 with stat := st }
def atBarrier (team : Bool) : State :=
  let w : Option Watch := some { count := 7, limit := 7 }
  let s := withGroup { g2 with threads := [thrAt (if team then .barT else .barG), runsAt home], watch := if team then none else w }
  { s with cores := s.cores.map (fun e => (e.1, { e.2 with teams := [(0, { t1 with watch := if team then w else none })] })) }

def faulted (s : State) (r : FaultRec) : State := { s with cores := s.cores.map (fun e => (e.1, { e.2 with faults := [r] })) }
def validRec : Nat := 0x100000 + 0xC0

theorem witness_FaultRecords :
    (barDue one 0 false 0 = false ∧ barDue one 0 true 0 = false ∧ barDue (atBarrier false) 0 false 0 = true ∧
     (grp (atBarrier false) 0 0).waiting .barG ≠ [] ∧ barDue (atBarrier true) 0 true 0 = true ∧ 0 ∈ (tm (atBarrier true) 0 0).gslots ∧
     (grp (atBarrier true) 0 0).waiting .barT ≠ [] ∧ (ctx (atBarrier true) 0).debug = false ∧
     barDue (debugCtx (atBarrier true)) 0 true 0 = true ∧ (ctx (debugCtx (atBarrier true)) 0).debug = true) ∧
    (let s := faulted one (aFault (2 ^ 32 - 1)); let r := aFault (2 ^ 32 - 1)
     (core s 0).faults = [r] ∧ fltValid s 0 = false ∧ s.dbg.raised = false ∧ (∀ e ∈ (grp s 0 r.gslot).sb, r.mask.testBit e.th = false) ∧
     r.kind < 16 ∧ r.gslot < 64 ∧ r.tslot < 16 ∧ r.ctx < 4096 ∧ r.mask < 2 ^ 32 ∧ r.tag < 2 ^ 16 ∧ r.code < 2 ^ 16 ∧ (ctx s r.ctx).debug = false ∧
     fltValid (withRegs s [(256 * 4096 + 0xC0, 0x80000001)]) 0 = true) ∧
    (let s := debugCtx (faulted one { aFault with ctx := 0 })
     (core s 0).faults = [{ aFault with ctx := 0 }] ∧ fltValid s 0 = false ∧ (ctx s 0).debug = true) ∧
    (let s := withRegs one [(256 * 4096 + 0xC0, 0x80000001)]
     bit (reg s (pgCore 0) 0xC0) 31 = true ∧ s.dbg.raised = false ∧ s.pow.power = .active ∧ (ctx s 0).debug = false ∧ (ctx s 0).st = 1 ∧
     bit (reg (debugCtx s) (pgCore 0) 0xC0) 31 = true ∧ (ctx (debugCtx s) 0).debug = true ∧
     pagesUp s = true ∧ (blkAt s.sku (pgCore 0)).isSome = true ∧ reaches s 0 (pgCore 0) = true ∧ reaches s 2 (pgCore 0) = false ∧ anyTeam s (fun t => t.ctx == 0) = true ∧
     let t := { s with cores := [], box := { s.box with fences := [(5, { Fence.free with owner := some 0 })] } }
     bit (reg t (pgCore 0) 0xC0) 31 = true ∧ (ctx t 0).st = 1 ∧ anyTeam t (fun x => x.ctx == 0) = false ∧ (∀ x ∈ t.box.saved, x.team.ctx ≠ 0) ∧
     (∀ r ∈ t.fab.reqs, r.ctx ≠ 0) ∧ (fence t 5).owner = some 0) := by decide +kernel

def unlocked (s : State) : State := { s with rm := { s.rm with scope := 1 } }
def halted (g : Group) (cause : Nat) : Group := { g with halted := true, cause := cause }

theorem witness_CoreDebug :
    (let s := unlocked one
     pagesUp s = true ∧ reaches s 0 (pgCore 0) = true ∧ scopeBit one 0 = false ∧ (blkAt s.sku (pgCore 0)).isSome = true ∧ scopeBit s 0 = true ∧
     (grp s 0 63).occ = false ∧ (grp s 0 0).occ = true ∧ (tm s 0 0).preempt = false ∧ (grp s 0 0).halted = false) ∧
    (let s := unlocked (withGroup (halted g2 3)); let t := withRegs s [(256 * 4096 + 0x110, home.toNat)]
     pagesUp s = true ∧ scopeBit s 0 = true ∧ (grp s 0 0).halted = true ∧ (∃ y ∈ (grp s 0 0).threads, y.stat ≠ .exited) ∧
     (grp s 0 0).setAt (BitVec.ofNat 64 (reg s (pgCore 0) 0x110)) = [] ∧ (grp t 0 0).setAt (BitVec.ofNat 64 (reg t (pgCore 0) 0x110)) ≠ []) ∧
    (let g := { g2 with haltReq := true }; g.occ = true ∧ g.haltReq = true ∧ g.halted = false ∧ g.stopped = false ∧ g.accs = [] ∧ g.sb = []) ∧
    (let g := grp (withAcc (accOf .load (.mem 0x40000070) 16)) 0 0; g.occ = true ∧ g.accs ≠ []) ∧
    (let g := { halted g2 2 with stepping := true }; g.occ = true ∧ g.halted = true ∧ g.stepping = true ∧ g.stopped = false ∧ g.accs = []) ∧
    (let s := withRegs (unlocked one) [(256 * 4096 + 0x138, home.toNat + 1), (256 * 4096 + 0x140, 2 ^ 31)]
     fetches s 0 0 home = true ∧ scopeBit s 0 = true ∧ (grp s 0 0).passBp ≠ some home ∧ bit (reg s (pgCore 0) 0x140) 31 = true ∧
     bits (reg s (pgCore 0) 0x140) 11 0 = (grp s 0 0).ctx ∧ bit (reg s (pgCore 0) (0x120 + 8 * 3)) 0 = true ∧
     reg s (pgCore 0) (0x120 + 8 * 3) / 8 = home.toNat / 8) := by decide +kernel

def aLaunch (threads teams : Nat) : Launch :=
  { q := 0, idx := 0, ctx := 0, tag := 3, prio := 3, entry := 64, teams := teams, threads := threads, nreg := 255, tmem := 512, u := [5], next := 0, ended := 0
    since := 0, status := 0 }
def launching (l : Launch) : State := { up with box := { Box.empty with ctxs := [(0, { Ctx.free with st := 1 })], launches := [l] } }
def preempted (discard : Bool) : State :=
  let s := one
  { s with cores := s.cores.map (fun e => (e.1, { e.2 with teams := [(0, { t1 with preempt := true, discard := discard })] })) }
def aSaved : Saved := { core := 0, team := { t1 with tag := 9 }, groups := [g2], tmem := [(4095, 7)], tpoison := [], tmq := [] }

theorem witness_TeamResults :
    (let l := aLaunch 512 65536; let s := launching l
     running s = true ∧ nextLaunch s 0 = some l ∧ placeFor s 0 l = some 0 ∧ l.threads = 32 * 16) ∧
    (let s := withCtx one { Ctx.free with st := 1, saveLen := 2 ^ 30 }
     let t := { s with box := { s.box with launches := [aLaunch 32 1] }, time := { s.time with nsRun := 2 ^ 40 } }
     running t = true ∧ (victimOf t 0).isSome = true ∧ t1.part = 0 ∧ t1.occ = true ∧ t1.preempt = false ∧ tm t 0 0 = t1) ∧
    (let s := { one with regs := { one.regs with blk := [(0x100, 6)] } }; (tm s 0 0).occ = true ∧ (tm s 0 0).preempt = false ∧ blkState s (pgCore 0) = 7) ∧
    (let s := preempted false
     canSave s 0 0 = true ∧ (∀ gs ∈ (tm s 0 0).gslots, (grp s 0 gs).tslot = 0 ∧ ∃ y ∈ (grp s 0 gs).threads, y.stat ≠ .exited) ∧
     (tm s 0 0).gslots = [0] ∧ (tm s 0 0).discard = false ∧ (core s 0).mxRuns = [] ∧ (core s 0).tmRun = none) ∧
    (canSave (preempted true) 0 0 = true ∧ (tm (preempted true) 0 0).discard = true) ∧
    (let s := launching (aLaunch 1 1); let t := { s with box := { s.box with saved := [aSaved] } }
     restorable t 0 0 = some aSaved ∧ SMap.wf 0 aSaved.tmem = true ∧ ∀ e ∈ aSaved.tmem, e.1 < 4096 * aSaved.team.tgran.length) := by decide +kernel

/-- `s` with the entry of line 0x800000 as given, where `c` is way 0's. -/
def withDir (s : State) (st : DirSt) (busy : Option Busy := none) : State :=
  { s with mem := { s.mem with dir := [(dirKey 0x800000 0, { used := true, line := 0x800000, st := st, busy := busy })] } }
def reader : State := withAcc (accOf .load (.mem 0x40000070) 16)
def aStore : StEnt := { id := 0, th := 0, dest := .l1 0x40000070, addr := 0, size := 16, data := 1, policy := 0, after := [] }
def writer : State := withGroup { g2 with sb := [aStore] }
def asked (s : State) (k : MsgKind) : State := { s with mem := { s.mem with msgs := [{ core := 0, line := 0x800000, kind := k, sent := 0 }] } }
def later (s : State) : State := { s with time := { s.time with ccRun := 2 ^ 20 } }
/-- The line in S, all sectors valid, in the L1 of core `c`, with `aStore` buffered there when `w`. -/
def sharer (c : Nat) (w : Bool := false) : State :=
  let s := withGroup g2
  { s with cores := [(c, { (core s 0) with groups := [(0, { g2 with sb := if w then [{ aStore with after := [] }] else [] })]
                                           l1 := (ownedLine 0x800000).map (fun e => (e.1, { e.2 with st := .s })) })] }
def holder : State := withGroup g2 { Core.empty with l1 := ownedLine 0x800000 8 }
def anAns : Ans := { core := 0, line := 0x800000, copy := true, valid := 15, dirty := 8, poison := 0, data := (upTo 0 128).map (fun _ => 7), seq := 0 }
def answered (s : State) (a : Ans) : State := { s with mem := { s.mem with answers := [a] } }

/-- A core's second GetX, a sharer's GetX with its copy and the last answer to it, and the last answer after a forward. -/
theorem witness_Sharers :
    (let s := withDir writer (.x 0); l1Find s 0 0x800000 = none ∧ canGetx s 0 0x800000 = true ∧ (dirOf s 0x800000).used = true ∧ (dirOf s 0x800000).st = .x 0) ∧
    (let s := withDir (sharer 0 true) (.s 1)
     blocked s 0x800000 = false ∧ canGetx s 0 0x800000 = true ∧ (dirOf s 0x800000).st = .s 1 ∧ bit 1 0 = true ∧ (∀ o ∈ maskBits 144 1, o = 0) ∧
     (l1Line s 0 0x800000).st = .s ∧ bit (l1Line s 0 0x800000).valid (0x40000070 % 128 / 32) = true) ∧
    (let b : Busy := { req := .getX 1, await := [0], fwd := false }; let s := answered (withDir (sharer 1) (.s 3) (some b)) anAns
     ansReady s 0 0x800000 = some anAns ∧ (dirOf s 0x800000).busy = some b ∧ waitingAt s (homeOf 0x800000) = [] ∧
     (∀ p ∈ (core s 1).groups, p.2.sb = []) ∧ (dirOf s 0x800000).st = .s 3 ∧ bit 3 1 = true ∧ (l1Line s 1 0x800000).st = .s) ∧
    (let b : Busy := { req := .getS 1, await := [0], fwd := true }; let s := answered (withDir (sharer 1) (.x 0) (some b)) anAns
     ansReady s 0 0x800000 = some anAns ∧ (dirOf s 0x800000).busy = some b ∧ waitingAt s (homeOf 0x800000) = [] ∧ (dirOf s 0x800000).st = .x 0 ∧
     (∀ p ∈ (core s 1).groups, p.2.sb = []) ∧ anAns.copy = true ∧ (l1Line s 1 0x800000).st = .s ∧
     (l1Line s 1 0x800000).valid = anAns.valid ∧ (l1Line s 1 0x800000).data.length = 128) := by decide +kernel

/-- Each of the conditions on the memory of these states holds by `sound_of_empty`: none lists a line of the L2. -/
theorem witness_CoherenceResults :
    (Memory.sound reader.mem ∧ Memory.sound (withDir reader (.s 2)).mem ∧ Memory.sound writer.mem ∧ Memory.sound (answered (withDir holder (.x 0)) anAns).mem) ∧
    (let s := reader
     blocked s 0x800000 = false ∧ (∀ p ∈ (core s 0).groups, p.2.sb = []) ∧ l1Find s 0 0x800000 = none ∧ canGets s 0 0x800000 = true ∧
     (dirOf s 0x800000).used = false ∧ (dirAt s 0x800000 15).used = false) ∧
    (let s := withDir reader (.s (2 ^ 143)); canGets s 0 0x800000 = true ∧ (dirOf s 0x800000).used = true ∧ (dirOf s 0x800000).st = .s (2 ^ 143)) ∧
    (let s := withDir reader (.x 143); canGets s 0 0x800000 = true ∧ (dirOf s 0x800000).used = true ∧ (dirOf s 0x800000).st = .x 143) ∧
    (let s := writer
     blocked s 0x800000 = false ∧ (∀ p ∈ (core s 0).groups, p.2.sb = if p.1 = 0 then [aStore] else []) ∧ l1Find s 0 0x800000 = none ∧
     canGetx s 0 0x800000 = true ∧ aStore.dest = .l1 0x40000070 ∧ 0x40000070 % 32 + aStore.size ≤ 32 ∧ (dirOf s 0x800000).used = false) ∧
    (let s := withDir writer (.s 1); canGetx s 0 0x800000 = true ∧ (dirOf s 0x800000).used = true ∧ (dirOf s 0x800000).st = .s 1 ∧
     ∀ o ∈ maskBits 144 1, o = 0) ∧
    (let s := withDir writer (.x 143); canGetx s 0 0x800000 = true ∧ (dirOf s 0x800000).used = true ∧ (dirOf s 0x800000).st = .x 143) ∧
    (let s := withDir writer (.s (1 + 2 ^ 143)); canGetx s 0 0x800000 = true ∧ (dirOf s 0x800000).used = true ∧ 143 ∈ maskBits 144 (1 + 2 ^ 143)) ∧
    (let s := asked holder .toS; l1Find s 0 0x800000 = some 0 ∧ msgOf s 0 0x800000 (fun k => !isFwd k) = some { core := 0, line := 0x800000, kind := .toS, sent := 0 }) ∧
    (let s := asked holder (.fwdX 143)
     msgOf s 0 0x800000 isFwd = some { core := 0, line := 0x800000, kind := .fwdX 143, sent := 0 } ∧ l1Find s 143 0x800000 = none ∧ (core s 143).groups = [] ∧
     (l1Line s 0 0x800000).data.length = 128 ∧ (l1Line s 0 0x800000).valid < 16) ∧
    (let b : Busy := { req := .getX 1, await := [0, 143], fwd := false }; let s := answered (withDir holder (.s (1 + 2 ^ 143)) (some b)) anAns
     anAns.data.length = 128 ∧ ansReady s 0 0x800000 = some anAns ∧ (dirOf s 0x800000).busy = some b ∧ 143 ∈ b.await) ∧
    (let b : Busy := { req := .getS 1, await := [0], fwd := false }; let s := answered (withDir holder (.x 0) (some b)) anAns
     ansReady s 0 0x800000 = some anAns ∧ (dirOf s 0x800000).busy = some b ∧ (dirOf s 0x800000).st = .x 0 ∧ waitingAt s (homeOf 0x800000) = [] ∧
     (core s 1).groups = [] ∧ l1Find s 1 0x800000 = none) ∧
    (let b : Busy := { req := .getX 1, await := [0], fwd := false }; let s := answered (withDir holder (.x 0) (some b)) anAns
     ansReady s 0 0x800000 = some anAns ∧ (dirOf s 0x800000).busy = some b ∧ waitingAt s (homeOf 0x800000) = []) ∧
    (let s := withDir one (.x 0); let t := { s with mem := { s.mem with putms := [anAns] } }
     putmOf t 0 0x800000 = some anAns ∧ anAns.isNext t = true ∧ dirFind t 0x800000 = some 0 ∧ (dirOf t 0x800000).busy = none ∧ (dirOf t 0x800000).st = .x 0) :=
  ⟨⟨sound_of_empty _ (by decide +kernel) rfl, sound_of_empty _ (by decide +kernel) rfl, sound_of_empty _ (by decide +kernel) rfl, sound_of_empty _ (by decide +kernel) rfl⟩, by decide +kernel⟩

theorem witness_AgentsAndPatrol :
    (memUp up = true ∧ up.sku.die 3 = true ∧ 128 * (up.sku.memBytes / 128 - 1) < up.sku.memBytes) ∧
    (up.sku.memBytes < (up.sku.memBytes - 31) + 32 ∧ (up.sku.memBytes - 32) + 32 ≤ up.sku.memBytes ∧ Memory.wf up.mem = true ∧ Memory.sound up.mem) ∧
    (let s := { up with mem := { up.mem with pool := [(3 * 128, 1024), (3 * 128 + 127, 1023)] } }
     memUp s = true ∧ (127 ∈ [0, 127] ∧ poolOf s 3 127 - [0, 127, 0].count 127 < 1024) ∧ (0 ∈ [0, 127] ∧ poolOf s 3 0 - [0, 127, 0].count 0 < 1024)) ∧
    (let s := { up with mem := { up.mem with pool := [(0, 1024), (1, 1024), (2, 1024), (3, 1024)] } }
     ((upTo 0 128).map (fun c => poolOf s 0 c)).foldl (· + ·) 0 = 4096) ∧
    (up.dbg.raised = false ∧ 4096 * (up.sku.memBytes / 4096 - 1) < up.sku.memBytes ∧ ∀ i ∈ [0, 127] ++ [127], i < 128) :=
  ⟨by decide +kernel, ⟨by decide +kernel, by decide +kernel, by decide +kernel, sound_of_empty _ (by decide +kernel) rfl⟩, by decide +kernel, by decide +kernel, by decide +kernel⟩

theorem witness_ErrorResults :
    (up.pow.power = .active ∧ up.dbg.fatal = false ∧ ({ up with dbg := { up.dbg with fatal := true } } : State).dbg.fatal = true) ∧
    (2 ∈ fatalTypes 2 ∧ partFitted up.sku 2 0 = true ∧ 1 ∉ fatalTypes 1 ∧ 17 ∈ fatalTypes 9) ∧
    (let s := later (asked holder .toI); s.dbg.raised = false ∧ ∃ m ∈ s.mem.msgs, m.core = 0 ∧ m.line = 0x800000 ∧ m.sent + 2 ^ 20 ≤ s.time.ccRun) ∧
    (¬∃ m ∈ (asked holder .toI).mem.msgs, m.core = 0 ∧ m.line = 0x800000 ∧ m.sent + 2 ^ 20 ≤ (asked holder .toI).time.ccRun) ∧
    (let s := { up with mem := { up.mem with d2dUp := [(3, true)], d2dFail := [(3, 16), (0, 15)] } }
     d2dBusy s 3 = true ∧ d2dBusy s 0 = false ∧ up.sku.die 3 = true ∧ 16 ≤ d2dFails s 3 ∧ d2dFails s 0 < 16) ∧
    (let s := setReg { up with dbg := { up.dbg with ceWin := [(4, [up.time.ft])] } } 0xA 0xF8 1
     storms up 4 = false ∧ storms s 4 = true ∧ s.rm.up = true ∧ bit (reg s 0xA 0x10) 0 = false) ∧
    (chargedTo one 0 65535 = some 0 ∧ chargedTo one 1 262143 = some 0 ∧ canReset one = true ∧ (∀ e ∈ one.box.ctxs, e.2 = ctx one e.1) ∧
     (ctx one 0).part = 0 ∧ (ctx one 0).st = 1) := by decide +kernel

/-- A 64-byte packet with the listed fields (offset, length, value). -/
def pack64 (l : List (Nat × Nat × Nat)) : List Byte := l.foldl (fun b e => splice b e.1 (toLE e.2.1 e.2.2)) (List.replicate 64 0)
def cmdOf (b : List Byte) (st : CmdSt := .waiting) : Cmd :=
  { idx := 0, bytes := b, st := st, pins := [], fired := false, stale := false, gate := none, armed := none, since := 0, wait := [], buf := [], bad := [] }
/-- `s` with the command fetched in queue 0, whose rings lie in the carve-out; context 0 has objects 1 to 4, which its pages 0, 2, 3 and an arena are. -/
def withCmd (s : State) (c : Cmd) : State :=
  let o : Obj := { index := 1, gen := 0, kind := 0, size := 2 ^ 30, target := 0, perm := 7, backing := [], maps := [{ va := 0, size := 2 ^ 30, psz := 2 ^ 30 }]
                   region := 0, blocks := [], grans := [], dead := false }
  let x : Ctx := { Ctx.free with st := 1, root := some 0x10000, objs := [o, { o with index := 2, maps := [{ va := 2 ^ 31, size := 2 ^ 30, psz := 2 ^ 30 }] }
    , { o with index := 3, kind := 2, size := 65536, backing := [(0xA0000000, 65536)], maps := [] }] }
  { withCtx s x with box := { (withCtx s x).box with
      queues := [(0, { Queue.empty with bound := true, h := 1, t := 1, cring := 0x10000000, cmds := [c] })]
      fences := [(7, { owner := some 0, sig := false, err := false }), (262143, { owner := some 0, sig := true, err := true })] } }
def nop : List Byte := pack64 [(0, 1, 13)]
def ringed (ring : Nat) (b : List Byte) (st : Nat := 1) : State :=
  let s := withCtx one { Ctx.free with st := st, root := some 0x10000 }
  { s with
    box := { s.box with queues := [(0, { Queue.empty with bound := true, ring := BitVec.ofNat 64 ring, h := 63, t := 64, c := 63 })] }
    mem := { s.mem with hbm := SMap.putList 0 s.mem.hbm (64 * 63) b }
    pow := { s.pow with links := [(0, (6, 16, true))] } }

/-- Doorbell values at the ring's end and one beyond; a packet in the last slot of the ring in memory, and one in host memory. -/
theorem witness_QueueResults :
    (let s := withCmd one (cmdOf nop); let x := queue s 0
     bellsUp s = true ∧ bellReaches s 0 0 = true ∧ x.c < 2 ^ 32 ∧ x.h < 2 ^ 32 ∧ ((64 : W64).toNat % 2 ^ 32 + 2 ^ 32 - x.c) % 2 ^ 32 ≤ 2 ^ (x.size + 6) ∧
     (x.h + 2 ^ 32 - x.c) % 2 ^ 32 ≤ ((64 : W64).toNat % 2 ^ 32 + 2 ^ 32 - x.c) % 2 ^ 32 ∧ s.pow.psState = 0 ∧
     ¬((65 : W64).toNat % 2 ^ 32 + 2 ^ 32 - x.c) % 2 ^ 32 ≤ 2 ^ (x.size + 6) ∧ bellReaches s 2 0 = false ∧ (ctx s 0).part < 8) ∧
    (let s := ringed 0 nop; let x := queue s 0
     running s = true ∧ x.fetches = true ∧ (ctx s 0).st = 1 ∧ x.ring.getLsbD 0 = false ∧ carveAddr s 0 (64 * (x.h % x.slots)) = some 4032 ∧
     poisonIn s 4032 64 = false ∧ nop = peek s 4032 64 ∧ fetchCheck s 0 nop = none) ∧
    (let s := ringed 1 nop; (queue s 0).fetches = true ∧ (queue s 0).ring.getLsbD 0 = true ∧ nop.length = 64 ∧ linkUp s (hostPort s 0) = true) ∧
    (let s := ringed 0 nop
     fetchCheck (ringed 0 nop 2) 0 nop = some 1 ∧ fetchCheck s 0 (pack64 [(0, 1, 14)]) = some 0xC ∧
     fetchCheck s 0 (pack64 [(0, 1, 7), (1, 1, 1), (8, 4, 262143)]) = some 6 ∧ fetchCheck s 0 (pack64 [(0, 1, 10), (16, 4, 5)]) = some 2) ∧
    (∀ op ∈ [1, 2, 3, 4, 5, 6, 8, 9, 10, 11, 12, 13],
      let c := cmdOf (pack64 [(0, 1, op)])
      servesNow (withCmd one c) 0 = true ∧ startable (withCmd one c) 0 0 op = some c ∧ startable one 0 0 op = none ∧
      servesNow (withCmd one { c with stale := true }) 0 = true ∧
      startable (withCmd one { c with stale := true }) 0 0 op = some { c with stale := true }) ∧
    (∀ op ∈ [1, 2, 3, 4, 5, 6, 7, 8, 9, 10, 11, 12, 13],
      let c := cmdOf (pack64 [(0, 1, op), (1, 1, 1), (8, 4, 262143)])
      servesNow (withCmd one c) 0 = true ∧ startable (withCmd one c) 0 0 op = some c ∧ gateErr (withCmd one c) c = true) ∧
    (let c := { cmdOf (pack64 [(0, 1, 7), (1, 1, 1), (8, 4, 262143)]) with stale := true }; startable (withCmd one c) 0 0 7 = some c) ∧
    (let s := withCmd one (cmdOf nop); let t := { s with box := { s.box with queues := s.box.queues ++ [(1, { (queue s 0) with prio := 5 })] } }
     servesNow t 1 = false ∧ servesNow t 0 = true) ∧
    (let c := cmdOf (pack64 [(0, 1, 13), (1, 1, 2), (12, 4, 7)]) (.ended 0 9); let s := withCmd one c; let x := queue s 0
     cmdAt s 0 0 = some c ∧ (settled s c 0).st = .ended 0 9 ∧ s.pow.power = .active ∧ s.pow.svc = 3 ∧ s.dbg.fatal = false ∧ x.stopped = none ∧
     bit (pkFlags c.bytes) 1 = true ∧ pkSf c.bytes < 262144 ∧ slotMine s 0 (pkSf c.bytes) = true ∧ x.cring.getLsbD 0 = false ∧
     carveAddr s 0 (x.cring.toNat / 4096 * 4096 + 16 * (0 % x.slots)) = some 0x10000000) := by decide +kernel

/-- A command that may start, with the state. -/
def starts (s : State) (c : Cmd) (op : Nat) : Bool :=
  servesNow s 0 && decide (startable s 0 0 op = some c) && !c.stale && !gateErr s c

def localAt (va : Nat) : Nat := cva va
/-- `s` with chip number 16 in a group of 16. -/
def numbered (s : State) : State := { s with fab := { s.fab with plan := { Plan.none with chip := 16 } } }

theorem witness_WorkCommands :
    (let u := fun (l : List (Nat × Nat × Nat)) => cmdOf (pack64 ([(0, 1, 1), (16, 8, localAt 64), (24, 4, 1), (28, 4, 0xFFFFFFFF), (40, 4, 1), (44, 2, 1024)
       , (46, 1, 255), (47, 1, 64), (48, 2, 512)] ++ l))
     let c := u [(32, 8, localAt 0x3FFFFE00)]; let s := withCmd one c
     starts s c 1 = true ∧ launchOk s 0 c.bytes = true ∧ hostFits s 0 (leAt c.bytes 32 8) (8 * leAt c.bytes 47 1) [] = true ∧
     (readRange s 0 (leAt c.bytes 32 8) (8 * leAt c.bytes 47 1) []).isRight = true) ∧
    (let c := cmdOf (pack64 [(0, 1, 1), (44, 2, 1025)]); starts (withCmd one c) c 1 = true ∧ launchOk (withCmd one c) 0 c.bytes = false) ∧
    (let c := cmdOf (pack64 [(0, 1, 1), (16, 8, localAt 64), (24, 4, 1), (28, 4, 1), (32, 8, localAt 0xFFFF8), (40, 4, 1), (44, 2, 1), (46, 1, 1), (47, 1, 2)])
     let s := withCmd { one with mem := { one.mem with poison := [(0x40100000 / 32, true)] } } c
     starts s c 1 = true ∧ launchOk s 0 c.bytes = true ∧ hostFits s 0 (leAt c.bytes 32 8) 16 [] = true ∧
     readRange s 0 (leAt c.bytes 32 8) 16 [] = .inl (8, localAt 0x100000)) := by decide +kernel

theorem witness_WorkCommands_copy :
    (let c := cmdOf (pack64 [(0, 1, 3), (16, 8, localAt 4), (24, 8, localAt 0x3FFFFF00), (32, 4, 1), (36, 4, 1), (40, 8, 256)]); let s := withCmd one c
     let l := rangeSpots s 0 false (leAt c.bytes 16 8) 256; let m := rangeSpots s 0 true (leAt c.bytes 24 8) 256
     starts s c 3 = true ∧ copyOk s 0 c.bytes = true ∧ copyReady s 0 c.bytes [] = true ∧ firstFault l = none ∧ firstFault m = none ∧ remotes l = [] ∧
     remotes m = [] ∧ m.map Prod.snd = [.mem 0x7FFFFF00] ∧ l.map Prod.snd = [.mem 0x40000004]) ∧
    (let c := cmdOf (pack64 [(0, 1, 3), (40, 8, 2)]); starts (withCmd one c) c 3 = true ∧ copyOk (withCmd one c) 0 c.bytes = false) ∧
    (let c := cmdOf (pack64 [(0, 1, 3), (16, 8, 16 * 2 ^ 48), (24, 8, localAt 0), (36, 4, 1), (40, 8, 4096)]); let s := numbered (withCmd one c)
     let l := rangeSpots s 0 false (leAt c.bytes 16 8) 4096; let m := rangeSpots s 0 true (leAt c.bytes 24 8) 4096
     starts s c 3 = true ∧ copyOk s 0 c.bytes = true ∧ copyReady s 0 c.bytes [] = true ∧ firstFault l = none ∧ firstFault m = none ∧ remotes l ≠ []) ∧
    (let c := cmdOf (pack64 [(0, 1, 3), (16, 8, 17 * 2 ^ 48), (24, 8, localAt 0), (36, 4, 1), (40, 8, 4096)]); let s := numbered (withCmd one c)
     starts s c 3 = true ∧ copyOk s 0 c.bytes = true ∧ copyReady s 0 c.bytes [] = true ∧
     firstFault (rangeSpots s 0 false (leAt c.bytes 16 8) 4096) = some (1, 17 * 2 ^ 48)) := by decide +kernel

theorem witness_WorkCommands_fill :
    (let c := cmdOf (pack64 [(0, 1, 4), (16, 8, localAt 8), (24, 4, 1), (32, 8, 4096), (40, 8, 5)]); let s := withCmd one c
     let m := rangeSpots s 0 true (leAt c.bytes 16 8) 4096
     starts s c 4 = true ∧ fillOk s 0 c.bytes = true ∧ firstFault m = none ∧ remotes m = [] ∧
     m.map Prod.snd = [.mem 0x40000008, .mem 0x40001000]) ∧
    (let c := cmdOf (pack64 [(0, 1, 4), (32, 8, 4)]); starts (withCmd one c) c 4 = true ∧ fillOk (withCmd one c) 0 c.bytes = false) ∧
    (let c := cmdOf (pack64 [(0, 1, 4), (16, 8, 16 * 2 ^ 48 + 8), (32, 8, 8)]); let s := numbered (withCmd one c)
     let m := rangeSpots s 0 true (leAt c.bytes 16 8) 8
     starts s c 4 = true ∧ fillOk s 0 c.bytes = true ∧ firstFault m = none ∧ remotes m ≠ []) ∧
    (let c := cmdOf (pack64 [(0, 1, 4), (16, 8, 16 * 2 ^ 48 + 2 ^ 40), (32, 8, 8)]); let s := numbered (withCmd one c)
     starts s c 4 = true ∧ fillOk s 0 c.bytes = true ∧
     firstFault (rangeSpots s 0 true (leAt c.bytes 16 8) 8) = some (2, 16 * 2 ^ 48 + 2 ^ 40)) ∧
    (let c := cmdOf (pack64 [(0, 1, 5), (40, 8, 4095)]); starts (withCmd one c) c 5 = true ∧ packOk (withCmd one c) 0 c.bytes = false) ∧
    (let x : Ctx := { Ctx.free with st := 1, oldGrans := [(0xA0000000, 256)] }; (0xA0000000, 256) ∈ (ctx (withCtx one x) 0).oldGrans) := by decide +kernel

/-- PACK: a page of zeros whose index block is bypassed, so that it takes 16 granules of the arena. -/
def packCmd : Cmd := cmdOf (pack64 [(0, 1, 5), (16, 8, localAt 0x3FFFF000), (24, 8, localAt 0x80000000), (32, 4, 1), (36, 4, 2), (40, 8, 4096)])
def packState : State := withCmd (withRegs one [(pgThat0 * 4096 + 0x100, 0x80000001)]) packCmd

theorem witness_WorkCommands_pack :
    starts packState packCmd 5 = true ∧ packOk packState 0 packCmd.bytes = true ∧ packReady packState 0 packCmd.bytes [] = true ∧
    leAt packCmd.bytes 40 8 = 4096 ∧ access packState 0 .load (vaOf (BitVec.ofNat 64 (leAt packCmd.bytes 16 8))) = .mem 0x7FFFF000 ∧
    access packState 0 .pack (vaOf (BitVec.ofNat 64 (leAt packCmd.bytes 24 8))) = .thatch 0x80000000 0 ∧ poisonIn packState 0x7FFFF000 4096 = false ∧
    bypassed packState 0x80000000 = true ∧ peek packState 0x7FFFF000 4096 = List.replicate 4096 0 ∧
    (let e := thEncode 0 0 false true (fun _ => 0) (List.replicate 4096 0)
     thNg e.1 = 16 ∧ (takeRun packState 0 16 (some 0x7FFFF000)).map Prod.snd = some 0xA000F000 ∧ 0x80000000 + 8 ≤ 0xA000F000 ∧
     e.1 + 0xA000F000 / 256 < 2 ^ 64) := by decide +kernel

theorem witness_SimpleCommands :
    (∀ act ∈ [0, 1, 2], ∀ k ∈ [7, 262143],
      let c := cmdOf (pack64 [(0, 1, 6), (16, 8, 0xFFFF * 2 ^ 48 + 2 * 2 ^ 40 + 8 * k), (24, 1, act)]); let s := withCmd one c
      starts s c 6 = true ∧ resOk c.bytes [(16, 24)] = true ∧ fref (BitVec.ofNat 64 (leAt c.bytes 16 8)) = .loc k ∧ (fence s k).owner = some 0 ∧
      slotMine s 0 k = true ∧ slotMine s 0 0 = false ∧ (fence s 0).owner ≠ some 0) ∧
    (let c := cmdOf (pack64 [(0, 1, 6), (24, 1, 3)]); starts (withCmd one c) c 6 = true) ∧
    (let c := cmdOf (pack64 [(0, 1, 6), (16, 8, 4)])
     starts (withCmd one c) c 6 = true ∧ resOk c.bytes [(16, 24)] = true ∧ fref (BitVec.ofNat 64 (leAt c.bytes 16 8)) = .bad) ∧
    (let a := 16 * 2 ^ 48 + 2 * 2 ^ 40 + 8 * 262143; let c := cmdOf (pack64 [(0, 1, 6), (16, 8, a)]); let s := numbered (withCmd one c)
     starts s c 6 = true ∧ resOk c.bytes [(16, 24)] = true ∧ fref (BitVec.ofNat 64 (leAt c.bytes 16 8)) = .sys 16 262143 ∧
     sysFault s .sigf (BitVec.ofNat 64 a) = 0 ∧ reachable s 16 = true ∧ sysFault (withCmd one c) .sigf (BitVec.ofNat 64 a) ≠ 0) ∧
    (let c := cmdOf (pack64 [(0, 1, 7), (1, 1, 1), (8, 4, 7)]); let s := withCmd one c
     inTurn s 0 0 7 = some c ∧ gateOpen s c = false ∧ c.armed = none ∧ servesNow s 0 = true) ∧
    (let c := { cmdOf (pack64 [(0, 1, 7), (1, 1, 1), (8, 4, 7)]) with armed := some 0 }; let s := withCmd one c
     inTurn s 0 0 7 = some c ∧ gateOpen s c = false ∧ servesNow s 0 = true) ∧
    (let c := cmdOf (pack64 [(0, 1, 7), (1, 1, 1), (8, 4, 7)])
     let s := withCmd one c; let t := { s with box := { s.box with fences := [(7, { owner := some 0, sig := true, err := false })] } }
     starts t c 7 = true ∧ pkWait c.bytes = some 7 ∧ resOk c.bytes [(16, 19)] = true) ∧
    (let c := cmdOf (pack64 [(0, 1, 7)]); starts (withCmd one c) c 7 = true ∧ pkWait c.bytes = none) ∧
    (let c := { cmdOf (pack64 [(0, 1, 7), (1, 1, 1), (8, 4, 7), (16, 4, 1)]) with armed := some 0 }
     let s := withCmd one c; let t := withCmd { one with time := { one.time with nsRun := 1000 } } c
     cmdAt s 0 0 = some c ∧ c.st = .waiting ∧ pkOp c.bytes = 7 ∧ leAt c.bytes 16 4 ≠ 0 ∧ 0 + 1000 * leAt c.bytes 16 4 ≤ t.time.nsRun ∧
     s.time.nsRun < 0 + 1000 * leAt c.bytes 16 4 ∧ cmdAt t 0 0 = some c) ∧
    (let c := cmdOf nop; let d := cmdOf (pack64 [(0, 1, 13), (63, 1, 1)])
     starts (withCmd one c) c 13 = true ∧ resOk c.bytes [] = true ∧ starts (withCmd one d) d 13 = true ∧ resOk d.bytes [] = false) ∧
    (let c := cmdOf (pack64 [(0, 1, 12), (16, 2, 0xFFFF)]); let d := cmdOf (pack64 [(0, 1, 12), (18, 1, 1)])
     starts (withCmd one c) c 12 = true ∧ resOk c.bytes [(16, 17)] = true ∧ starts (withCmd one d) d 12 = true ∧ resOk d.bytes [(16, 17)] = false ∧
     0 ∈ queuesOf (withCmd one c) 0) ∧
    (let c := cmdOf (pack64 [(0, 1, 6), (1, 1, 4), (56, 8, 1000)]); let s := withCmd one c
     cmdAt s 0 0 = some c ∧ pkTimed c.bytes = true ∧ c.st = .waiting ∧ c.fired = false ∧ running s = true ∧ mayFire s (leAt c.bytes 56 8) 5 = true ∧
     s.time.ft < leAt (pack64 [(56, 8, 1001)]) 56 8) := by decide +kernel

theorem issues_takePages {s : State} {p sz n : Nat} (h : (takeFrom sz (freeExt s p) n).isSome = true) : (takePages s p sz n).isSome = true := by
  simp only [takePages, Option.isSome_map]
  split <;> simp_all

/-- A context without objects has a free index, whichever index is tried first. -/
theorem newIndex_fresh (x : Ctx) (b : Nat) (o : x.objs = []) (g : x.gens = []) : (newIndex x b).isSome = true := by
  have e : upTo 0 1 = [0] := rfl
  simp [newIndex, o, g, e]

/-- The only queue is always served. -/
theorem servesNow_lone (s : State) (x : Queue) (h : s.box.queues = [(0, x)]) (p : partOf s 0 = 0) : servesNow s 0 = true := by
  have u : upTo 0 8 = [0, 1, 2, 3, 4, 5, 6, 7] := rfl
  cases a : ableQueue s 0
  · simp [servesNow, a]
  · have l : ableQueues s = [0] := by simp [ableQueues, h, a]
    have n : partNext s = some 0 := by simp [partNext, l, p, u, nextAfter]
    have q : queueNext s 0 = some 0 := by
      simp only [queueNext, l]
      by_cases r : (roundOf s 0).1 = 0 <;> simp [nextAfter, p, r]
    simp [servesNow, a, n, p, q]

/-- A command of queue 0 that may start once the queue is served, with the state. -/
def mayStart (s : State) (c : Cmd) (op : Nat) : Bool :=
  decide (startable s 0 0 op = some c) && !c.stale && !gateErr s c && decide (s.box.queues.map (fun e => e.1) = [0]) && decide (partOf s 0 = 0)

def withObjs (s : State) (c : Cmd) (objs : List Obj) : State :=
  let t := withCmd s c
  { t with box := { t.box with ctxs := [(0, { Ctx.free with st := 1, root := some 0x10000, objs := objs })] } }
def pageObj (index : Nat) (va : Nat) (dead : Bool := false) : Obj :=
  { index := index, gen := 0, kind := 0, size := 2 ^ 30, target := 0, perm := 7, backing := [(2 ^ 30, 2 ^ 30)], maps := [{ va := va, size := 2 ^ 30, psz := 2 ^ 30 }]
    region := 0, blocks := [], grans := [], dead := dead }
def arena : Obj := { pageObj 3 0 with kind := 2, size := 65536, backing := [(0xA0000000, 65536)], maps := [] }

theorem witness_MemoryCommands_map :
    (let c := cmdOf (pack64 [(0, 1, 8), (24, 8, 4096), (32, 1, 2)]); let s := withObjs one c []
     mayStart s c 8 = true ∧ resOk c.bytes [(16, 34), (40, 47)] = true ∧ leAt c.bytes 33 1 < 8 ∧ leAt c.bytes 24 8 % 4096 = 0 ∧ (ctx s 0).objs = [] ∧ (ctx s 0).gens = [] ∧
     ¬(carveOf s (ctx s 0).part).any (scrubbing s) = true) ∧
    (∀ l ∈ [[(32, 1, 8)], [(33, 1, 8)], [(34, 1, 3)], [(35, 1, 1)], [(32, 1, 2), (24, 8, 4095)], [(32, 1, 2), (16, 8, 1), (24, 8, 4096)]],
      let c := cmdOf (pack64 ((0, 1, 8) :: l)); mayStart (withCmd one c) c 8 = true) ∧
    (let c := cmdOf (pack64 [(0, 1, 8), (24, 8, 2 ^ 20), (32, 1, 7)]); let s := withObjs one c [heapObj]
     mayStart s c 8 = true ∧ resOk c.bytes [(16, 34), (40, 47)] = true ∧ (∃ r < 16, (regionPick (ctx s 0) r (blockClass (2 ^ 20))).isSome = true) ∧
     (∀ o ∈ (ctx s 0).objs, o.target + o.size ≤ 2 ^ 48) ∧ ¬∃ r < 16, (regionPick (ctx s 0) r (blockClass (2 ^ 30))).isSome = true) ∧
    (∀ target ∈ [0, 2 ^ 52 - 2 ^ 30, 4096],
      let c := cmdOf (pack64 [(0, 1, 8), (16, 8, localAt (511 * 2 ^ 30)), (24, 8, 2 ^ 30), (32, 1, 4), (34, 1, 2), (40, 8, target)]); let s := withObjs one c []
      let e := peekLE s 0x10000 8
      mayStart s c 8 = true ∧ resOk c.bytes [(16, 34), (40, 47)] = true ∧ isLocal (BitVec.ofNat 64 (leAt c.bytes 16 8)) = true ∧
      vaOf (BitVec.ofNat 64 (leAt c.bytes 16 8)) = 511 * 2 ^ 30 ∧ rangeFree (ctx s 0) (511 * 2 ^ 30) (2 ^ 30) = true ∧ (ctx s 0).root = some 0x10000 ∧
      bit e 0 = true ∧ bit e 1 = false ∧ (ctx s 0).objs = [] ∧ (ctx s 0).gens = [] ∧ leAt c.bytes 40 8 = target ∧ s.mem.l2 = []) := by decide +kernel

theorem witness_MemoryCommands_take (c : Cmd) (h : c = cmdOf (pack64 [(0, 1, 8), (24, 8, 4096), (32, 1, 2)])) :
    (takePages (withObjs one c []) (ctx (withObjs one c []) 0).part 4096 (leAt c.bytes 24 8 / 4096)).isSome = true ∧
    ∀ b, (newIndex (ctx (withObjs one c []) 0) b).isSome = true := by
  subst h; exact ⟨issues_takePages (by decide +kernel), fun b => newIndex_fresh _ b (by decide +kernel) (by decide +kernel)⟩

theorem witness_MemoryCommands :
    (let c := cmdOf (pack64 [(0, 1, 9), (32, 1, 2)]); starts (withCmd one c) c 9 = true ∧ 1 < leAt c.bytes 32 1) ∧
    (let c := cmdOf (pack64 [(0, 1, 9), (32, 1, 1)]); starts (withCmd one c) c 9 = true ∧ resOk c.bytes [(16, 32)] = true) ∧
    (let c := cmdOf (pack64 [(0, 1, 9), (16, 8, localAt (2 ^ 30)), (32, 1, 1)]); let s := withObjs one c [heapObj]
     starts s c 9 = true ∧ resOk c.bytes [(16, 32)] = true ∧ isLocal (BitVec.ofNat 64 (leAt c.bytes 16 8)) = true ∧
     blockAt (ctx s 0) (vaOf (BitVec.ofNat 64 (leAt c.bytes 16 8))) = some heapObj ∧
     blockAt (ctx (withObjs one c []) 0) (vaOf (BitVec.ofNat 64 (leAt c.bytes 16 8))) = none) ∧
    (let c := cmdOf (pack64 [(0, 1, 9), (16, 8, localAt 0), (24, 8, 2 ^ 30)]); let s := withObjs one c [pageObj 1 0]
     starts s c 9 = true ∧ resOk c.bytes [(16, 32)] = true ∧ isLocal (BitVec.ofNat 64 (leAt c.bytes 16 8)) = true ∧
     mappedBy (ctx s 0) (vaOf (BitVec.ofNat 64 (leAt c.bytes 16 8))) (2 ^ 30) = some (pageObj 1 0) ∧ mappedBy (ctx s 0) 0 (2 ^ 29) = none ∧ (ctx s 0).root ≠ none) ∧
    (let c := cmdOf (pack64 [(0, 1, 10), (16, 4, 1)]); let s := withObjs one c [pageObj 1 0]
     starts s c 10 = true ∧ resOk c.bytes [(16, 19)] = true ∧ objOf s 0 1 = some (pageObj 1 0) ∧ objOf (withObjs one c []) 0 1 = none ∧
     ((ctx s 0).objs.filter (fun p => p.handle == 1)).length = 1 ∧ (queue s 0).cmds = [] ++ c :: []) ∧
    (let c := cmdOf (pack64 [(0, 1, 10), (16, 4, 3)]); let s := withObjs one c [arena]; let t := withObjs one c [arena, { arena with kind := 3, index := 4 }]
     starts s c 10 = true ∧ objOf s 0 3 = some arena ∧ arenaHeld s 0 arena = false ∧ objOf t 0 3 = some arena ∧ arenaHeld t 0 arena = true) ∧
    (let c := cmdOf (pack64 [(0, 1, 10), (20, 1, 1)]); starts (withCmd one c) c 10 = true ∧ resOk c.bytes [(16, 19)] = false) ∧
    (let o := pageObj 1 0 true; let s := withObjs one (cmdOf nop) [o]; let t := withObjs one { cmdOf nop with pins := [1] } [o]
     objAny s 0 1 = some o ∧ (ctx s 0).st = 1 ∧ o.dead = true ∧ pinned s 0 1 = false ∧ o.maps.any (fun m => busyRange s 0 m.va m.size) = false ∧ o.kind ≤ 2 ∧
     pinned t 0 1 = true) := by decide +kernel

/-- `s` with the arguments of a management command on BOXO_0. -/
def managed (s : State) (a b w : Nat) (more : List (Nat × Nat) := []) : State :=
  withRegs s ([(0x8088, a), (0x8090, b), (0x8098, w)] ++ more)
/-- Context 0 is partition 0's, the others are those of partition 1, which has no carve-out. -/
def twoParts : List (Nat × Nat) := [(0x8218, 2 ^ 32), (0x8258, 4095 * 2 ^ 32 + 1), (0x8270, 1)]
def withQueue (s : State) (x : Queue) : State := { s with box := { s.box with queues := [(65535, x)] } }

theorem witness_ManagementResults :
    (let s := managed up 0 0 0
     pagesUp s = true ∧ reaches s 0 8 = true ∧ (blkAt s.sku 8).isSome = true ∧ blkOf 8 = some (.boxo0, 0) ∧ blkOf 0xB0 = some (.boxo, 8) ∧
     (blkAt s.sku 0xB0).isSome = true ∧ reaches s 8 8 = false ∧ bit (reg s 8 0x84) 0 = false ∧ s.pow.power = .active ∧ s.pow.svc = 3 ∧ s.pow.psState = 0 ∧
     s.pow.flr.contains ((0xB0 - 0x40) / 16) = false ∧ bit (reg (withRegs s [(0x8084, 1)]) 8 0x84) 0 = true) ∧
    (let s := managed up 4095 4096 0
     ctxPart s 4095 = some 0 ∧ pageRange s 8 0x218 4095 = true ∧ pageRange s 0xB0 0x218 4095 = false ∧ (ctx s 4095).st = 0 ∧ bit (reg s 8 0x230) 0 = true ∧
     noNewCtx s 0 = false ∧ bit (reg s 8 0x88) 16 = false ∧ scopeBit s 0 = false ∧
     bit (reg (managed up 0x10000 0 0) 8 0x88) 16 = true ∧ reg (managed up 0 4097 0) 8 0x90 % 4096 ≠ 0) ∧
    (let s := managed up 4095 4096 0 twoParts
     ctxPart s 4095 = some 1 ∧ (ctx s 4095).st = 0 ∧ bit (reg s 8 0x270) 0 = true ∧ noNewCtx s 1 = false) ∧
    (anyTeam one (fun y => y.ctx == 0) = true ∧ workGone { one with cores := [] } 0 = true ∧ (ctx { one with cores := [] } 0).st = 1) ∧
    ((ctx one 0).st = 1 ∧ pageRange one 8 0x218 0 = true ∧ (ctx one 1).st ≠ 1 ∧ (ctx one 1).st ≠ 2 ∧ pageRange one 8 0x218 1 = true) := by decide +kernel

theorem witness_ManagementResults_queues :
    (let w := fun size vec ien => 65535 + size * 2 ^ 28 + vec * 2 ^ 34 + ien * 2 ^ 45
     let s := managed one 0 0 (w 10 2047 1)
     pageRange s 8 0x220 65535 = true ∧ bits (reg s 8 0x98) 31 28 ≤ 10 ∧ (queue s 65535).inUse = false ∧ queuePart s 65535 = some 0 ∧ (ctx s 0).part = 0 ∧
     0 < bits (reg s 8 0x98) 44 34 ∧ bits (reg s 8 0x98) 44 34 < fnVectors (bellOwner s 65535) ∧ bit (reg s 8 0x98) 45 = true ∧
     bits (reg (managed one 0 0 (w 10 0 1)) 8 0x98) 44 34 = 0 ∧ 10 < bits (reg (managed one 0 0 (w 11 1 1)) 8 0x98) 31 28 ∧
     (queue (withQueue s { Queue.empty with bound := true }) 65535).inUse = true ∧ pageRange s 0xB0 0x220 65535 = false) ∧
    (let s := withQueue (managed one 65535 0 0) { Queue.empty with bound := true }
     reg s 8 0x88 % 65536 = 65535 ∧ (queue s 65535).bound = true ∧ (queue s 65535).stopped = none ∧ (queue s 65535).cmds = [] ∧
     (queue (withQueue s { Queue.empty with bound := true, cmds := [cmdOf nop] }) 65535).cmds ≠ [] ∧ (queue s 0).bound = false) ∧
    (let s := managed one (262143 + 2 ^ 32) 0 0
     pageRange s 8 0x228 262143 = true ∧ pageRange s 0xB0 0x228 262143 = false ∧ bits (reg s 8 0x88) 50 32 = 1 ∧ (fence s 262143).owner = none ∧
     slotPart s 262143 = some (ctx s 0).part ∧ (fence (withFence s { owner := some 0, sig := false, err := false }) 262143).owner ≠ none ∧
     pageRange s 8 0x228 262144 = false ∧ SMap.get none s.box.shares 65535 = none) ∧
    (let s := { managed one 65535 0 0 with box := { one.box with shares := [(65535, some (262143, 0))] } }
     SMap.get none s.box.shares (reg s 8 0x88 % 65536) = some (262143, 0) ∧ pageRange s 8 0x228 262143 = true) := by decide +kernel

theorem witness_ManagementResults_create :
    (takePages (managed up 4095 4096 0) 0 4096 1).isSome = true ∧ takePages (managed up 4095 4096 0 twoParts) 1 4096 1 = none := by
  refine ⟨issues_takePages (by decide +kernel), ?_⟩
  have h : freeExt (managed up 4095 4096 0 twoParts) 1 = [] := by decide +kernel
  simp [takePages, h, turned, takeFrom]

def descOf (l : List (Nat × Nat × Nat)) : List Byte :=
  pack64 ([(0, 8, localAt 0x100000), (24, 4, 1), (28, 4, 1), (32, 8, 4096 + 64 * 2 ^ 24 + 128 * 2 ^ 40), (40, 8, 2 ^ 16 + 2 ^ 24 + 2 ^ 32 + 2 ^ 63)] ++ l)
def streamCmd (slot : Nat) : Cmd := cmdOf (pack64 [(0, 1, 2), (16, 1, slot), (24, 8, localAt 0), (32, 4, 1), (36, 4, 1)])
def streaming (slot : Nat) (d : List Byte) : State :=
  withCmd { one with mem := { one.mem with hbm := SMap.putList 0 one.mem.hbm 0x40000000 d } } (streamCmd slot)
def decOf (s : State) (slot : Nat) : StreamDec := streamDecide s 0 0 0 [] (streamCmd slot).bytes
def liveStream : Stream :=
  { Stream.empty with live := true, src := cva 0x3FFFF000, n1 := 1, n2 := 1, rowBytes := 4096, rows := 1, rowStride := 4096, lead := 15, drain := true, ncores := 1
                      cstride := 1, deal := 1, len := 13312, bfence := 0xFFFF * 2 ^ 48 + 2 * 2 ^ 40 + 8 * 262143 }
def readTile (f : Option (Nat × Nat)) (dies : List Nat := [0, 1, 2, 3]) : Tile := { t := 0, dies := dies, ready := false, fault := f, bytes := [], poison := [] }

theorem witness_StreamResults :
    (∀ slot ∈ [0, 63, 64], starts (streaming slot (descOf [])) (streamCmd slot) 2 = true) ∧
    (decOf (streaming 64 (descOf [])) 64 = .bad ∧ decOf (streaming 63 (descOf [(56, 8, 1)])) 63 = .bad ∧
     decOf (withStream (streaming 63 (descOf [])) liveStream) 63 = .wait ∧ decOf (streaming 63 (descOf [(48, 8, 1)])) 63 = .fault 5 1 ∧
     (∃ x ∈ [streamOf 0 0 0 0 0 (descOf [])], decOf (streaming 63 (descOf [])) 63 = .go { x with len := 64 })) ∧
    (let s := withStream one liveStream
     let t := withStream one { liveStream with asked := [(3, 100)] }
     running s = true ∧ tileStarts s (stream s 63) 3 (SMap.get 0 (stream s 63).next 3) = true ∧ tagsDone s (stream s 63) (dieOf up.sku 0x7FFFF) 0 = false ∧
     tileStarts t (stream t 63) 3 0 = true ∧ tagsDone t (stream t 63) 3 0 = true ∧ tileStarts s (stream s 63) 3 1 = false ∧
     (∀ z ∈ (stream s 63).tiles, z.t ≠ 0) ∧ tileFault s 3 (tileSpots s liveStream 0) = none ∧ tileSpots s liveStream 0 ≠ []) ∧
    (let s := { one with tags := [(tagKey 3 63, 32768)] }
     s.sku.die 3 = true ∧ s.pow.power = .active ∧ ((upTo 0 64).map (tagsOf s 3)).foldl (· + ·) 0 = 32768 ∧
     ((upTo 0 64).map (tagsOf s 0)).foldl (· + ·) 0 < 32768 ∧ tagsOf s 0 63 < max 1 (min 32768 (reg s (pgBark 0) 0x80 % 65536)) ∧
     63 ∈ [63].filter (fun k => let x := stream (withStream s liveStream) k; let e := dieOf up.sku 0x7FFFF
       tileStarts (withStream s liveStream) x e (SMap.get 0 x.next e) && !tagsDone (withStream s liveStream) x e (SMap.get 0 x.next e))) ∧
    (let x := { liveStream with tiles := [readTile none] }; let y := { liveStream with tiles := [readTile (some (1, 0x80)) []] }
     let s := withFence (withStream one x) { owner := some 0, sig := false, err := false }
     nextReady s x = some (readTile none) ∧ nextReady s y = some (readTile (some (1, 0x80)) []) ∧ (ctx s 0).st = 1 ∧ x.live = true ∧
     fref (BitVec.ofNat 64 x.bfence) = .loc 262143 ∧ x.bfence ≠ 0 ∧ slotMine s 0 262143 = true) ∧
    (let x := { liveStream with consumed := [0], reported := [0] }; let s := withStream one x; let far := 16 * 2 ^ 48 + 2 * 2 ^ 40
     running s = true ∧ atBoundary x = true ∧ boundarySent s 63 = false ∧ atBoundary liveStream = false ∧ atBoundary { x with bfence := 0 } = true ∧
     fref (BitVec.ofNat 64 far) = .sys 16 0 ∧ reachable (numbered s) 16 = true ∧ atBoundary { x with bfence := far } = true) := by
  decide +kernel

/-! ## Other chips -/

/-- A window of a chip's export table that covers the packet's bytes, its source chip and its source partition. -/
abbrev winWord (s : State) (i w : Nat) : Nat := reg s (0x10 + i / 128) (0x800 + 16 * (i % 128) + 8 * w)
def winFits (s : State) (p : Pkt) (region u n i : Nat) : Bool :=
  let a := winWord s i 0
  let b := winWord s i 1
  bit a 0 && bits a 2 1 == [0, 2, 1].getD region 3 && decide (bits a 39 16 ≤ p.addr % 2 ^ 40 / u) && decide ((p.addr % 2 ^ 40 + n - 1) / u ≤ bits b 23 0)
    && decide (bits b 47 32 ≤ p.src) && decide (p.src ≤ bits b 63 48) && bit b (24 + p.spart)

/-- `up` as chip 16, with window `i` for units 0 to `last`, partition 7 and chips 0 to 65,535; `more` sets further bits of its first word. -/
def exporting (i kind last more : Nat) : State :=
  withRegs (numbered up) [((0x10 + i / 128) * 4096 + 0x800 + 16 * (i % 128), 1 + kind * 2 + more)
    , ((0x10 + i / 128) * 4096 + 0x808 + 16 * (i % 128), last + 0x80 * 2 ^ 24 + 0xFFFF * 2 ^ 48)]
/-- A request of chip 33, partition 7. -/
def req (kind addr op : Nat) (data : List Byte) (pseq : Nat := 0) : Pkt := { mkPkt kind 16 addr op data 0 with src := 33, spart := 7, pseq := pseq }

theorem witness_RemoteRequests :
    (∀ s ∈ [exporting 0 0 (0xFFFFFF) 0x38, exporting 1023 0 0xFFFFFF 0x38, numbered up],
      remoteUp s = true ∧ chipNo s = 16 ∧ s.dbg.raised = false ∧ s.fab.reorder = [] ∧ ahead s (req 1 0 0 []) = 0) ∧
    (remoteUp up = true ∧ chipNo up = 0xFFFF ∧ (req 1 0 0 []).dst = 16) ∧
    (d2dBusy (exporting 0 0 0xFFFFFF 0x38) (dieFor (exporting 0 0 0xFFFFFF 0x38) 33) = false ∧ (req 3 0 0 (List.replicate 16 0)).data.length ≤ 16) ∧
    (∀ j < 1024, winFits (numbered up) (req 1 0 0 (List.replicate 4096 1)) 0 65536 4096 j = false) ∧
    (let p := req 1 (0x100000000 - 4096) 0 []; winFits (exporting 1023 0 0xFFFF 0x38) p 0 65536 4096 1023 = true ∧
     winFits (exporting 1023 0 0xFFFE 0x38) p 0 65536 4096 1023 = false ∧ ∀ j < 1023, winFits (exporting 1023 0 0xFFFF 0x38) p 0 65536 4096 j = false) ∧
    (let s := exporting 0 0 0xFFFFFF 0x38; let w := winWord s 0 0
     bit w 3 = true ∧ bit w 4 = true ∧ bit w 5 = true ∧ bit w 6 = false ∧ bits w 10 8 = 0 ∧ winFits s (req 3 0x100 8 []) 0 65536 8 0 = true ∧
     0x100 % 8 = 0 ∧ poisonIn s 0x100 8 = false ∧ blocked s (0x100 / 128) = false ∧ (dirOf s (0x100 / 128)).used = false ∧
     (∀ c ∈ sectorsOf 0x100 4096, sectorPoison s c = false ∧ hbmPoison s c = false) ∧
     (let t := { s with mem := { s.mem with poison := [(8, true)] } }; poisonIn t 0x100 4096 = true) ∧
     bit (winWord (exporting 0 0 0xFFFFFF 0) 0 0) 4 = false ∧ bit (winWord (exporting 0 0 0xFFFFFF 0x78) 0 0) 6 = true) ∧
    (let s := exporting 0 2 0xFFFFFF 0x18; let p := req 2 (2 ^ 40 + 0x4000) 8 []
     winFits s p 1 4096 8 0 = true ∧ bits p.addr 47 40 = 1 ∧ ioForeign s 0 (p.addr % 2 ^ 40) = true ∧ ioForeign s 0 (0x40 * 4096) = false ∧
     winFits s (req 1 (2 ^ 40 + 0x40 * 4096) 0 []) 1 4096 8 0 = true) ∧
    (let s := exporting 0 1 0xFFFFFF 0x10; let p := req 4 (2 ^ 41 + 8 * 262143) 1 []
     let t := withFence { s with box := one.box } { owner := some 0, sig := false, err := false }
     winFits s p 2 8 8 0 = true ∧ bits p.addr 47 40 = 2 ∧ (fence t (p.addr % 2 ^ 40 / 8)).owner = some 0 ∧ (ctx t 0).part = 0) ∧
    (let s := exporting 0 0 0xFFFFFF 0x38
     ahead s (req 1 0 0 [1] 1023) = 1023 ∧ 65536 - 1024 ≤ ahead s (req 1 0 0 [1] 65535) ∧ SMap.get none s.fab.hist (33 * 65536 + 65535) = none ∧
     (let r := { mkPkt 5 33 0 1 [] 0 with pseq := 65535 }; let t := { s with fab := { s.fab with hist := [(33 * 65536 + 65535, some r)] } }
      SMap.get none t.fab.hist (33 * 65536 + 65535) = some r)) := by decide +kernel

/-- A remote request of `o`, number 5, and its answer. -/
def sentReq (kind : Nat) (o : Owner) (st : ReqSt := .sent) : RReq :=
  { id := 5, pkt := { mkPkt kind 16 0x100 0 [] 0 with src := 16, txid := 9, pseq := 4 }, ctx := 0, owner := o, sent := 0, st := st }
def resp (kind status : Nat) (data : List Byte) (marks : Nat := 0) : Pkt :=
  { mkPkt 5 16 0 kind data marks with src := 16, status := status, txid := 9, pseq := 4 }
def answerFits (x : RReq) (p : Pkt) : Bool :=
  x.left && decide (x.pkt.dst = p.src) && decide (x.pkt.kind = p.op % 16) && (decide (x.pkt.kind = 2) || decide (x.pkt.pseq = p.pseq))
    && (!(x.pkt.kind == 2 || x.pkt.kind == 3) || decide (x.pkt.txid = p.txid))
def withReq (s : State) (r : RReq) : State := { numbered s with fab := { (numbered s).fab with reqs := [r] } }

theorem witness_RemoteOutcomes :
    (∀ kind ∈ [1, 2, 3, 4], ∀ st ∈ [0, 1, 2, 3, 5, 6], ∀ o ∈ ([.thread 0 0 5, .store 0 0 0, .tm 0, .cmd 0 0, .boundary 63] : List Owner),
      let r := sentReq kind o
      answerFits r (resp kind st []) = true ∧ (resp kind st []).status % 16 = st ∧ answerFits r (resp (kind + 4) st []) = false) ∧
    (let a := accOf .load (.remote 5) 16; let r := sentReq 2 (.thread 0 0 5); let s := withReq (withAcc a) r
     remoteUp s = true ∧ r ∈ s.fab.reqs ∧ chipNo s = 16 ∧ accAt s 0 0 5 = some a ∧ (grp s 0 0).sb = [] ∧ (∃ y ∈ (grp s 0 0).threads, y.stat ≠ .exited) ∧
     a.th < 32 ∧ a.mask.testBit a.th = true) ∧
    (let r := sentReq 1 (.store 0 0 0); let s := withReq one r
     r ∈ s.fab.reqs ∧ groupDone { s with fab := { s.fab with reqs := s.fab.reqs.filter (fun x => x.id != r.id) } } 0 0 = false ∧
     (ctx s (grp s 0 0).ctx).st = 1) ∧
    (let c := { cmdOf nop .running with wait := [(5, 0, 4096)] }; let r := sentReq 1 (.cmd 0 0); let s := withReq (withCmd one c) r
     cmdAt s 0 0 = some c ∧ c.st = .running ∧ c.wait = [(5, 0, 4096)] ∧ (ctx s r.ctx).st = 1) ∧
    (let c := { cmdOf nop .running with wait := [(5, 0, 32), (6, 32, 32)], buf := List.replicate 64 0 }; let r := sentReq 2 (.cmd 0 0)
     let s := withReq (withCmd one c) r; cmdAt s 0 0 = some c ∧ (∀ y ∈ [(6, 32, 32)], y.1 ≠ r.id)) ∧
    (let x : TmRun := { cmd := tmCmd false 0xFE0 (BitVec.ofNat 64 (16 * 2 ^ 48)) row32, tile := none, src := List.replicate 32 0, bad := [], puts := []
                        wait := [(5, 0, 32)], host := [] }
     let s := withReq (withGroup g2 { Core.empty with tmRun := some x }) (sentReq 2 (.tm 0))
     (core s 0).tmRun = some x ∧ x.cmd.put = false ∧ x.cmd.unpack = 0 ∧ x.wait = (5, 0, 32) :: []) ∧
    (let s := withReq (withStream one liveStream) (sentReq 4 (.boundary 63)); (stream s 63).live = true ∧ (ctx s (stream s 63).ctx).st = 1) ∧
    (let r := sentReq 1 (.store 0 0 0) .refused; let far := { r with pkt := { r.pkt with dst := 17 } }
     let linked := { withReq one far with fab := { (withReq one far).fab with ports := [(31, { Port.empty with lstate := 2, pchip := 17 })] } }
     r.st = .refused ∧ r.pkt.dst = chipNo (withReq one r) ∧ far.pkt.dst ≠ chipNo linked ∧ route (withReq one far) 0 17 = none ∧ route linked 0 17 = some 31) ∧
    (let s := { one with time := { one.time with nsRun := 2000000 } }; let r := sentReq 2 (.thread 0 0 5)
     r.left = true ∧ r.sent + 2000000 ≤ s.time.nsRun ∧ one.time.nsRun < r.sent + 2000000 ∧ s.dbg.raised = false) := by decide +kernel

theorem witness_RemoteOutcomes_faults :
    (∀ k ∈ [2, 3], (resp 2 0 [] 1).marks ≠ 0 ∧ (resp k 3 []).status % 16 = 3) ∧
    (let a := accOf .load (.remote 5) 16; let s := withReq (withAcc a) (sentReq 2 (.thread 0 0 5)); ∀ q ∈ (core s 0).faults, q.isOf 0 a.ins = false) ∧
    (let r := { sentReq 1 (.store 0 0 0) .noRoute with sent := 2 ^ 40 }; let s := withReq one r
     r ∈ s.fab.reqs ∧ (∀ x ∈ s.fab.reqs, (x.id = r.id → x = r) ∧ (x ≠ r → x.left = true)) ∧ r.st = .noRoute) := by decide +kernel

/-- A collective plan: frames of 1,024 ns, members 16 and 17, one tree whose node here has parent port 0 and children 1 and 31 (or none), one slot. -/
def planImg (node slot : Nat) : List Byte :=
  pack64 [(0, 4, 0x105), (4, 2, 1024), (6, 2, 1), (8, 2, 1), (10, 2, 2)] ++ toLE 2 16 ++ toLE 6 17 ++ toLE 8 node ++ toLE 8 slot
def inner : Nat := (2 ^ 1 + 2 ^ 31) * 2 ^ 32
def aLive (op : Nat) : Live :=
  { cid := 0xFFFF, q := 0, idx := 0, ctx := 0, op := op, fmt := 0, count := 1, src := cva 0, dst := cva 0x3FFFF000, root := 0, scale := 0, timed := false, start := 0, bank := 0
    group := none, attempt := 0, upGot := [], upSum := [], upPoison := [], upSent := [], downData := [], downGot := [], downSent := [], unacked := []
    written := [], poisoned := false, tag := 0, since := 0, last := [], slots := [] }
/-- `one` as chip 16 with ports 0, 1 and 31 in service, and the live collective. -/
def collecting (node slot : Nat) (ls : List Live) (pstate : Nat := 0) : State :=
  let s := numbered (withCmd one (cmdOf (pack64 [(0, 1, 11)]) .running))
  let port := fun c => { Port.empty with lstate := 2, pchip := c }
  let t := { s with fab := { s.fab with ports := [(0, port 15), (1, port 17), (31, port 18)] }
                    coll := { s.coll with banks := [(0, planImg node slot)], force := some (0, 0), pstate := pstate, live := ls } }
  withRegs t [(0x402080, 1), (0x442080, 1), (0x482080, 1), (0x4C2080, 1)]
def piece (kind src flags : Nat) (data : List Byte) (addr : Nat := 0) : Pkt :=
  { mkPkt kind 16 addr (0xFFFF + flags * 2 ^ 16 + 5 * 2 ^ 24) data 0 with src := src }

theorem witness_CollectiveResults :
    (let l := aLive 0; let s := collecting inner 0 [l]; let p := piece 6 18 0 [1, 2, 3, 4]
     running s = true ∧ p.dst = chipNo s ∧ liveAt s (bits p.op 15 0) = some l ∧ bits p.op 31 24 = planTag s l ∧ bit p.op 23 = bit l.attempt 0 ∧
     disagrees s l p = false ∧ bits p.addr 39 0 = 0 ∧ bit p.op 22 = false ∧ portFrom s (l.node s 0) 18 = some 31 ∧ 0 < l.pieces ∧
     (∀ i < l.pieces, i ≠ 0 → upReady s l i = false) ∧ 1 ∈ trKids (l.node s 0) ∧ 31 ∈ trKids (l.node s 0)) ∧
    (let l := { aLive 0 with upSent := [(0, true)] }; let s := collecting 0 0 [l]; let p := piece 7 15 0x40 [1, 2, 3, 4]
     liveAt s 0xFFFF = some l ∧ disagrees s l p = false ∧ bit p.op 22 = true ∧ l.pieces = 1 ∧ trKids (l.node s 0) = [] ∧ l.takes s 0 = true ∧
     (∃ pc ∈ (collSpots s l true 0).map Prod.fst, collSpots s l true 0 = [(pc, .mem 0x7FFFF000)] ∧ pc.pos = 0 ∧ pc.len = l.len 0) ∧
     l.elem * (elemsOf l.elem (l.len 0 / l.elem) p.data).length = l.len 0) ∧
    (let s := collecting inner 0 []; let p := piece 6 18 0 [1]
     liveAt s 0xFFFF = none ∧ s.coll.held.contains (31, p) = false ∧ collRoom s 3 = true ∧
     (∀ e ∈ up.sku.dies, collRoom (withRegs one [(0x402080, 0), (0x442080, 0), (0x482080, 0), (0x4C2080, 0)]) e = false) ∧ s.coll.stalled = [] ∧ p.data ≠ []) := by decide +kernel

theorem witness_CollectiveResults_other :
    (let l := { aLive 0 with attempt := 1 }; let s := collecting inner 0 [l]; let p := piece 6 18 0 [1]
     liveAt s 0xFFFF = some l ∧ bits p.op 31 24 = planTag s l ∧ bit p.op 23 = false) ∧
    (let l := aLive 0; let s := collecting inner 0 [l] 2; let p := { piece 6 18 0 [1] with op := 0xFFFF }
     liveAt s 0xFFFF = some l ∧ bits p.op 31 24 ≠ planTag s l ∧ s.coll.live = [l] ∧ (∀ i < l.pieces, upReady s l i = false)) ∧
    (let l := aLive 0; disagrees (collecting inner 0 [l]) l (piece 6 18 0 [1, 2, 3]) = true) ∧
    (let e := 31 + 32 + 940 * 2 ^ 12 + 100 * 2 ^ 28; let l := { aLive 0 with timed := true, start := 53, downGot := [(0, true)] }; let s := collecting inner e [l] 2
     plSlot (l.image s) 0 = e ∧ slotOpen s l 0 = some (0, 93) ∧ 4608 ≤ 100 * 93 ∧ owes s l e = [0] ∧ slDown e = true ∧ slotReady s l e 0 = true ∧
     slotOpen s { l with start := 0 } 0 = none ∧ slotReady s { l with downGot := [] } e 0 = false ∧ owes s { l with downGot := [] } e = [0]) := by decide +kernel

theorem witness_CollectiveResults_abort :
    (let s := collecting inner 0 [aLive 0] 2; let t := collecting inner 0 [] 3
     timeUp s = true ∧ s.coll.pstate = 2 ∧ (collecting inner 0 [] 2).coll.live = [] ∧ t.coll.pstate ≠ 2 ∧ t.coll.live = []) ∧
    (let l := aLive 0; let s := collecting inner 0 [l]; let t := { s with time := { s.time with nsRun := 2 ^ 40 } }
     liveAt s 0xFFFF = some l ∧ s.dbg.fatal = false ∧ liveAt s 0 = none ∧ (∀ e ∈ s.sku.dies, collSilent s l = false) ∧
     ∃ e ∈ t.sku.dies, engineWaits t l e = true ∧ max l.since (SMap.get 0 l.last e) + 1000 * 2 ^ max 10 (reg t (pgColl e) 0x8C % 32) ≤ t.time.nsRun) ∧
    (let l := { aLive 0 with unacked := [(0, 31, 0)] }; let s := collecting inner 0 [l]; let t := { s with time := { s.time with nsRun := 100000 } }
     liveAt t 0xFFFF = some l ∧ (0, 31, 0) ∈ l.unacked ∧ 0 + 100000 ≤ t.time.nsRun ∧ s.time.nsRun < 0 + 100000) ∧
    (pagesUp one = true ∧ reaches one 0 (pgColl 0) = true ∧ (blkAt one.sku (pgColl 0)).isSome = true ∧ one.coll.loading = none) ∧
    (let s := collecting inner 0 [{ aLive 0 with bank := 1 }]; let t := { s with coll := { s.coll with loading := some (0, 0x40000000) } }
     t.coll.loading = some (0, 0x40000000) ∧ running t = true ∧ (∀ l ∈ t.coll.live, l.group ≠ none ∨ l.bank ≠ 0) ∧
     poisonIn t 0x40000000 (peek t 0x40000000 (plLen (peek t 0x40000000 64))).length = false ∧ (∃ l ∈ t.coll.live, l.group = none ∧ l.bank = 1)) := by
  decide +kernel

def collCmd (l : List (Nat × Nat × Nat)) : Cmd :=
  cmdOf (pack64 ([(0, 1, 11), (16, 8, localAt 0), (24, 8, localAt 0x3FFFF000), (32, 4, 1), (36, 4, 1), (40, 4, 1), (44, 2, 0xFFFF)] ++ l))
theorem witness_SimpleCommands_collective :
    (let c := collCmd []; let s := collecting inner 0 []; let t := { s with box := (withCmd one c).box }
     starts t c 11 = true ∧ collDecide t 0 0 0 c.bytes = .go (newLive t 0 0 0 c.bytes) ∧ (∀ h ∈ t.coll.held, bits h.2.op 15 0 ≠ 0xFFFF) ∧
     (∀ j < (newLive t 0 0 0 c.bytes).pieces, upReady t (newLive t 0 0 0 c.bytes) j = false)) ∧
    (let c := { collCmd [(1, 1, 4), (56, 8, 1000)] with fired := true }; let s := collecting inner 0 [] 2; let t := { s with box := (withCmd one c).box }
     starts t c 11 = true ∧ (match collDecide t 0 0 0 c.bytes with | .go l => l.timed && l.start == 1024 | _ => false) = true) ∧
    (let c := collCmd [(46, 1, 0x18)]; let s := collecting inner 0 []; let t := { s with box := (withCmd one c).box }
     starts t c 11 = true ∧ collDecide t 0 0 0 c.bytes = .bad) ∧
    (let c := collCmd []; let s := collecting inner 0 [aLive 0]; let t := { s with box := (withCmd one c).box }
     starts t c 11 = true ∧ collDecide t 0 0 0 c.bytes = .wait) := by decide +kernel

def linked (st : Nat) (p : Port := Port.empty) : State :=
  let s := numbered up
  { s with fab := { s.fab with ports := [(31, { p with lstate := st })] } }
/-- A flit of header `h` and 236 zero bytes, or of the packet, with its CRC. -/
def sealed (l : List Byte) : List Byte := l ++ toLE 4 (crc32c l)
def aNull (h : Nat) : List Byte := sealed (toLE 16 h ++ List.replicate 236 0)
def sigfFlit (seq : Nat) : List Byte :=
  let f := nthD [] (flitsOf { mkPkt 4 16 (2 * 2 ^ 40) 0 [] 0 with src := 17 } 0) 0
  sealed (splice f 0 (toLE 2 (leAt f 0 2 + seq)))

theorem witness_LinkResults :
    ((linked 2).sku.port 31 = true ∧ (∀ st ∈ [2, 3, 6], (port (linked st) 31).lstate = st) ∧ (linked 2).dbg.raised = false) ∧
    (let f := List.replicate 256 (0 : Byte); f.length = 256 ∧ ¬crc32c (f.take 252) = leAt f 252 4) ∧
    (let f := sigfFlit 1023; let h := leAt f 0 16; let s := linked 2 { Port.empty with rxExp := 1023 }
     f.length = 256 ∧ crc32c (f.take 252) = leAt f 252 4 ∧ bit h 20 = false ∧ bit h 21 = false ∧ bits h 35 29 = 0 ∧ bits h 39 36 = 4 ∧
     bits h 9 0 = (port s 31).rxExp ∧ bits h 9 0 ≠ (port (linked 2) 31).rxExp ∧ hdrBad h = false ∧ vcOf (bits h 39 36) = bits h 23 22 ∧
     carries 2 (bits h 23 22) = true ∧ bit h 40 = true ∧ bit h 41 = true ∧ bits h 65 50 = chipNo s) ∧
    (let f := aNull (2 ^ 20 + 1023 * 2 ^ 10); let h := leAt f 0 16; let p := { Port.empty with retry := [(1022, []), (1023, []), (0, [])] }
     f.length = 256 ∧ crc32c (f.take 252) = leAt f 252 4 ∧ bits h 39 36 = 0 ∧ bit h 20 = true ∧ bit h 21 = false ∧ bits h 35 29 = 0 ∧
     (port (linked 2 p) 31).retry = [(1022, [])] ++ (1023, []) :: [(0, [])] ∧ bits h 19 10 = 1023) ∧
    (let f := aNull (2 ^ 21); let h := leAt f 0 16
     f.length = 256 ∧ crc32c (f.take 252) = leAt f 252 4 ∧ bits h 39 36 = 0 ∧ bit h 20 = false ∧ bit h 21 = true ∧ bits h 35 29 = 0 ∧
     (port (linked 2 { Port.empty with naks := 14 }) 31).naks + 1 < 16 ∧ 16 ≤ (port (linked 2 { Port.empty with naks := 15 }) 31).naks + 1) ∧
    (let f := aNull (64 * 2 ^ 29); let h := leAt f 0 16
     f.length = 256 ∧ crc32c (f.take 252) = leAt f 252 4 ∧ bits h 39 36 = 0 ∧ bit h 20 = false ∧ bit h 21 = false ∧ bits h 35 29 = 64) := by decide +kernel

theorem witness_LinkResults_ports :
    (let s := linked 3 { Port.empty with retry := [(0, [])] }; (port s 31).retry ≠ [] ∧ (port s 31).lstate = 3) ∧
    (let p := port (linked 4 { Port.empty with rig := 5 }) 31; p.lstate = 4 ∧ p.queue = [] ∧ p.newEnt = none ∧ p.prbs = 0 ∧ p.rig = 5) ∧
    (trains (linked 1) 31 = true ∧ mayTrain (linked 2) 31 = true ∧ 2 ≤ (port (linked 2) 31).lstate) ∧
    (let s := linked 1 { Port.empty with loopNs := 944, pv := true, pchip := 65535, pport := 31 }
     let t := { s with fab := { s.fab with plan := { s.fab.plan with ends := [(65535, 30)] } } }
     mayTrain s 31 = true ∧ (port s 31).lstate = 1 ∧ (port s 31).loopNs ≠ 0 ∧ s.fab.plan.members = 16 ∧ (port s 31).pv = true ∧ chipNo s ≠ 0xFFFF ∧
     (port s 31).pchip = 65535 ∧ (port s 31).pport = 31 ∧ (port t 31).pport ≠ 30 ∧ (65535, 30) ∈ t.fab.plan.ends ∧ (65535, 29) ∉ t.fab.plan.ends ∧
     carriesMgmt s 31 (.announce 65535 31 2 0 16) = true ∧ carriesMgmt s 31 (.plan 16 17 true) = false) ∧
    (∀ m ∈ ([.time 0 0 0 0 true 0 0, .abort 1, .cancel 1, .plan 16 17 false, .remote []] : List Mgmt), carriesMgmt (linked 3) 31 m = true) := by decide +kernel

theorem witness_LinkControl :
    (let pl := { Plan.none with chip := 17, ports := [(31, true, 16, 30)] }
     let s := { linked 2 with fab := { (linked 2).fab with pending := some (1000, pl) } }
     s.fab.pending = some (1000, pl) ∧ portsUp s = true ∧ mayFire s 1000 2 = true ∧ s.fab.plan.chip ≠ pl.chip ∧ (port s 31).lstate = 2 ∧
     (port s 30).lstate ∈ [0, 1, 5, 7] ∧ s.time.ft < 1001) ∧
    (let pl := { Plan.none with chip := 16, ports := [(31, false, 0xFFFF, 0)] }
     let q := { Port.empty with pv := true }
     let s := { linked 2 q with fab := { (linked 2 q).fab with pending := some (0, pl) } }
     ((port s 31).loc, (port s 31).pchip, (port s 31).pport, (port s 31).pv) = planEntry pl 31 ∧ s.fab.plan.chip = pl.chip) ∧
    (let s := linked 6
     s.sku.port 31 = true ∧ (port s 31).lstate = 6 ∧ pagesUp s = true ∧ reaches s 0 (pgXprt 31) = true ∧ (blkAt s.sku (pgXprt 31)).isSome = true ∧
     portsUp s = true ∧ s.rm.up = true ∧ mayTrain s 31 = true ∧ (port s 31).disable = false) ∧
    (let s := linked 0 { Port.empty with disable := true }; (port s 31).disable = true ∧ (port s 31).prbs = 0 ∧ mayTrain s 31 = false) ∧
    (let s := linked 3 { Port.empty with rig := 2 }; (port s 31).rig = 2 ∧ (port s 31).lstate = 3) ∧
    ((3 : Nat) % 4 = 3 ∧ (2 : Nat) % 4 ≠ 3 ∧ (port (linked 2) 31).prbs = 0 ∧ (port (linked 7) 31).lstate ∈ [0, 1, 5, 7]) := by decide +kernel

def timed (x : Time) (p : Port := { Port.empty with lstate := 2, parentOk := true, offset := -5 }) : State :=
  { numbered up with fab := { (numbered up).fab with ports := [(31, p)] }, time := x }
def clockOf (st : Nat) (meas : List Int) (good bad : Nat) : Time := { Time.zero with ft := 5, st := st, meas := meas, good := good, bad := bad }

theorem witness_TimeResults :
    (let s := timed (clockOf 0 [] 0 0); s.sku.port 31 = true ∧ timeUp s = true ∧ (port s 31).lstate ∈ [2, 3] ∧ timeUp State.reset = false ∧ s.rm.up = true ∧
     s.time.gm = false ∧ isMaster s = false ∧ chooseParent s = some 31) ∧
    (let s := { timed (clockOf 2 [] 0 0) with rm := { up.rm with up := false } }; timeUp s = true ∧ s.rm.up = false ∧ s.time.gm = false ∧ s.time.st ≠ 0) ∧
    (let s := timed (clockOf 2 [] 0 0); let t := { s with fab := { s.fab with plan := { s.fab.plan with masters := [16] } } }
     isMaster t = true ∧ t.time.gm = false) ∧
    (∀ st ∈ [0, 1, 2, 3], chooseParent (timed (clockOf st [] 0 0)) = some 31) ∧
    ((clockOf 1 [1, 2] 0 0).meas.length < 3 ∧ (clockOf 1 [1, 2, 3] 0 0).meas.length = 3 ∧
     0 ≤ ((timed (clockOf 1 [1, 2, 3] 0 0)).time.ft : Int) + (port (timed (clockOf 1 [1, 2, 3] 0 0)) 31).offset ∧
     4 ≤ (clockOf 1 [1, 2, 3, 4] 6 0).meas.length ∧ (-5 : Int).natAbs ≤ 5 ∧ (clockOf 1 [1, 2, 3, 4] 6 0).good < 7 ∧
     7 ≤ (clockOf 1 [1, 2, 3, 4] 7 0).good ∧ 5 < (6 : Int).natAbs ∧ 1000 < (-1001 : Int).natAbs ∧ (1000 : Int).natAbs ≤ 1000) ∧
    (∀ st ∈ [0, 1, 2, 3], chooseParent (timed (clockOf st [] 0 0) { Port.empty with lstate := 2 }) = none) ∧
    ((timed { clockOf 1 [] 0 0 with woken := true }).time.woken = true) ∧
    (let s := timed (clockOf 2 [] 0 0); let t := { s with rm := { s.rm with tier := 1 } }; timeUp t = true ∧ s.rm.tier ≠ 1 ∧ t.rm.tier = 1) ∧
    (let s := timed { clockOf 3 [] 0 0 with nsRun := 10000000 }; s.time.lastMeas + 10000000 ≤ s.time.nsRun ∧ s.time.gm = false) ∧
    (let s := { timed (clockOf 2 [] 0 0) with pow := { up.pow with links := [(0, (6, 16, true))], cfg := [(5, some 1)] } }
     timeUp s = true ∧ linkUp s 0 = true ∧ cfgVal s 0 5 = 1 ∧ cfgVal up 0 5 = 0) ∧
    (let s := timed (clockOf 0 [] 0 0) { Port.empty with lstate := 2 }; let t := { s with fab := { s.fab with plan := { s.fab.plan with masters := [17, 16] } } }
     s.time.gm = false ∧ chipNo s ≠ 0xFFFF ∧ chooseParent t = none ∧ nthD 0x10000 (gms t.fab.plan) ((t.time.cand + 1) % 2) = chipNo t ∧
     (port t 31).inService = true) := by decide +kernel

/-! ## Registers, the host, resets -/

def withShadow (s : State) (l : List (Nat × Nat)) : State :=
  { s with regs := { s.regs with shadow := l.map (fun e => (e.1, some (BitVec.ofNat 64 e.2))) } }
def armed (s : State) (page at' : Nat) : State := withRegs s [(page * 4096 + 0x20, at'), (page * 4096 + 0x28, 1)]

theorem witness_CommitResults :
    (pagesUp up = true ∧ reaches up 0 8 = true ∧ (blkAt up.sku 8).isSome = true ∧ commitCheck up 8 = 0 ∧ (8 ≠ 4 ∧ 8 ≠ pgColl 0) ∧
     0x218 ∈ csOffs up.sku 8 ∧ bit (reg up 8 0x28) 0 = false) ∧
    (let s := withShadow up [(0x8258, 2 ^ 32)]; commitCheck s 8 = 3) ∧
    (let s := armed up 8 1000
     (1000 : W64).toNat ≤ s.time.ft ∧ s.time.ft < (1001 : W64).toNat ∧ bit (reg s 8 0x28) 0 = true ∧ s.time.ft < reg (armed up 8 1001) 8 0x20 ∧
     mayFire s (reg s 8 0x20) 1 = true ∧
     mayFire (withShadow s [(0x8258, 2 ^ 32)]) 1000 1 = true) ∧
    (let s := collecting inner (31 + 2 ^ 5 + 24 * 2 ^ 12 + 400 * 2 ^ 28) []; let t := withShadow { s with coll := { s.coll with free_ := 0, loaded := true } } [(0x404088, 2)]
     bit (newReg t (pgColl 0) 0x88) 1 = true ∧ t.coll.live = [] ∧ commitCheck t (pgColl 0) = 0 ∧ bits (newReg t (pgColl 0) 0x88) 4 2 = 0) ∧
    (blkAt up.sku 0xB0 = some (.boxo, 8) ∧ blkAt up.sku 0x40 = some (.boxo, 1) ∧ blkAt up.sku 0x44 = none ∧ blkAt up.sku (pgColl 3) = some (.coll, 3)) ∧
    (let s := { up with regs := { up.regs with blk := [(pgColl 3, 3)] } }; blkState s (pgColl 3) = 4 ∧ s.coll.live = []) ∧
    (let s := withRegs up [(pgDbug 7 * 4096 + 0x300, 1000)]
     reg s (pgDbug 7) 0x300 ≠ 0 ∧ pagesUp s = true ∧ mayFire s (reg s (pgDbug 7) 0x300) 4 = true ∧ reg up (pgDbug 7) 0x300 = 0 ∧
     s.time.ft < reg (withRegs up [(pgDbug 7 * 4096 + 0x300, 1001)]) (pgDbug 7) 0x300 ∧ coreIn s 0 143 = true) := by decide +kernel

/-- Writes to a CS register of BOXO_0, the last BAR4 byte of the usable memory and the one after it, and the first of a carve-out. -/
theorem witness_HostAccess :
    (pagesUp up = true ∧ pagesUp State.reset = false ∧ 0x8219 % 4 ≠ 0 ∧ 0x821C % 8 = 4 ∧ reaches up 2 8 = false ∧ regAt up.sku 8 0x7FC = none ∧
     reaches up 0 8 = true ∧ blkAt up.sku 8 = some (.boxo0, 0) ∧
     (match regAt up.sku 8 0x218 with | some (r, base) => base == 0x218 && r.bytes == 8 && r.fields.any (fun f => f.acc == .cs) | none => false) = true ∧
     (match regAt up.sku 8 0x21C with | some (r, base) => base == 0x218 && r.bytes == 8 | none => false) = true) ∧
    (let s := withRegs up [(0x6088, up.sku.usable / 2 ^ 30)]
     s.pow.psState = 0 ∧ windowAddr s 0 0 = none ∧ windowAddr up 0 (up.sku.usable - 1) = some (up.sku.usable - 1) ∧
     windowAddr up 0 up.sku.usable = none ∧ windowAddr up 1 0 = some 0 ∧ windowAddr up 8 0 = none) ∧
    (blkAt up.sku 0x500 = none ∧ (blkAt up.sku 0).isSome = true ∧ (blkAt up.sku 0x18F).isSome = true) ∧
    (let s := { up with pow := { up.pow with svc := 2 } }; s.pow.power = .active ∧ s.pow.svc < 3) := by decide +kernel

/-- Register accesses of one and of two words, damaged bytes, and an access that a function does not reach. -/
theorem witness_HostAccess_reads :
    (let s := { up with mem := { up.mem with poison := [(0, true)] } }
     windowAddr s 0 31 = some 31 ∧ poisonIn s 0 32 = true ∧ poisonIn s 32 32 = false ∧ Memory.wf s.mem = true ∧ Memory.sound up.mem) ∧
    (pagesUp up = true ∧ reaches up 2 (0x8000 / 4096) = false ∧ reaches up 0 (0x500000 / 4096) = true ∧ (blkAt up.sku (0x500000 / 4096)).isSome = false) ∧
    ((0x8000 : Nat) % 4 = 0 ∧ (0x8004 : Nat) % 8 = 4 ∧ (2 ≤ 2 ∧ ¬((0x8000 : Nat) % 8 = 4 ∧ 2 = 2))) ∧
    (cfgHas 0 5 = true ∧ 1 ≤ cfgMax 5 ∧ cfgHas 1 5 = false ∧ cfgMax 5 < 2) := by
  refine ⟨⟨by decide +kernel, by decide +kernel, by decide +kernel, by decide +kernel, sound_of_empty _ (by decide +kernel) rfl⟩, ?_, ?_, ?_⟩ <;> decide +kernel

def trained (s : State) (n : Nat) : State := { s with pow := { s.pow with links := [(n, (6, 16, true))] } }
theorem witness_HostLink :
    (railsGood up = true ∧ up.pow.perst = false ∧ 0 < hostPorts up ∧ ({ up with pow := { up.pow with linkMode := 1 } } : State).pow.linkMode = 1 ∧
     1 < hostPorts { up with pow := { up.pow with linkMode := 1 } }) ∧
    (linkUp up 0 = false ∧ linkUp (trained up 0) 0 = true ∧ (∀ k ∈ (trained one 0).cores, k.1 < 144) ∧ linkUp (trained one 0) 0 = true) ∧
    (let s := trained up 0; let t := { s with pow := { s.pow with svc := 1 } }
     railsGood s = true ∧ linkUp s (fnPort s 8) = true ∧ cfgReady s = true ∧ cfgReady t = false ∧ linkUp t (fnPort t 0) = true ∧ linkUp up (fnPort up 0) = false) ∧
    (let s := { up with pow := { up.pow with linkMode := 1, links := [(1, (1, 8, false))] } }; linkUp s (fnPort s 9) = true ∧ s.pow.linkMode = 1) := by
  decide +kernel

def idle : State := { up with pow := { up.pow with power := .idle, svc := 4, psState := 2 } }
theorem witness_ResetResults :
    (railsGood up = true ∧ up.pow.perst = false ∧ railsGood State.reset = false ∧ State.reset.pow.power ≠ .off ∧ State.reset.pow.perst = true ∧
     ({ State.reset with pow := { State.reset.pow with perst := false } } : State).pow.perst = false) ∧
    (let s := { up with pow := { up.pow with perst := true, svc := 0, stage := .hold } }; s.pow.power ≠ .off ∧ s.pow.stage = .hold) ∧
    (pagesUp up = true ∧ reaches up 0 4 = true ∧ up.pow.power = .active ∧ 3 ≤ up.pow.svc ∧ up.pow.psState = 0 ∧ idle.pow.power = .idle ∧
     idle.dbg.fatal = false ∧ canReset up = true ∧ canReset State.reset = false) ∧
    (let s := one; (∃ x ∈ s.box.ctxs, x.1 = 0) ∧ (∀ x ∈ s.box.ctxs, x.1 = 0 → x.2.st ≠ 0 ∧ x.2.part = 0) ∧ (ctx s 0).st ≠ 3 ∧ canReset s = true ∧
     ∀ x ∈ s.box.ctxs, x.1 = 4095 → x.2.st = 0 ∨ x.2.part ≠ 0) ∧
    (let s := { up with mem := { up.mem with scrubs := [(0, 4095, 0), (1, 7, 1), (2, 1023, 0)] } }
     hasScrub s 0 4095 0 = true ∧ hasScrub s 1 7 1 = true ∧ scrubbing s 1023 = true ∧ scrubbing s 0 = false ∧ Memory.wf s.mem = true ∧ s.mem.l2 = []) ∧
    (let s := exporting 1023 0 0xFFFFFF 0x78; bit (reg s (expPage 1023) (expOff 1023)) 6 = true ∧ bit (reg s (expPage 0) (expOff 0)) 6 = false) := by
  decide +kernel

def mailed (op : Nat) (args : List Byte) (chan : Nat := 0) (s : State := up) : State :=
  { s with rm := if chan = 0 then { s.rm with cmd0 := some (op, 65535, args), lastChan := 0 } else { s.rm with cmd1 := some (op, 65535, args) } }

theorem witness_MailboxCommands_tiers :
    let s := { up with rm := { up.rm with tier := 1 } }; let t := { s with time := { s.time with ft := 10 ^ 7 + 1 } }
    tierHeld s = true ∧ overloaded s = false ∧ overloaded t = true ∧ t.rm.long = none ∧ tierHeld up = false := by decide +kernel

theorem witness_MailboxCommands :
    (pagesUp up = true ∧ reaches up 0 1 = true ∧ bit (reg up 1 0x88) 16 = false ∧ reg up 1 0x88 < 2 ^ 32 ∧ up.rm.up = true ∧
     bit (reg (withRegs up [(0x1088, 65536)]) 1 0x88) 16 = true ∧ ({ up with rm := { up.rm with up := false } } : State).rm.up = false ∧
     mbxRefusal up 0 (reg (withRegs up [(0x1080, 1)]) 1 0x80 % 65536) = none ∧ mbxRefusal up 0 0 = some (0xC, 1) ∧ mbxRefusal up 1 0x14 = some (0xC, 2) ∧
     up.rm.cmd1 = none ∧ up.rm.long = none ∧ mbxRefusal up 1 1 = none ∧ mbxRefusal { up with pow := { up.pow with svc := 2 } } 0 0x14 = some (0xD, 1)) ∧
    (∀ op ∈ [1, 2, 3, 4], ∀ chan ∈ [0, 1], mbxTurn (mailed op [0x20, 3] chan) chan op = some (65535, [0x20, 3])) ∧
    (leAt ([0x20, 3] : List Byte) 0 2 = 800 ∧ leAt (toLE 2 up.sku.maxPower) 0 2 ≤ up.sku.maxPower ∧ up.sku.maxPower < leAt (toLE 2 (up.sku.maxPower + 1)) 0 2) ∧
    (∀ op ∈ [0x10, 0x11, 0x12, 0x13, 0x14], mbxTurn (mailed op [7, 0, 0, 0]) 0 op = some (65535, [7, 0, 0, 0]) ∧ mbxCmd (mailed op [7, 0, 0, 0]) 1 = none) ∧
    (anyCtx up = false ∧ anyCtx one = true ∧ testCore [0xFF, 0xFF] = 0xFFFF ∧ testCore [143, 0] = 143 ∧ up.sku.core 143 = true ∧ up.sku.core (testCore [144, 0]) = false ∧
     leAt ([7, 0, 0, 0] : List Byte) 0 4 < 8 ∧ partLive up 7 = false ∧ partLive one 0 = true ∧ 8 ≤ leAt ([8, 0, 0, 0] : List Byte) 0 4) ∧
    (∀ op ∈ [0x12, 0x13, 0x14], mbxTurn (mailed op [0xFF, 0xFF] 0 one) 0 op = some (65535, [0xFF, 0xFF])) ∧
    (let s := mailed 0x10 [] 0 { up with rm := { up.rm with cmd1 := some (1, 2, []), lastChan := 1 } }
     let t := { s with rm := { s.rm with lastChan := 1 } }; mbxTurn t 0 0x10 = some (65535, []) ∧ t.rm.cmd1 = some (1, 2, [])) := by decide +kernel

def working (op chan : Nat) (args : List Byte) (image : Image := Image.none) (plan : Option Plan := none) (s : State := up) : State :=
  { s with rm := { s.rm with long := some { opcode := op, chan := chan, seq := 65535, args := args, prog := 0, image := image, plan := plan } } }

theorem witness_LongOperations :
    (∀ op ∈ [0x10, 0x11, 0x12, 0x13, 0x14], ∀ chan ∈ [0, 1],
      let s := working op chan [143, 0, 0, 0]; s.rm.long.isSome = true ∧ s.rm.up = true ∧ pagesUp s = true) ∧
    (let p := { Plan.none with chip := 4367 }; let q := { Plan.none with members := 9 }
     planFits up p = true ∧ planFits up q = false ∧ chipNo up = 0xFFFF ∧ chipNo (numbered one) ≠ 0xFFFF ∧ p.chip ≠ chipNo (numbered one) ∧
     anyCtx (numbered one) = true ∧ { p with tp := 1000 }.tp ≤ up.time.ft ∧ up.time.ft < { p with tp := 1001 }.tp) ∧
    (coreOut up 143 = true ∧ coreOut one 0 = false ∧ testCore [143, 0] < 144 ∧ testCore [0xFF, 0xFF] = 0xFFFF ∧ Memory.wf up.mem = true ∧ up.mem.l2 = []) := by
  decide +kernel

/-! ## Management, power, debug, and the whole machine -/

/-- The certificate registers of SECU: version 1 and scope 7 for serial number 0, with the nonce. -/
def certified (nonce : W64) : State :=
  { withRegs up [(0x3400, 1), (0x3404, 7), (0x3410, nonce.toNat % 2 ^ 32), (0x3414, nonce.toNat / 2 ^ 32)] with rm := { up.rm with nonce := nonce } }

theorem witness_ManagementFirmware :
    (bmcUp up = true ∧ up.rm.up = true ∧ pagesUp up = true ∧ up.rm.long = none ∧ up.rm.firstDog = none ∧ bmcUp State.reset = false ∧
     (working 0x12 0 []).rm.long.isSome = true ∧ bmcUp (working 0x12 0 []) = true) ∧
    (let s := { up with rm := { up.rm with up := false, cmd0 := some (1, 65535, []), cmd1 := some (2, 65535, []) } }; s.rm.up = false ∧ pagesUp s = true) ∧
    (0 + 3 < 3 + (1 + up.sku.dies.length) + up.sku.stacks + 1 ∧ 5 ∈ [2, 3, 4, 5, 6]) ∧
    (let s := { up with rm := { up.rm with up := false, verified := false, imgA := Image.none, imgB := Image.none }, pow := { up.pow with svc := 1, stage := .boot } }
     bmcUp s = false ∧ bootHeld s = true ∧ bmcUp State.reset = false ∧ bootHeld State.reset = false) ∧
    (let s := certified 0xFFFFFFFF00000001; let b := certBytes s
     leAt b 0 4 = 1 ∧ leAt b 4 4 < 8 ∧ (∀ k ∈ upTo 0 36, nthD 0 b (0x1C + k) = 0) ∧ s.rm.genFuse ≤ leAt b 0x18 4 ∧ leAt b 8 8 = s.rm.serial.toNat ∧
     leAt b 16 8 = s.rm.nonce.toNat ∧ reaches s 0 3 = true ∧ reaches s 2 3 = false ∧ pagesUp s = true) ∧
    (let s := withCtx up { Ctx.free with st := 1, debug := true }; (∃ x ∈ s.box.ctxs, x.2.st ≠ 0 ∧ x.2.debug = true) ∧ reaches s 0 3 = true) ∧
    (({ up with pow := { up.pow with alertN := true } } : State).pow.alertN = true ∧ up.pow.alertN = false) := by decide +kernel

theorem witness_ProtectionResults :
    ((up.pow.power = .active ∨ up.pow.power = .idle) ∧ ¬(State.reset.pow.power = .active ∨ State.reset.pow.power = .idle)) ∧
    (State.reset.pow.power = .dormant ∧ State.reset.pow.pwrEn = false) ∧
    (let s := { State.reset with pow := { State.reset.pow with trip := true } }; s.pow.power ≠ .off ∧ s.pow.trip = true ∧ s.pow.pwrEn = false) ∧
    (let lim := min up.sku.maxPower up.pow.bmcLimit
     railsGood up = true ∧ railsGood State.reset = false ∧ lim < lim + 1 ∧ lim ≤ (lim - 50) + 50 ∧ (lim - 51) + 50 < lim ∧
     up.pow.underNs + 100000 < 1000000 ∧ 1000000 ≤ ({ up with pow := { up.pow with underNs := 900000 } } : State).pow.underNs + 100000) := by decide +kernel

def atStage (st : Stage) (svc : Nat) : State := { up with pow := { up.pow with stage := st, svc := svc } }
def img (seqNo svn : Nat) (sigOk : Bool := true) : Image :=
  { valid := true, seqNo := seqNo, svn := svn, rmLen := 6 * 2 ^ 20, len := 127 * 2 ^ 20, sigOk := sigOk, secOk := true, rmDigest := 1, secDigest := 2 }
def booted (a b : Image) : State := { atStage .boot 1 with rm := { up.rm with imgA := a, imgB := b } }
def fitsB (x : Image) : Bool := x.valid && decide (x.rmLen ≤ 6 * 2 ^ 20) && decide (x.svn ≤ 64)
def goodB (s : State) (x : Image) : Bool := fitsB x && x.sigOk && decide (s.rm.fused ≤ x.svn)

theorem witness_StartUp :
    (({ State.reset with pow := { State.reset.pow with power := .off } } : State).pow.power = .off ∧ State.reset.pow.power ≠ .off) ∧
    (let q := { State.reset.pow with pwrEn := true, in52 := true }
     q.power = .dormant ∧ q.pwrEn = true ∧ q.in52 = true ∧ q.inletHot = false ∧ q.trip = false ∧ State.reset.pow.in52 = false) ∧
    ((atStage .rails 0).pow.power = .active ∧ (atStage .rails 0).pow.stage = .rails ∧ up.pow.stage ≠ .rails) ∧
    (let s := booted (img 2 64) (img 1 64)
     s.pow.stage = .boot ∧ s.pow.svc = 1 ∧ goodB s s.rm.imgA = true ∧ s.rm.imgB.seqNo < s.rm.imgA.seqNo ∧ fitsB Image.none = false) ∧
    (let s := booted (img 2 64 false) (img 1 64); goodB s s.rm.imgB = true ∧ goodB s s.rm.imgA = false ∧ fitsB s.rm.imgA = true ∧ s.rm.imgB.seqNo < s.rm.imgA.seqNo) ∧
    (let s := booted (img 2 65) Image.none; goodB s s.rm.imgA = false ∧ goodB s s.rm.imgB = false) ∧
    (let s := atStage .secondary 1; s.pow.stage = .secondary ∧ s.pow.svc = 1 ∧ s.rm.imgA.secOk = true ∧ s.rm.slot = 0 ∧ Image.none.secOk = false ∧
     s.fab.stored.chip = 0xFFFF) ∧
    (let s := atStage .service 2; s.pow.hbmDone = true ∧ fabricDone s = true ∧ s.rm.eraseDue = false ∧ s.pow.stage = .service ∧ s.pow.svc = 2 ∧
     ({ s with pow := { s.pow with hbmDone := false } } : State).pow.hbmDone = false ∧ s.sku.port 31 = true ∧ s.sku.hbmc 15 = true) := by decide +kernel

theorem witness_IdleAndAlarm :
    (pagesUp up = true ∧ reaches up 0 4 = true ∧ reaches up 2 4 = false ∧ up.pow.power = .active ∧ up.pow.svc = 3 ∧ up.pow.psState = 0 ∧ up.rm.long = none ∧
     up.box.queues = [] ∧ up.streams = [] ∧ up.coll.live = [] ∧ (∀ c < 144, ¬(up.sku.core c = true ∧ blkState up (pgCore c) = 7))) ∧
    ((∃ x ∈ (withCmd one (cmdOf nop .running)).box.queues, queueWorks (withCmd one (cmdOf nop .running)) x.2 = true) ∧ (working 0x12 0 []).rm.long ≠ none) ∧
    (let s := { up with regs := { up.regs with blk := [(pgCore 143, 6)] } }; up.sku.core 143 = true ∧ blkState s (pgCore 143) = 7) ∧
    (let s := { up with pow := { up.pow with psState := 1 } }
     s.pow.psState = 1 ∧ s.dbg.fatal = false ∧ drained s = true ∧ s.pow.exitReq = 0 ∧ s.mem.putms = [] ∧ s.mem.answers = [] ∧
     ({ s with pow := { s.pow with exitReq := 3 } } : State).pow.exitReq ≠ 0 ∧ Memory.wf s.mem = true ∧ (∀ k ∈ s.cores, ∀ x ∈ k.2.l1, x.2.dirty = 0)) ∧
    (idle.pow.power = .idle ∧ idle.dbg.fatal = false ∧ pagesUp idle = true ∧ reaches idle 0 4 = true) ∧
    (let s := withRegs up [(0x40A8, 1000)]; reg s 4 0xA8 ≠ 0 ∧ reg s 4 0xA8 ≤ s.time.ft ∧ s.dbg.raised = false ∧ s.pow.power = .active ∧ s.pow.psState ≠ 1 ∧
     reg up 4 0xA8 = 0) := by decide +kernel

def debugging (s : State := up) : State := { s with rm := { s.rm with scope := 7 } }
def frozen (dbg : Dbg) : State := { debugging with dbg := { dbg with raised := true } }

theorem witness_DebugUnit :
    (pagesUp up = true ∧ reaches up 0 0xA = true ∧ dbgOpen up = false ∧ dbgOpen debugging = true ∧ up.dbg.raised = false ∧ debugging.dbg.snapping = false ∧
     linkUp debugging 0 = false ∧ linkUp (trained debugging 0) 0 = true) ∧
    (let s := frozen { Dbg.reset with quiet := true }; let t := withRegs s [(0xA0A8, dumpNeed s)]
     s.dbg.raised = true ∧ s.dbg.quiet = true ∧ s.dbg.dumping = false ∧ s.dbg.fatal = false ∧ reg s 0xA 0xA8 < dumpNeed s ∧ dumpNeed t ≤ reg t 0xA 0xA8 ∧
     inFlight s = false ∧ inFlight (asked holder .toI) = true) ∧
    (let s := withRegs debugging [(0xA088, 1000)]; reg s 0xA 0x88 ≠ 0 ∧ mayFire s (reg s 0xA 0x88) 6 = true ∧ reg up 0xA 0x88 = 0) ∧
    (railsGood debugging = true ∧ scopeBit debugging 2 = true ∧ scopeBit up 2 = false ∧ railsGood State.reset = false) ∧
    (let s := trained (frozen { Dbg.reset with dumping := true, snapping := true }) 0; s.dbg.dumping = true ∧ linkUp s 0 = true ∧ s.dbg.snapping = true) := by
  decide +kernel

/-- FADD with a long-form immediate, at the ends of the fields. -/
def anAdd : Issue :=
  { core := 143, gslot := 63, pc := 0xFFFFFFFFFFFFFFF8
    f := { dst := 255, srca := 255, srcb := 255, srcc := 255, guard := 7, neg := true, ge := true, ua := true, ub := true, ic := true, opmod := 255, long := some 5 } }

/-- The Ringmaster is down with its running image good, with only the other good, and with none. -/
theorem witness_ManagementFirmware_restart :
    let down := fun (a b : Image) => { up with rm := { up.rm with up := false, imgA := a, imgB := b } }
    imageGood (down (img 2 64) Image.none) 0 = true ∧
    (imageGood (down (img 2 64 false) (img 1 64)) 0 = false ∧ imageGood (down (img 2 64 false) (img 1 64)) 1 = true) ∧
    imageGood (down Image.none Image.none) 0 = false ∧ up.rm.slot = 0 ∧ pagesUp (down Image.none Image.none) = true := by decide +kernel

theorem witness_StepRunsFront : ({ up with pending := [.nop anAdd, .thermtrip] } : State).pending = .nop anAdd :: [.thermtrip] := by decide +kernel

theorem witness_TimePasses :
    (up.pending = [] ∧ up.pow.power = .active ∧ up.fab.reorder = []) ∧ (State.reset.pow.power = .dormant ∧ State.reset.pending = []) ∧
    ((frozen Dbg.reset).dbg.raised = true ∧ (frozen Dbg.reset).pending = []) ∧
    (let x := { clockOf 2 [] 0 0 with phase := 4999, slew := -1 }; 4999 ≤ x.phase ∧ x.slew ≠ 0) := by decide +kernel

theorem witness_LockedTimeNeverSteps :
    (∃ t, step (timed { clockOf 2 [] 0 0 with phase := 4999, slew := -1 }) = .next t) ∧
    (let s := timed { clockOf 2 [] 0 0 with phase := 4999, slew := -1 }; s.time.st = 2 ∧ s.time.ft + 2 < 2 ^ 64 ∧ s.pow.power ≠ .dormant) :=
  ⟨⟨_, rfl⟩, by decide +kernel⟩

theorem witness_ThreadWordRoundTrip :
    opOf (.fadd anAdd) = some (3, 1, anAdd) ∧ (encodeIns (.fadd anAdd)).isSome = true ∧
    decodeIns 143 63 0xFFFFFFFFFFFFFFF8 0x8301FFFFFFFFFFFF 5 = some (.fadd anAdd) := by decide +kernel

theorem witness_PacketRoundTrip :
    (let p : Pkt := { kind := 8, dst := 65535, src := 65535, spart := 7, pseq := 65535, txid := 4095, status := 15, addr := 2 ^ 64 - 1, op := 2 ^ 31 - 1
                      data := List.replicate 4096 7, marks := 2 ^ 136 - 1 }
     p.kind ≤ 8 ∧ p.dst < 2 ^ 16 ∧ p.src < 2 ^ 16 ∧ p.spart < 8 ∧ p.pseq < 2 ^ 16 ∧ p.txid < 2 ^ 12 ∧ p.status < 16 ∧ p.addr < 2 ^ 64 ∧ p.marks < 2 ^ 136 ∧
     p.op < (if fullOp p.kind = true then 2 ^ 32 else 2 ^ 31) ∧ p.data.length ≤ 4096) := by decide +kernel

theorem witness_ThreadInstructionsReach : opOf (.nop anAdd) = some (0x0C, 0x0A, anAdd) ∧ gate one anAdd = none ∧ one.dbg.raised = false := by decide +kernel

theorem witness_StepKeepsMemory : Memory.wf one.mem = true ∧ Memory.sound one.mem ∧ (∃ t, step one = .next t) ∧ Memory.wf State.reset.mem = true :=
  ⟨by decide +kernel, sound_of_empty _ (by decide +kernel) rfl, ⟨_, rfl⟩, by decide +kernel⟩

/-! ## Decoding (R64 to R66, R76) -/

/-- The worked example of chapter 3: `@!p1 FFMA v4, v2, v3, v6` is 0x0303_0402_0306_3800. -/
theorem test_decode_ffma :
    decodeIns 0 0 home 0x0303040203063800 0 = some (.ffma (at0 { flds 4 2 3 6 with ge := true, guard := 1, neg := true })) := by decide +kernel

/-- Reserved classes and minor opcodes spell nothing (R76): IADD is class 1, minor 1; classes 0 and 0x10 and minor 0 are reserved. -/
theorem test_decode_reserved :
    decodeIns 0 0 home 0x0101000000000000 0 = some (.iadd (at0 (flds 0 0 0 0))) ∧ decodeIns 0 0 home 0x0100000000000000 0 = none ∧
    decodeIns 0 0 home 0x0001000000000000 0 = none ∧ decodeIns 0 0 home 0x1001000000000000 0 = none := by decide +kernel

/-- The table gives no row any bits. -/
theorem test_table_word : decodeTableWord 64 0x0303040203063800 = none := rfl

def from17 (kind addr spart : Nat) : Pkt := { mkPkt kind 40 addr 0 (List.replicate 8 0) 0 with src := 17, spart := spart }

/-! ## Well-formedness: a command that each check refuses -/

theorem test_wf_issue :
    ([.iadd { at0 (flds 0 0 0 0) with core := 144 }, .exit_ { at0 (flds 0 0 0 0) with gslot := 64 }, .bra { at0 (flds 0 0 0 0) with pc := 4 }] : List Instr).all
      (fun i => !i.wf) = true ∧ (Instr.iadd { at0 (flds 255 255 255 255) with core := 143, gslot := 63 }).wf = true := by decide +kernel

theorem test_wf_numbers :
    ([.claimTake 144, .waitfTimeout 0 0 32, .allocResult 0 64 0 0, .barrierWatchdogExpiry 144 true 0, .halt 10 0 0, .groupHalted 0 64, .step 0 144 0 true
      , .teamAdmit 8, .teamSaved 0 16, .gets 144 0, .agentProbe 4 0, .partitionError 3 0, .d2dFlitCrcFail ⟨4, false⟩, .ackTimeout 32, .hostLinkDown 2, .packetFetch 65536 none
      , .nopCommand 65536 0, .doorbellWrite 10 0 0, .ctxCreate 0 16384, .barkerTileRead 0 64, .tileReady 64, .mgmt 32 (.plan 0 0 true), .windowCloseExpiry 1024, .retrain 0 32
      , .scheduledCommit 16384, .load 10, .vfFlr 8, .mctpRequest 65536 0 [], .getInfo 2, .hbmTrainingComplete [16 + 16384], .scrubComplete 3 0] : List Instr).all
      (fun i => !i.wf) = true := by decide +kernel

theorem test_wf_more :
    ([.loadReturn 0 64 0 [] [], .icacheFill 144 0 0, .breakpointHalt 0 64 0, .resume 10 0 0, .stepRetire 0 64, .tileMoverCommandComplete 144 [], .fltInfoClear 0 144
      , .preemptTeam 0 16 .test, .teamRestore 144 0, .registerAccessTimeout 0 64 0, .poolEntryGrant 4 [] [], .d2dRetrain 4 false, .fastRetrainComplete 32 true
      , .launch 65536 0 [], .tagCancel 65536 0, .slotOpen 1024, .coll 32 ⟨from17 6 0 0, 0⟩, .flitReceive 32 [], .portTrainingComplete 32 ⟨0, 0⟩
      , .riggingAnnouncement 32 0 0 0 0 0, .disable 0 32 true, .prbsModeWrite 10 0 0, .linkMeasurement 32 0 0 0 0 true 0 0, .pieceResendTimeout 0 0 32
      , .blkCommitAtWrite 0 16384 0, .quiesce 10 0 true, .registerWrite 10 0 4 0, .bar0ReadTimeout true ⟨10, 0, 4⟩, .bar4Access 10 0 true 0 []
      , .configRequest 10 ⟨0, none⟩, .warmReset 10 0, .pldmGetSensor 65536, .submit 10 true false, .telemetrySample 5 [], .idleRequest 10 0, .carouselSelect 10 0
      , .hostLinkTrained 2 1 1 true] : List Instr).all (fun i => !i.wf) = true := by decide +kernel

/-! ## Worked examples of the manual -/

/-- Chapter 5, MX: with scale byte 0x79, MXFP4 elements 0b0111 and 0b1001 are 0.09375 and -0.0078125, here in bfloat16 and binary16. -/
theorem test_mx_decode :
    mxDecode 5 bfloat16 0x79 7 = 0x3DC0 ∧ mxDecode 5 bfloat16 0x79 9 = 0xBC00 ∧ mxDecode 5 binary16 0x79 7 = 0x2E00 ∧ mxDecode 5 bfloat16 0xFF 7 = bfloat16.nan := by
  decide +kernel

/-- Chapter 9: entries 4 and 5 of chip 40 admit chip 17's partition 1 to 1 GiB and to one fence slot; partition 2 finds no window. -/
def chip40 : State :=
  let s := withRegs { up with fab := { up.fab with plan := { Plan.none with chip := 40 } } }
    [(0x10840, 0x0011204100000319), (0x10848, 0x0011001102413FFF), (0x10850, 0x001120000C350313), (0x10858, 0x0011001102000C35)]
  withRegs s ((upTo 0x100 32).map (fun r => (0x9400 + r, if r % 4 = 0 then 0x0B0B0B0B else 0)))
theorem test_windows :
    windowCheck chip40 (from17 1 0x0028004100020040 1) = .admitted 3 ∧ windowCheck chip40 (from17 1 0x0028004100020040 2) = .noWindow := by decide +kernel

/-- What a register of thread 0 holds after an instruction of `one`'s group with v0 and v1 as given. -/
def after (i : Issue → Instr) (f : Fields) (a b : W32) (r : Nat) : Option W32 :=
  match exec (i (at0 f)) (withGroup { g2 with vreg := [(0, a), (1, b)].filter (fun e => e.2 != 0) }) with
  | .next t => some ((grp t 0 0).v 0 r)
  | _ => none

/-- IADD wraps modulo 2^32 (R141). -/
theorem test_iadd_wraps : after .iadd (flds 2 0 1 0) 0xFFFFFFFF 2 2 = some 1 := by decide +kernel
/-- ISUB is a - b, and its destination may be its source (R67, R77). -/
theorem test_isub : after .isub (flds 0 0 1 0) 1 2 0 = some 0xFFFFFFFF := by decide +kernel
/-- SHL shifts by b mod the width (R77, R141). -/
theorem test_shl_mod : after .shl (flds 2 0 1 0) 1 33 2 = some 2 := by decide +kernel
/-- SHR with OPMOD bit 1 is arithmetic (R77). -/
theorem test_shr_arithmetic : after .shr (flds 2 0 1 0 2) 0x80000000 31 2 = some 0xFFFFFFFF := by decide +kernel
/-- IABS of the most negative value returns it (R141). -/
theorem test_iabs_min : after .iabs (flds 2 0 0 0) 0x80000000 0 2 = some 0x80000000 := by decide +kernel
/-- FADD rounds to nearest even: 1 + 2^-24 is 1; upward it is 1 + 2^-23 (R138). -/
theorem test_fadd_rounds :
    after .fadd (flds 2 0 1 0) 0x3F800000 0x33800000 2 = some 0x3F800000 ∧ after .fadd (flds 2 0 1 0 2) 0x3F800000 0x33800000 2 = some 0x3F800001 := by
  decide +kernel
/-- FMUL: 1.5 * 1.5 = 2.25. -/
theorem test_fmul : after .fmul (flds 2 0 1 0) 0x3FC00000 0x3FC00000 2 = some 0x40100000 := by decide +kernel

end Sys2Proof.Machine.Tests
end

section
/-! SUPPORT. What an instruction that issues finds in its group: the lanes of the set, and the registers as they stood. -/

namespace Sys2Proof.Machine

section Issuing

variable {sh : Shape} {ok : Bool} {bad : Group → List Nat → List Nat} {x : Issue} {s : State} {set act : List Nat}

/-- A thread of the issuing set runs and stands at the instruction. -/
theorem IssuesBad.lane (h : IssuesBad sh ok bad x s set act) {k : Nat} (hk : k ∈ set) :
    k < 32 ∧ ((grp s x.core x.gslot).thr k).stat = .running ∧ ((grp s x.core x.gslot).thr k).pc = x.pc := by
  rwa [gate_set h.gate, mem_setAt] at hk

theorem IssuesBad.act_mem_set (h : IssuesBad sh ok bad x s set act) {k : Nat} (hk : k ∈ act) : k ∈ set :=
  acting_sub x.f (grp s x.core x.gslot) set k (h.acts ▸ hk)

theorem IssuesBad.set_nodup (h : IssuesBad sh ok bad x s set act) : set.Nodup := by
  rw [gate_set h.gate]; exact nodup_setAt _ _

theorem IssuesBad.act_nodup (h : IssuesBad sh ok bad x s set act) : act.Nodup := by
  rw [h.acts]; exact acting_nodup _ _ _ h.set_nodup

theorem IssuesBad.act_lt (h : IssuesBad sh ok bad x s set act) {k : Nat} (hk : k ∈ act) : k < 32 :=
  (h.lane (h.act_mem_set hk)).1

/-- What the move of the set leaves of thread `k`. -/
theorem IssuesBad.advance_thr (h : IssuesBad sh ok bad x s set act) {k : Nat} (hk : k < 32) :
    ((grp (advance s x set act) x.core x.gslot).thr k).pc =
        (if k ∈ set then x.pc + insLen x.f else ((grp s x.core x.gslot).thr k).pc)
      ∧ ((grp (advance s x set act) x.core x.gslot).thr k).stat = ((grp s x.core x.gslot).thr k).stat
      ∧ ((grp (advance s x set act) x.core x.gslot).thr k).preds = ((grp s x.core x.gslot).thr k).preds :=
  Machine.advance_thr act (gate_set h.gate) k hk

/-- The threads of the set are still listed after it has moved on. -/
theorem IssuesBad.advance_listed (h : IssuesBad sh ok bad x s set act) {k : Nat} (hk : k ∈ set) :
    k < (grp (advance s x set act) x.core x.gslot).threads.length := by
  obtain ⟨hlt, hrun, -⟩ := h.lane hk
  exact lt_of_running _ _ ((h.advance_thr hlt).2.1.trans hrun)

theorem IssuesBad.advance_p (h : IssuesBad sh ok bad x s set act) {k : Nat} (hk : k < 32) (j : Nat) :
    (grp (advance s x set act) x.core x.gslot).p k j = (grp s x.core x.gslot).p k j :=
  congrArg (fun p : BitVec 8 => p.getLsbD j) (h.advance_thr hk).2.2

theorem IssuesBad.dst_ok (h : IssuesBad sh ok bad x s set act) :
    dstOk (grp s x.core x.gslot).nreg sh.d x.f.dst.toNat = true := by
  have hl := h.legal
  simp only [Machine.legal, Bool.and_eq_true] at hl
  obtain ⟨⟨⟨⟨-, hdst⟩, -⟩, -⟩, -⟩ := hl
  exact hdst

/-- A legal vector destination of `n` registers ends below v255. -/
theorem IssuesBad.dst_vec_le (h : IssuesBad sh ok bad x s set act) {n : Nat} (hd : sh.d = .v n) (hne : x.f.dst.toNat ≠ 255) :
    x.f.dst.toNat + n ≤ 255 := by
  have hdst := h.dst_ok
  simp only [dstOk, hd, vecOk, Bool.or_eq_true, beq_iff_eq, decide_eq_true_eq] at hdst
  rcases hdst with e | e
  · exact absurd e hne
  · omega

/-- A uniform destination is not 0xFF. -/
theorem IssuesBad.dst_uni_ne (h : IssuesBad sh ok bad x s set act) (hd : sh.d = .u) : x.f.dst.toNat ≠ 255 := by
  have hdst := h.dst_ok
  simp only [dstOk, hd, decide_eq_true_eq] at hdst
  omega

end Issuing

@[simp] theorem advance_v (s : State) (x : Issue) (set act : List Nat) (k j : Nat) :
    (grp (advance s x set act) x.core x.gslot).v k j = (grp s x.core x.gslot).v k j := by
  simp only [Group.v, advance_vreg]
@[simp] theorem advance_u (s : State) (x : Issue) (set act : List Nat) (j : Nat) :
    (grp (advance s x set act) x.core x.gslot).u j = (grp s x.core x.gslot).u j := by
  simp only [Group.u, advance_ureg]
@[simp] theorem advance_regVal (s : State) (x : Issue) (set act : List Nat) (k : Nat) (u : Bool) (r n : Nat) :
    regVal (grp (advance s x set act) x.core x.gslot) k u r n = regVal (grp s x.core x.gslot) k u r n := by
  simp only [regVal, Group.v64, advance_v, advance_u]
@[simp] theorem advance_srcB (sh : Shape) (f : Fields) (s : State) (x : Issue) (set act : List Nat) (k n : Nat) :
    srcB sh f (grp (advance s x set act) x.core x.gslot) k n = srcB sh f (grp s x.core x.gslot) k n := by
  simp only [srcB, advance_regVal]

/-- A one-word write to DST is a write of its register. -/
theorem setDst_one (f : Fields) (g : Group) (k : Nat) (v : W32) : setDst f g k 1 v.toNat = g.setV k f.dst.toNat v := by
  simp [setDst]

/-- Once the set has moved on, a change of vector registers alone is a `WritesVec`. -/
theorem writesVec_setGrp {x : Issue} {s : State} {set act : List Nat} {r n : Nat} {h : Group}
    (hset : set = (grp s x.core x.gslot).setAt x.pc) (hg : (grp (advance s x set act) x.core x.gslot).VecOnly h)
    (hv : ∀ k j, j < 256 → ¬(k ∈ act ∧ r ≠ 255 ∧ r ≤ j ∧ j < r + n) → h.v k j = (grp s x.core x.gslot).v k j) :
    WritesVec x set act r n s (setGrp (advance s x set act) x.core x.gslot h) := by
  have thr : ∀ k, h.thr k = (grp (advance s x set act) x.core x.gslot).thr k := fun k => by
    rw [Group.thr, hg.threads]; rfl
  refine ⟨setGrp_onlyGroup (advance_onlyGroup s x set act) _, ?_, fun k hk => ?_, fun k j _ hj hno => ?_, ?_, fun k j hk _ _ => ?_⟩
  · simp only [OnlyRegs, grp_setGrp_same]
    rw [hg, advance_group]
  · rw [grp_setGrp_same, thr]
    exact ⟨(advance_thr act hset k hk).1, (advance_thr act hset k hk).2.1⟩
  · rw [grp_setGrp_same, hv k j hj hno]
  · rw [UniKept, grp_setGrp_same, hg.ureg, advance_ureg]
  · rw [grp_setGrp_same, Group.p, thr, (advance_thr act hset k hk).2.2]
    rfl

@[simp] theorem thr_setU (g : Group) (r k : Nat) (y : W64) : (g.setU r y).thr k = g.thr k := rfl
@[simp] theorem v_setU (g : Group) (r k j : Nat) (y : W64) : (g.setU r y).v k j = g.v k j := rfl

/-- Once the set has moved on, a write of uniform register `r` is a `WritesUni`. -/
theorem writesUni_setU {x : Issue} {s : State} {set act : List Nat} {r : Nat} (hset : set = (grp s x.core x.gslot).setAt x.pc)
    (hr : r ≠ 255) (y : W64) :
    WritesUni x set r s
      (setGrp (advance s x set act) x.core x.gslot ((grp (advance s x set act) x.core x.gslot).setU r y)) := by
  refine ⟨setGrp_onlyGroup (advance_onlyGroup s x set act) _, ?_, fun k hk => ?_, fun k j _ _ _ => ?_, fun j hj => ?_,
    fun k j hk _ _ => ?_⟩
  · simp only [OnlyRegs, grp_setGrp_same, Group.setU]
    rw [advance_group]
  · rw [grp_setGrp_same, thr_setU]
    exact ⟨(advance_thr act hset k hk).1, (advance_thr act hset k hk).2.1⟩
  · rw [grp_setGrp_same, v_setU, advance_v]
  · rw [grp_setGrp_same, u_setU _ _ _ _ hr, if_neg hj, advance_u]
  · rw [grp_setGrp_same, Group.p, thr_setU, (advance_thr act hset k hk).2.2]
    rfl

/-! ## Across threads (R78) -/

theorem testBit_maskOf (i : Nat) : ∀ l : List Nat, (maskOf l).testBit i = decide (i ∈ l)
  | [] => by simp [maskOf]
  | a :: l => by
    rw [maskOf, Nat.testBit_or, testBit_maskOf i l, Nat.testBit_two_pow]
    simp [eq_comm (a := a)]

/-- SHFL reads the same value before and after its set has moved on. -/
theorem shflVal_advance (f : Fields) (s : State) (x : Issue) (set act : List Nat) (k : Nat) :
    shflVal f (grp (advance s x set act) x.core x.gslot) k = shflVal f (grp s x.core x.gslot) k := by
  simp only [shflVal, shflFrom, advance_u, advance_v, advance_srcB]

/-- Lanes that each write one register of their own, with values fixed beforehand: each holds its value, all else is as it was. -/
theorem foldl_setV (f : Fields) (val : Nat → W32) (hd : f.dst.toNat ≠ 255 → f.dst.toNat + 1 ≤ 255) (act : List Nat) (g : Group)
    (hn : act.Nodup) :
    g.VecOnly (act.foldl (fun g k => g.setV k f.dst.toNat (val k)) g) ∧
    ∀ k j, j < 256 → (act.foldl (fun g k => g.setV k f.dst.toNat (val k)) g).v k j =
      if k ∈ act ∧ f.dst.toNat ≠ 255 ∧ f.dst.toNat ≤ j ∧ j < f.dst.toNat + 1 then val k else g.v k j := by
  have key := foldl_setDst f 1 (fun _ k => (val k).toNat) (.inl rfl) hd (fun _ _ _ _ => rfl) act g hn
  simp only [setDst_one] at key
  refine ⟨key.1, fun k j hj => ?_⟩
  rw [key.2 k j hj]
  by_cases c : k ∈ act ∧ f.dst.toNat ≠ 255 ∧ f.dst.toNat ≤ j ∧ j < f.dst.toNat + 1
  · rw [if_pos c, if_pos c, show j - f.dst.toNat = 0 by omega]
    simp
  · rw [if_neg c, if_neg c]

/-- An issue whose acting lanes each take a value fixed beforehand in DST. -/
theorem writesVec_setV {sh : Shape} {ok : Bool} {bad : Group → List Nat → List Nat} {x : Issue} {s : State} {set act : List Nat}
    (h : IssuesBad sh ok bad x s set act) (hd : sh.d = .v 1) (val : Nat → W32) :
    let t := setGrp (advance s x set act) x.core x.gslot
      (act.foldl (fun g k => g.setV k x.f.dst.toNat (val k)) (grp (advance s x set act) x.core x.gslot))
    WritesVec x set act x.f.dst.toNat 1 s t ∧
      ∀ k ∈ act, x.f.dst.toNat ≠ 255 → (grp t x.core x.gslot).v k x.f.dst.toNat = val k := by
  obtain ⟨only, vals⟩ := foldl_setV x.f val (h.dst_vec_le hd) act (grp (advance s x set act) x.core x.gslot) h.act_nodup
  refine ⟨writesVec_setGrp (gate_set h.gate) only fun k j hj hno => ?_, fun k hk hne => ?_⟩
  · rw [vals k j hj, if_neg hno, advance_v]
  · rw [grp_setGrp_same, vals k _ x.f.dst.isLt, if_pos ⟨hk, hne, le_refl _, Nat.lt_succ_self _⟩]

/-- A vote whose combination `r` over the acting lanes is known writes it to each of them. -/
theorem vote_writesPred {x : Issue} {s : State} {set act : List Nat} (h : Issues ⟨.p, .p, .un, .un, .none, 0, .vec⟩ true x s set act)
    (q : (Nat → Bool) → List Nat → Bool) (r : Bool)
    (hq : q (fun k => (grp (advance s x set act) x.core x.gslot).p k x.f.srca.toNat) act = r) :
    ∃ t, vote q x s = .next t ∧ WritesPred x set act x.f.dst.toNat s t ∧
      ∀ k ∈ act, (grp t x.core x.gslot).p k x.f.dst.toNat = r := by
  have e : vote q x s = issueLanes ⟨.p, .p, .un, .un, .none, 0, .vec⟩ true x s (fun g k => g.setP k x.f.dst.toNat r) := by
    rw [vote, issueLanes, issue_next h true rfl, issue_next h true rfl]
    simp only [hq]
  rw [e]
  exact issueLanes_pred h (fun _ _ => r) rfl (fun _ _ _ _ => rfl)

/-- Settles O8: each form issues, and writes values that the move of the set has left as they stood. -/
theorem crossLaneResults : Obligations.CrossLaneResults := by
  refine ⟨fun x s set act => ?shfl, fun x s set act => ?vote, fun x s set act => ?ballot, fun x s set act => ?urdlane⟩
  case shfl =>
    intro g sh own src h settled
    have ready : (x.f.ua || regSettled g lanes x.f.srca.toNat) = true := by simpa using settled
    refine ⟨_, issueBad_next h _ ready _, ?_⟩
    simp only [shflVal_advance]
    exact writesVec_setV h rfl (shflVal x.f g)
  case vote =>
    intro g pA e he h
    have same : act.map (fun k => (grp (advance s x set act) x.core x.gslot).p k x.f.srca.toNat) = act.map pA :=
      List.map_congr_left fun k hk => h.advance_p (h.act_lt hk) _
    simp only [List.mem_cons, List.not_mem_nil, or_false] at he
    rcases he with rfl | rfl
    · exact vote_writesPred h (fun p l => l.any p) _ (by simpa [List.any_map] using congrArg (fun l => l.any id) same)
    · exact vote_writesPred h (fun p l => l.all p) _ (by simpa [List.all_map] using congrArg (fun l => l.all id) same)
  case ballot =>
    intro g h
    obtain ⟨writes, vals⟩ := writesVec_setV h rfl fun _ => BitVec.ofNat 32
      (maskOf (act.filter fun k => (grp (advance s x set act) x.core x.gslot).p k x.f.srca.toNat))
    refine ⟨_, issue_next h true rfl _, writes, fun k hk hne i hi => ?_⟩
    rw [vals k hk hne, BitVec.getLsbD_ofNat, testBit_maskOf]
    simp [hi, List.mem_filter, g, h.advance_p hi]
  case urdlane =>
    intro g i r
    refine ⟨fun h settled => ?_, fun hg hbad => issueBad_illegal hg (.inr ?_)⟩
    · have hne := h.dst_uni_ne rfl
      refine ⟨_, issueBad_next h _ settled _, writesUni_setU (gate_set h.gate) hne _, ?_⟩
      rw [grp_setGrp_same, u_setU _ _ _ _ hne, if_pos rfl, advance_v]
    · rcases hbad with hic | hi
      · simp [hic]
      · simp [i] at hi ⊢
        omega

end Sys2Proof.Machine
end

section
/-! SUPPORT. Threads of a group: what a change of several threads leaves, and what the lanes of an issue do together. -/

namespace Sys2Proof.Machine

/-! ## Changing several threads -/

/-- The listed threads changed, one after another: what YIELD, EXIT, a branch and a fault do to a group's threads. -/
def Group.mapThr (g : Group) (l : List Nat) (f : Nat → Thread → Thread) : Group :=
  l.foldl (fun g k => g.setThr k (f k (g.thr k))) g

theorem mapThr_only (f : Nat → Thread → Thread) : ∀ (l : List Nat) (g : Group),
    g.mapThr l f = { g with threads := (g.mapThr l f).threads }
  | [], _ => rfl
  | a :: l, g => by
    have ih := mapThr_only f l (g.setThr a (f a (g.thr a)))
    simp only [Group.mapThr, List.foldl_cons] at ih ⊢
    rw [ih]; rfl

@[simp] theorem mapThr_v (g : Group) (l : List Nat) (f : Nat → Thread → Thread) (k j : Nat) : (g.mapThr l f).v k j = g.v k j := by
  rw [mapThr_only]; rfl
@[simp] theorem mapThr_vreg (g : Group) (l : List Nat) (f : Nat → Thread → Thread) : (g.mapThr l f).vreg = g.vreg := by
  rw [mapThr_only]
@[simp] theorem mapThr_ureg (g : Group) (l : List Nat) (f : Nat → Thread → Thread) : (g.mapThr l f).ureg = g.ureg := by
  rw [mapThr_only]

/-- A listed thread is changed once, every other stays. -/
theorem thr_mapThr (f : Nat → Thread → Thread) : ∀ (l : List Nat) (g : Group) (k : Nat), l.Nodup → (∀ a ∈ l, a < g.threads.length) →
    (g.mapThr l f).thr k = if k ∈ l then f k (g.thr k) else g.thr k
  | [], g, k, _, _ => by simp [Group.mapThr]
  | a :: l, g, k, nd, h => by
    rw [List.nodup_cons] at nd
    have ha := h a (List.mem_cons_self ..)
    have ih := thr_mapThr f l (g.setThr a (f a (g.thr a))) k nd.2
      (fun b hb => by simpa [Group.setThr] using h b (List.mem_cons_of_mem _ hb))
    simp only [Group.mapThr, List.foldl_cons] at ih ⊢
    rw [ih, thr_setThr g a k _ ha]
    by_cases ka : k = a
    · subst ka; simp [nd.1]
    · simp [ka]

theorem park_eq_mapThr (g : Group) (act : List Nat) (p : ThStat) : g.park act p = g.mapThr act (fun _ y => { y with stat := p }) := rfl

theorem restoreLanes_eq_mapThr (old g : Group) (l : List Nat) :
    restoreLanes old g l = g.mapThr l (fun k y => { y with pc := (old.thr k).pc, preds := (old.thr k).preds }) := rfl

theorem restoreLanes_vreg (old g : Group) (l : List Nat) : (restoreLanes old g l).vreg = g.vreg := by
  rw [restoreLanes_eq_mapThr, mapThr_vreg]

/-- A thread put back stands where it stood, with its predicates (R49). -/
theorem thr_restoreLanes (old : Group) {g : Group} {l : List Nat} (nd : l.Nodup) (h : ∀ a ∈ l, a < g.threads.length) {k : Nat}
    (hk : k ∈ l) : (restoreLanes old g l).thr k = { g.thr k with pc := (old.thr k).pc, preds := (old.thr k).preds } := by
  rw [restoreLanes_eq_mapThr, thr_mapThr _ _ _ _ nd h, if_pos hk]

/-- Every thread that is listed has exited exactly when every thread number reads as exited. -/
theorem all_exited_iff (g : Group) : g.threads.all (fun y => y.stat == .exited) = true ↔ ∀ k, (g.thr k).stat = .exited := by
  have key : ∀ l : List Thread, l.all (fun y => y.stat == .exited) = true ↔ ∀ k, (nthD Thread.gone l k).stat = .exited := by
    intro l
    induction l with
    | nil => simp [nthD, Thread.gone]
    | cons a l ih =>
      rw [List.all_cons, Bool.and_eq_true, ih, beq_iff_eq]
      exact ⟨fun h k => by cases k with
        | zero => exact h.1
        | succ k => exact h.2 k, fun h => ⟨h 0, fun k => h (k + 1)⟩⟩
  exact key g.threads

/-- A group that has issued lists no thread from 32 on. -/
theorem advance_thr_gone (s : State) (x : Issue) (set act : List Nat) (hset : set = (grp s x.core x.gslot).setAt x.pc) (k : Nat)
    (hk : 32 ≤ k) : (grp (advance s x set act) x.core x.gslot).thr k = Thread.gone := by
  have hl : lanes.length = 32 := length_upTo 32 0
  rw [grp_advance, thr_goto, if_neg]
  · rw [Group.thr, nthD_of_length]
    simp only [Group.aged, List.length_take, List.length_map]
    omega
  · rw [hset, mem_setAt]; omega
  · intro a ha
    rw [hset, mem_setAt] at ha
    exact length_aged _ _ _ ha.1 (lt_of_running _ _ ha.2.1)

/-! ## Lanes that run one by one -/

/-- Lanes that all complete, each with a change of their group: no fault, and the group takes the changes in order. -/
theorem runLanes_ok (x : Issue) (f : State → Nat → LaneRes) (change : Group → Nat → Group) : ∀ (l : List Nat) (s : State),
    (∀ k ∈ l, ∀ u, f u k = .ok (setGrp u x.core x.gslot (change (grp u x.core x.gslot) k))) →
    (runLanes f l s).2 = [] ∧ grp (runLanes f l s).1 x.core x.gslot = l.foldl change (grp s x.core x.gslot) ∧
      ∀ s₀, OnlyGroup x s₀ s → OnlyGroup x s₀ (runLanes f l s).1
  | [], _, _ => ⟨rfl, rfl, fun _ h => h⟩
  | a :: l, s, h => by
    obtain ⟨none, group, only⟩ := runLanes_ok x f change l (setGrp s x.core x.gslot (change (grp s x.core x.gslot) a))
      (fun k hk => h k (List.mem_cons_of_mem _ hk))
    rw [runLanes, h a (List.mem_cons_self ..) s]
    refine ⟨none, ?_, fun s₀ h₀ => only s₀ (setGrp_onlyGroup h₀ _)⟩
    rw [group, grp_setGrp_same, List.foldl_cons]

/-- Lanes that all fault leave the state. -/
theorem runLanes_fault (f : State → Nat → LaneRes) (kind : Nat) (addr : Nat → Option W64) : ∀ (l : List Nat) (s : State),
    (∀ k ∈ l, ∀ u, f u k = .fault kind (addr k)) → runLanes f l s = (s, l.map (fun k => (k, kind, addr k)))
  | [], _, _ => rfl
  | a :: l, s, h => by
    rw [runLanes, h a (List.mem_cons_self ..) s]
    simp only [runLanes_fault f kind addr l s (fun k hk => h k (List.mem_cons_of_mem _ hk)), List.map_cons]

theorem foldl_min_mem : ∀ (l : List Nat) (a : Nat), l.foldl min a ∈ a :: l
  | [], a => by simp
  | b :: l, a => by
    have ih := foldl_min_mem l (min a b)
    rw [List.foldl_cons]
    rcases List.mem_cons.mp ih with e | e
    · rw [e]
      rcases min_choice a b with m | m <;> simp [m]
    · simp [e]

/-- Faults that are all of one kind are recorded with that kind (R52). -/
theorem faultOf_kind (n : Nat) (l : List LaneFault) (hne : l ≠ []) (h : ∀ e ∈ l, e.2.1 = n) : (faultOf l).1 = n := by
  unfold faultOf
  cases hA : l.filterMap (fun y => y.2.2.map BitVec.toNat) with
  | nil =>
    cases l with
    | nil => exact absurd rfl hne
    | cons e l => exact h e (List.mem_cons_self ..)
  | cons a t =>
    obtain ⟨e, he, ha⟩ := List.mem_filterMap.mp (hA ▸ foldl_min_mem t a)
    dsimp only
    cases hf : l.find? (fun y => y.2.2.map BitVec.toNat == some (t.foldl min a)) with
    | none => simpa [ha] using List.find?_eq_none.mp hf e he
    | some y => exact h y (List.mem_of_find?_eq_some hf)

/-- Counting and noting a fault changes no core. -/
theorem noteFault_cores (s : State) (c g : Nat) (p q : Option Nat) (a b : Nat) :
    (note (pmcG s c g 0x12 1) 1 c 0 0x04 p q a b).cores = s.cores :=
  ((note_touches _ _ _ _ _ _ _ _ _) .cores (by decide)).trans ((pmcG_touches s c g 0x12 1) .cores (by decide))

/-- Lanes of an issue that fault: their group stops, and one record with their mask waits (R49, R52). -/
theorem issueFaults_effect (s : State) (x : Issue) (old : Group) (l : List LaneFault) (code : Nat) (hne : l ≠ []) :
    grp (issueFaults s x old l code) x.core x.gslot =
        { grp s x.core x.gslot with stopped := true, stepReq := none, stepping := false } ∧
      ∃ r : FaultRec, (core (issueFaults s x old l code) x.core).faults = (core s x.core).faults ++ [r] ∧
        r.kind = (faultOf l).1 ∧ r.mask = maskOf (l.map Prod.fst) := by
  unfold issueFaults takeFaultIn
  rw [if_neg (by simpa using hne)]
  dsimp only
  rw [grp_congr (noteFault_cores ..), core_congr (noteFault_cores ..), core_setCore_same, grp, core_setCore_same]
  simp only [Bool.false_eq_true, if_false, core_setGrp_same, Core.setGrp, SMap.get_put_same]
  exact ⟨trivial, _, rfl, rfl, rfl⟩

end Sys2Proof.Machine
end

section
/-! SUPPORT. Control transfer (R37, R91, R92): what a taken branch leaves of its group, and what a misaligned one does. -/

namespace Sys2Proof.Machine

/-- The thread of a lane that branches: at its target, marked when that lies at or below the branch (R37). -/
def branched (x : Issue) (target : Nat → W64) (k : Nat) (y : Thread) : Thread :=
  { y with pc := target k, mark := decide ((target k).toNat ≤ x.pc.toNat) }

@[simp] theorem branched_pc (x : Issue) (target : Nat → W64) (k : Nat) (y : Thread) : (branched x target k y).pc = target k := rfl
@[simp] theorem branched_stat (x : Issue) (target : Nat → W64) (k : Nat) (y : Thread) : (branched x target k y).stat = y.stat := rfl
@[simp] theorem branched_preds (x : Issue) (target : Nat → W64) (k : Nat) (y : Thread) :
    (branched x target k y).preds = y.preds := rfl
@[simp] theorem branched_mark (x : Issue) (target : Nat → W64) (k : Nat) (y : Thread) :
    (branched x target k y).mark = decide ((target k).toNat ≤ x.pc.toNat) := rfl

/-- The group of a call's lanes once each holds its return address; of a branch, the group itself (R92). -/
def Group.linked (g : Group) (link : Bool) (x : Issue) (act : List Nat) : Group :=
  if link then act.foldl (fun g k => setDst x.f g k 2 (x.pc + insLen x.f).toNat) g else g

/-- One lane of a taken branch. -/
def branchStep (link : Bool) (x : Issue) (target : Nat → W64) (g : Group) (k : Nat) : Group :=
  let h := g.linked link x [k]
  h.setThr k (branched x target k (h.thr k))

theorem setDst_two (f : Fields) (g : Group) (k : Nat) (v : W64) : setDst f g k 2 v.toNat = g.setV64 k f.dst.toNat v := by
  simp [setDst]

theorem branchLane_aligned (link : Bool) (x : Issue) (target : Nat → W64) (u : State) (k : Nat) (h : (target k).toNat % 8 = 0) :
    branchLane link x target u k = .ok (setGrp u x.core x.gslot (branchStep link x target (grp u x.core x.gslot) k)) := by
  unfold branchLane
  rw [if_neg (not_not.mpr h)]
  simp only [branchStep, Group.linked, List.foldl_cons, List.foldl_nil, setDst_two]
  rfl

theorem branchLane_misaligned (link : Bool) (x : Issue) (target : Nat → W64) (u : State) (k : Nat) (h : (target k).toNat % 8 ≠ 0) :
    branchLane link x target u k = .fault 3 (some (target k)) := by
  unfold branchLane
  rw [if_pos h]

/-! ## The lanes together -/

theorem setV_setThr (g : Group) (a k r : Nat) (y : Thread) (v : W32) : (g.setThr a y).setV k r v = (g.setV k r v).setThr a y := by
  unfold Group.setV; split <;> rfl

theorem setDst_setThr (f : Fields) (g : Group) (a k n v : Nat) (y : Thread) :
    setDst f (g.setThr a y) k n v = (setDst f g k n v).setThr a y := by
  unfold setDst Group.setV64
  split
  · exact setV_setThr ..
  · split
    · rfl
    · rw [setV_setThr, setV_setThr]

theorem linked_setThr (g : Group) (link : Bool) (x : Issue) (act : List Nat) (a : Nat) (y : Thread) :
    (g.setThr a y).linked link x act = (g.linked link x act).setThr a y := by
  unfold Group.linked
  split
  · exact List.foldl_hom (fun g : Group => g.setThr a y) fun g k => setDst_setThr ..
  · rfl

theorem linked_cons (g : Group) (link : Bool) (x : Issue) (a : Nat) (l : List Nat) :
    g.linked link x (a :: l) = (g.linked link x [a]).linked link x l := by
  cases link <;> rfl

theorem linked_vecOnly (link : Bool) (x : Issue) : ∀ (act : List Nat) (g : Group), g.VecOnly (g.linked link x act)
  | [], g => by cases link <;> exact Group.VecOnly.refl g
  | a :: l, g => by
    have one : g.VecOnly (g.linked link x [a]) := by
      cases link
      · exact Group.VecOnly.refl g
      · exact setDst_vecOnly x.f g a 2 _
    rw [linked_cons]
    exact one.trans (linked_vecOnly link x l _)

/-- The links of lanes that branch one by one may be written first, all together. -/
theorem foldl_branchStep (link : Bool) (x : Issue) (target : Nat → W64) : ∀ (act : List Nat) (g : Group),
    act.foldl (branchStep link x target) g = (g.linked link x act).mapThr act (branched x target)
  | [], g => by cases link <;> rfl
  | a :: l, g => by
    have thr : ((g.linked link x [a]).linked link x l).thr a = (g.linked link x [a]).thr a := by
      rw [Group.thr, (linked_vecOnly ..).threads]; rfl
    rw [List.foldl_cons, foldl_branchStep link x target l, branchStep, linked_setThr, linked_cons g link x a l]
    simp only [Group.mapThr, List.foldl_cons, thr]

/-- The registers of a group whose lanes hold their return address. -/
theorem v_linked (g : Group) (link : Bool) (x : Issue) (act : List Nat) (nd : act.Nodup)
    (hd : link = true → x.f.dst.toNat ≠ 255 → x.f.dst.toNat + 2 ≤ 255) (k j : Nat) (hj : j < 256) :
    (g.linked link x act).v k j =
      if link = true ∧ k ∈ act ∧ x.f.dst.toNat ≠ 255 ∧ x.f.dst.toNat ≤ j ∧ j < x.f.dst.toNat + 2
      then BitVec.ofNat 32 ((x.pc + insLen x.f).toNat / 2 ^ (32 * (j - x.f.dst.toNat))) else g.v k j := by
  cases link
  · simp [Group.linked]
  · have key := foldl_setDst x.f 2 (fun _ _ => (x.pc + insLen x.f).toNat) (.inr rfl) (hd rfl) (fun _ _ _ _ => rfl) act g nd
    simpa only [Group.linked, if_true, true_and] using key.2 k j hj

/-- The two words of a 64-bit value make it up. -/
theorem words_append (a : W64) : (BitVec.ofNat 32 (a.toNat / 2 ^ 32) ++ BitVec.ofNat 32 a.toNat : W64) = a := by
  apply BitVec.eq_of_toNat_eq
  have := a.isLt
  rw [BitVec.toNat_append, BitVec.toNat_ofNat, BitVec.toNat_ofNat, ← Nat.shiftLeft_add_eq_or_of_lt (Nat.mod_lt _ (by decide)),
    Nat.shiftLeft_eq]
  omega

theorem v64_linked (g : Group) (x : Issue) (act : List Nat) (nd : act.Nodup) (hd : x.f.dst.toNat + 2 ≤ 255) {k : Nat} (hk : k ∈ act) :
    (g.linked true x act).v64 k x.f.dst.toNat = x.pc + insLen x.f := by
  have hne : x.f.dst.toNat ≠ 255 := by omega
  have v := v_linked g true x act nd (fun _ _ => hd) k
  rw [Group.v64, if_neg hne, v _ x.f.dst.isLt, v _ (by omega), if_pos ⟨rfl, hk, hne, by omega, by omega⟩,
    if_pos ⟨rfl, hk, hne, by omega, by omega⟩]
  simpa using words_append (x.pc + insLen x.f)

/-! ## What a branch does -/

section Branch

variable {sh : Shape} {link : Bool} {x : Issue} {s : State} {set act : List Nat} {target : Nat → W64}

/-- A branch whose targets are aligned: its group moves on, takes the links and goes to the targets. -/
theorem branch_next (h : Issues sh true x s set act) (aligned : ∀ k ∈ act, (target k).toNat % 8 = 0) :
    ∃ t, issueMem sh true true x s (branchLane link x target) = .next t ∧ OnlyGroup x s t ∧
      grp t x.core x.gslot =
        ((grp (advance s x set act) x.core x.gslot).linked link x act).mapThr act (branched x target) := by
  obtain ⟨none, group, only⟩ := runLanes_ok x (branchLane link x target) (branchStep link x target) act (advance s x set act)
    (fun k hk u => branchLane_aligned link x target u k (aligned k hk))
  refine ⟨_, issue_next h true rfl _, ?_⟩
  simp only [laneBody, none, List.isEmpty_nil, if_true]
  exact ⟨only s (advance_onlyGroup s x set act), by rw [group, foldl_branchStep]⟩

/-- R91, R92: aligned targets are taken; the link is written, the mark set for a target at or below the branch, and nothing else of
the group changes. -/
theorem branch_taken (h : Issues sh true x s set act) (hd : link = true → sh.d = .v 2)
    (aligned : ∀ k ∈ act, (target k).toNat % 8 = 0) :
    ∃ t, issueMem sh true true x s (branchLane link x target) = .next t ∧ OnlyGroup x s t ∧ OnlyRegs x s t ∧ UniKept x s t ∧
      PredKept x [] none s t ∧ VecKept x act (if link then x.f.dst.toNat else 255) 2 s t ∧
      (∀ k < 32, ((grp t x.core x.gslot).thr k).stat = ((grp s x.core x.gslot).thr k).stat ∧
        ((grp t x.core x.gslot).thr k).pc =
          if k ∈ act then target k else if k ∈ set then x.pc + insLen x.f else ((grp s x.core x.gslot).thr k).pc) ∧
      ∀ k ∈ act, (((grp t x.core x.gslot).thr k).mark = decide ((target k).toNat ≤ x.pc.toNat)) ∧
        (link = true → x.f.dst.toNat ≠ 255 → (grp t x.core x.gslot).v64 k x.f.dst.toNat = x.pc + insLen x.f) := by
  obtain ⟨t, next, only, group⟩ := branch_next h aligned (link := link)
  have dst : link = true → x.f.dst.toNat ≠ 255 → x.f.dst.toNat + 2 ≤ 255 := fun hl => h.dst_vec_le (hd hl)
  have vecs := linked_vecOnly link x act (grp (advance s x set act) x.core x.gslot)
  have thr : ∀ k, (grp t x.core x.gslot).thr k =
      if k ∈ act then branched x target k ((grp (advance s x set act) x.core x.gslot).thr k)
      else (grp (advance s x set act) x.core x.gslot).thr k := fun k => by
    rw [group, thr_mapThr _ _ _ _ h.act_nodup (fun a ha => by rw [vecs.threads]; exact h.advance_listed (h.act_mem_set ha))]
    simp only [Group.thr, vecs.threads]
  refine ⟨t, next, only, ?_, ?_, fun k j hk _ _ => ?_, fun k j _ hj hno => ?_, fun k hk => ?_, fun k hk => ⟨?_, fun hl hne => ?_⟩⟩
  · simp only [OnlyRegs, group]
    rw [mapThr_only, vecs, advance_group]
  · rw [UniKept, group, mapThr_ureg, vecs.ureg, advance_ureg]
  · rw [← h.advance_p hk, Group.p, Group.p, thr k]
    split
    · rw [branched_preds]
    · rfl
  · rw [group, mapThr_v, v_linked _ _ _ _ h.act_nodup dst k j hj, advance_v, if_neg]
    rintro ⟨hl, hr⟩
    exact hno (by rwa [if_pos hl])
  · obtain ⟨pc, stat, -⟩ := h.advance_thr hk
    rw [thr k]
    split
    · exact ⟨(branched_stat x target k _).trans stat, branched_pc ..⟩
    · exact ⟨stat, pc⟩
  · rw [thr k, if_pos hk, branched_mark]
  · subst hl
    rw [← v64_linked (grp (advance s x set act) x.core x.gslot) x act h.act_nodup (dst rfl hne) hk, group, Group.v64, Group.v64,
      mapThr_v, mapThr_v]

/-- R91: targets that are no multiple of 8 raise MISALIGNED for the acting lanes, which stand at the branch, and write no link. -/
theorem branch_misaligned (h : Issues sh true x s set act) (hne : act ≠ []) (mis : ∀ k ∈ act, (target k).toNat % 8 ≠ 0) :
    ∃ t, issueMem sh true true x s (branchLane link x target) = .next t ∧ (grp t x.core x.gslot).stopped = true ∧
      (grp t x.core x.gslot).vreg = (grp s x.core x.gslot).vreg ∧ (∀ k ∈ act, ((grp t x.core x.gslot).thr k).pc = x.pc) ∧
      ∃ r : FaultRec, (core t x.core).faults = (core s x.core).faults ++ [r] ∧ r.kind = 3 ∧ r.mask = maskOf act := by
  have faults := runLanes_fault (branchLane link x target) 3 (fun k => some (target k)) act (advance s x set act)
    (fun k hk u => branchLane_misaligned link x target u k (mis k hk))
  have lanes : (act.map (fun k => ((k, 3, some (target k)) : LaneFault))).map Prod.fst = act := by
    rw [List.map_map]; exact List.map_id' act
  have nonempty : act.map (fun k => ((k, 3, some (target k)) : LaneFault)) ≠ [] := by simpa using hne
  have kind := faultOf_kind 3 _ nonempty (by simp)
  refine ⟨_, issue_next h true rfl _, ?_⟩
  simp only [laneBody, faults, lanes, List.isEmpty_iff, nonempty, if_false]
  obtain ⟨group, r, rec, rkind, rmask⟩ := issueFaults_effect (setGrp (advance s x set act) x.core x.gslot
    (restoreLanes (grp s x.core x.gslot) (grp (advance s x set act) x.core x.gslot) act)) x (grp s x.core x.gslot) _ 0 nonempty
  rw [grp_setGrp_same] at group
  rw [core_setGrp_same] at rec
  refine ⟨congrArg Group.stopped group, (congrArg Group.vreg group).trans ?_, fun k hk => ?_, r, ?_, by rw [rkind, kind],
    by rw [rmask, lanes]⟩
  · exact (restoreLanes_vreg _ _ act).trans (advance_vreg s x set act)
  · rw [Group.thr, congrArg Group.threads group]
    exact (congrArg Thread.pc (thr_restoreLanes _ h.act_nodup (fun a ha => h.advance_listed (h.act_mem_set ha)) hk)).trans
      (h.lane (h.act_mem_set hk)).2.2
  · rw [rec, Core.setGrp, (advance_onlyGroup s x set act).rest]

end Branch

/-- The near target of BRA and CALL counts in units of 8 B (R91). -/
theorem braTarget_eq (x : Issue) : braTarget x = match x.f.long with
    | some i => i
    | none => x.pc + 8 * (x.f.srca ++ x.f.srcb ++ x.f.srcc : BitVec 24).signExtend 64 := by
  unfold braTarget
  cases x.f.long with
  | some i => rfl
  | none =>
    simp only [BitVec.shiftLeft_eq_mul_twoPow, BitVec.mul_comm _ (BitVec.twoPow 64 3)]
    rfl

end Sys2Proof.Machine
end

section
/-! SUPPORT. YIELD and EXIT (R33, R37, R45, R93): what the barriers and the release of a slot leave. -/

namespace Sys2Proof.Machine

/-! ## Barriers after an exit (R45) -/

/-- What the barriers may make of a group: threads that wait go on and the watchdog's count changes, but who has exited has exited. -/
structure Group.Settled (g h : Group) : Prop where
  only  : h = { g with threads := h.threads, watch := h.watch }
  exits : ∀ k, (g.thr k).stat = .exited → (h.thr k).stat = .exited

theorem Group.Settled.trans {g h i : Group} (a : g.Settled h) (b : h.Settled i) : g.Settled i :=
  ⟨by rw [b.only, a.only], fun k e => b.exits k (a.exits k e)⟩

theorem settled_watch (g : Group) (w : Option Watch) : g.Settled { g with watch := w } := ⟨rfl, fun _ e => e⟩

theorem settled_refl (g : Group) : g.Settled g := ⟨rfl, fun _ e => e⟩

theorem settled_wake (g : Group) (p : ThStat) (hp : p ≠ .exited) : g.Settled (g.wake p) := by
  refine ⟨rfl, fun k e => ?_⟩
  rw [Group.thr] at e
  by_cases hk : k < g.threads.length
  · rw [Group.thr, Group.wake, nthD_map Thread.gone _ _ _ _ hk, if_neg (by rw [e]; exact hp.symm), e]
  · rw [Group.thr, Group.wake, nthD_of_length _ _ _ (by simpa using hk)]
    rfl

/-- From `s` to `t` only the groups and team slots of core `c` change, and the groups as barriers change them. -/
structure SettledCore (c : Nat) (s t : State) : Prop where
  parts  : Touches [.cores] s t
  groups : ∀ i, (grp s c i).Settled (grp t c i)
  rest   : core t c = { core s c with groups := (core t c).groups, teams := (core t c).teams }

theorem SettledCore.refl (c : Nat) (s : State) : SettledCore c s s := ⟨Touches.refl _ _, fun _ => settled_refl _, rfl⟩

theorem SettledCore.trans {c : Nat} {s t u : State} (a : SettledCore c s t) (b : SettledCore c t u) : SettledCore c s u :=
  ⟨a.parts.trans b.parts, fun i => (a.groups i).trans (b.groups i), by rw [b.rest, a.rest]⟩

theorem settledCore_setGrp {c gs : Nat} {s : State} {g : Group} (h : (grp s c gs).Settled g) : SettledCore c s (setGrp s c gs g) := by
  refine ⟨setGrp_touches _ _ _ _, fun i => ?_, by rw [core_setGrp_same]; rfl⟩
  by_cases hi : i = gs
  · rwa [hi, grp_setGrp_same]
  · rw [grp_setGrp_ne _ _ _ _ _ hi]; exact settled_refl _

theorem core_setTm_same (s : State) (c i : Nat) (y : Team) :
    core (setTm s c i y) c = { core s c with teams := SMap.put Team.empty (core s c).teams i y } := core_setCore_same ..

@[simp] theorem grp_setTm (s : State) (c i d gs : Nat) (y : Team) : grp (setTm s c i y) d gs = grp s d gs := by
  by_cases h : d = c <;> simp [grp, setTm, core_setCore, h]

theorem settledCore_setTm (c i : Nat) (s : State) (y : Team) : SettledCore c s (setTm s c i y) :=
  ⟨setTm_touches _ _ _ _, fun gs => by rw [grp_setTm]; exact settled_refl _, by rw [core_setTm_same]⟩

theorem settledCore_foldl {c : Nat} (f : State → Nat → State) (h : ∀ s i, SettledCore c s (f s i)) : ∀ (l : List Nat) (s : State),
    SettledCore c s (l.foldl f s)
  | [], s => SettledCore.refl c s
  | a :: l, s => (h s a).trans (settledCore_foldl f h l (f s a))

theorem settleG_settled (s : State) (c gs : Nat) : SettledCore c s (settleG s c gs) := by
  unfold settleG
  dsimp only
  split
  · exact settledCore_setGrp ((settled_wake _ _ (by decide)).trans (settled_watch ..))
  · exact settledCore_setGrp (settled_watch ..)

theorem settleT_settled (s : State) (c ts : Nat) : SettledCore c s (settleT s c ts) := by
  unfold settleT
  dsimp only
  split
  · exact (settledCore_foldl _ (fun u i => settledCore_setGrp (settled_wake _ _ (by decide))) _ s).trans (settledCore_setTm ..)
  · exact settledCore_setTm ..

theorem settle_settled (s : State) (c gs : Nat) : SettledCore c s (settle s c gs) :=
  (settleG_settled s c gs).trans (settleT_settled ..)

/-! ## The release of a slot (R33) -/

theorem setStream_touches (s : State) (k : Nat) (y : Stream) : Touches [.streams] s (setStream s k y) := touches_streams s _

theorem reportGroup_touches (s : State) (c id : Nat) : Touches [.streams] s (reportGroup s c id) := by
  unfold reportGroup
  refine Touches.foldl _ (fun s k => ?_) _ s
  dsimp only
  split
  · exact setStream_touches _ _ _
  · exact Touches.refl _ s

theorem reapLaunch_touches (s : State) (l : Launch) : Touches [.box] s (reapLaunch s l) := by
  unfold reapLaunch
  split
  · exact Touches.refl _ s
  · exact (touches_box s _).trans (endCmd_touches _ _ _ _ _)

theorem updLaunch_touches (s : State) (q i : Nat) (f : Launch → Launch) : Touches [.box] s (updLaunch s q i f) := touches_box s _

/-- A team's release empties its slot at most, and changes the Box Office besides. -/
theorem releaseTeam_effect (s : State) (c ts : Nat) : ∃ u, (u = s ∨ u = setTm s c ts Team.empty) ∧ Touches [.box] u (releaseTeam s c ts) := by
  unfold releaseTeam
  dsimp only
  split
  · exact ⟨s, .inl rfl, Touches.refl _ s⟩
  · refine ⟨_, .inr rfl, ?_⟩
    split
    · exact Touches.refl _ _
    · split
      · exact reapLaunch_touches _ _
      · split
        · exact updLaunch_touches _ _ _ _
        · exact (updLaunch_touches _ _ _ _).trans ((touches_box _ _).trans (endCmd_touches _ _ _ _ _))

theorem releaseTeam_touches (s : State) (c ts : Nat) : Touches [.cores, .box] s (releaseTeam s c ts) := by
  obtain ⟨u, rfl | rfl, h⟩ := releaseTeam_effect s c ts
  · exact h.mono (by simp)
  · exact ((setTm_touches s c ts _).mono (by simp)).trans (h.mono (by simp))

theorem grp_releaseTeam (s : State) (c ts d gs : Nat) : grp (releaseTeam s c ts) d gs = grp s d gs := by
  obtain ⟨u, hu, h⟩ := releaseTeam_effect s c ts
  rw [grp_congr (h .cores (by decide))]
  rcases hu with rfl | rfl
  · rfl
  · exact grp_setTm ..

theorem freeGroup_touches (s : State) (c gs : Nat) : Touches [.cores, .box, .streams] s (freeGroup s c gs) := by
  unfold freeGroup
  exact ((((reportGroup_touches s c _).mono (by simp)).trans ((setCore_touches _ _ _).mono (by simp))).trans
    ((setTm_touches _ _ _ _).mono (by simp))).trans ((releaseTeam_touches _ _ _).mono (by simp))

theorem grp_freeGroup (s : State) (c gs : Nat) : grp (freeGroup s c gs) c gs = Group.empty := by
  unfold freeGroup
  rw [grp_releaseTeam, grp_setTm, grp, core_setCore_same]
  simp only [SMap.get_put_same]

theorem release_waits {s : State} {c gs : Nat} (h : groupDone s c gs = false) : release s c gs = s := by
  rw [release, h]; rfl

/-- A group that is done leaves its slot empty. -/
theorem release_done {s : State} {c gs : Nat} (h : groupDone s c gs = true) :
    Touches [.cores, .box, .streams, .regs] s (release s c gs) ∧ grp (release s c gs) c gs = Group.empty := by
  rw [release, h, if_neg (by simp)]
  split
  · exact ⟨((setReg_touches _ _ _ _).mono (by simp)).trans ((freeGroup_touches _ _ _).mono (by simp)), grp_freeGroup ..⟩
  · exact ⟨(freeGroup_touches _ _ _).mono (by simp), grp_freeGroup ..⟩

theorem release_touches (s : State) (c gs : Nat) : Touches [.cores, .box, .streams, .regs] s (release s c gs) := by
  cases h : groupDone s c gs
  · rw [release_waits h]; exact Touches.refl _ s
  · exact (release_done h).1

/-- The engine commands of a group are counted from the engines' queues and its own. -/
theorem mxPending_congr {s t : State} {c gs : Nat} (q : (core t c).mxq = (core s c).mxq) (r : (core t c).mxRuns = (core s c).mxRuns)
    (b : (grp t c gs).mxBack = (grp s c gs).mxBack) : mxPending (core t c) gs = mxPending (core s c) gs := by
  unfold grp at b
  rw [mxPending, mxPending, q, r, b]
theorem tmPending_congr {j k : Core} {gs : Nat} (q : k.tmq = j.tmq) (r : k.tmRun = j.tmRun) : tmPending k gs = tmPending j gs := by
  rw [tmPending, tmPending, q, r]

/-! ## EXIT (R93) -/

/-- The state in which the acting lanes have exited and the barriers are settled. -/
def exited (x : Issue) (s : State) (set act : List Nat) : State :=
  settle (setGrp (advance s x set act) x.core x.gslot ((grp (advance s x set act) x.core x.gslot).park act .exited)) x.core x.gslot

section Exit

variable {x : Issue} {s : State} {set act : List Nat}

/-- A group whose set issues is there and has not faulted. -/
theorem gate_group (h : gate s x = some set) : (grp s x.core x.gslot).occ = true ∧ (grp s x.core x.gslot).stopped = false := by
  unfold gate at h
  dsimp only at h
  rw [Option.ite_none_right_eq_some] at h
  obtain ⟨conds, -⟩ := h
  simp only [Bool.and_eq_true, Bool.not_eq_true'] at conds
  obtain ⟨⟨⟨⟨⟨⟨-, occ⟩, running⟩, -⟩, -⟩, -⟩, -⟩ := conds
  exact ⟨occ, running⟩

theorem IssuesBad.actingOf_eq {sh : Shape} {ok : Bool} {bad : Group → List Nat → List Nat} (h : IssuesBad sh ok bad x s set act) :
    actingOf s x = act := by
  rw [actingOf, h.gate]; exact h.acts.symm

/-- An instruction that is not ready waits. -/
theorem issue_notReady {sh : Shape} {ok : Bool} (h : Issues sh ok x s set act) (body : State → List Nat → List Nat → State) :
    issue sh ok false x s body = .next s := by
  have e : pre sh ok false (poisonedReads sh x.f) x s = .wait := by
    unfold pre
    rw [h.gate]
    dsimp only
    rw [h.legal, h.own, Bool.and_false]
    rfl
  unfold issue issueBad
  rw [e]

/-- EXIT is ready when no buffered store, access or remote store of an acting lane is left (assumption 36). -/
theorem lanesDone_of (hact : actingOf s x = act) (stores : ∀ e ∈ (grp s x.core x.gslot).sb, e.th ∉ act)
    (accs : ∀ a ∈ (grp s x.core x.gslot).accs, ∀ k ∈ act, a.mask.testBit k = false)
    (reqs : ∀ r ∈ groupReqs s x.core x.gslot, ∀ k ∈ act, r.owner ≠ .store x.core x.gslot k) : lanesDone s x = true := by
  simp only [lanesDone, hact, Bool.and_eq_true, List.all_eq_true]
  refine ⟨⟨fun e he => ?_, fun a ha k hk => ?_⟩, fun r hr => ?_⟩
  · simpa using stores e he
  · simpa using accs a ha k hk
  · have own := (List.mem_filter.mp hr).2
    split at own
    · next c g k e =>
      obtain ⟨rfl, rfl⟩ : c = x.core ∧ g = x.gslot := by simpa using own
      simp only [e, Bool.not_eq_true', List.contains_eq_mem, decide_eq_false_iff_not]
      exact fun hk => reqs r hr k hk e
    · next e => simp only [e]
    · cases own

theorem exit_next (h : Issues shNone true x s set act) (hne : act ≠ []) (ready : lanesDone s x = true) :
    exec (.exit_ x) s = .next (release (exited x s set act) x.core x.gslot) := by
  have e := issue_next h _ ready fun s _ act =>
    if act.isEmpty then s else
    release (settle (setGrp s x.core x.gslot ((grp s x.core x.gslot).park act .exited)) x.core x.gslot) x.core x.gslot
  rwa [if_neg (by simpa using hne)] at e

/-- The group once the acting lanes have exited, but for what the barriers change. -/
theorem exited_group (x : Issue) (s : State) (set act : List Nat) :
    ((grp (advance s x set act) x.core x.gslot).park act .exited).Settled (grp (exited x s set act) x.core x.gslot) := by
  have key := (settle_settled (setGrp (advance s x set act) x.core x.gslot ((grp (advance s x set act) x.core x.gslot).park act .exited))
    x.core x.gslot).groups x.gslot
  rwa [grp_setGrp_same] at key

theorem exited_touches (x : Issue) (s : State) (set act : List Nat) : Touches [.cores, .ctr] s (exited x s set act) :=
  ((advance_onlyGroup s x set act).parts.trans ((setGrp_touches _ _ _ _).mono (by simp))).trans
    ((settle_settled ..).parts.mono (by simp))

theorem exited_stat (h : Issues shNone true x s set act) {k : Nat} (hk : k ∈ act ∨ ((grp s x.core x.gslot).thr k).stat = .exited) :
    ((grp (exited x s set act) x.core x.gslot).thr k).stat = .exited := by
  refine (exited_group x s set act).exits k ?_
  rw [park_eq_mapThr, thr_mapThr _ _ _ _ h.act_nodup fun a ha => h.advance_listed (h.act_mem_set ha)]
  split
  · rfl
  · next hno =>
    by_cases h32 : 32 ≤ k
    · rw [advance_thr_gone s x set act (gate_set h.gate) k h32]; rfl
    · rw [(h.advance_thr (by omega)).2.1]
      exact hk.resolve_left hno

/-- The last exit of a group whose engine commands are complete leaves it done (R33). -/
theorem exited_done (h : Issues shNone true x s set act)
    (last : ∀ k, k < (grp s x.core x.gslot).threads.length → k ∈ act ∨ ((grp s x.core x.gslot).thr k).stat = .exited)
    (mx : mxPending (core s x.core) x.gslot = 0) (tmz : tmPending (core s x.core) x.gslot = 0) :
    groupDone (exited x s set act) x.core x.gslot = true := by
  obtain ⟨occ, running⟩ := gate_group h.gate
  have group : grp (exited x s set act) x.core x.gslot =
      { grp s x.core x.gslot with
        threads := (grp (exited x s set act) x.core x.gslot).threads, watch := (grp (exited x s set act) x.core x.gslot).watch
        stepReq := none, passBp := (grp (exited x s set act) x.core x.gslot).passBp
        stepping := (grp (exited x s set act) x.core x.gslot).stepping, issues := (grp s x.core x.gslot).issues + 1 } := by
    rw [(exited_group x s set act).only, park_eq_mapThr, mapThr_only, advance_group]
  have rest : core (exited x s set act) x.core =
      { core s x.core with
        groups := (core (exited x s set act) x.core).groups, teams := (core (exited x s set act) x.core).teams
        lastIss := (core (exited x s set act) x.core).lastIss } := by
    rw [exited, (settle_settled ..).rest, core_setGrp_same, Core.setGrp, (advance_onlyGroup s x set act).rest]
  have exits : ∀ k, ((grp (exited x s set act) x.core x.gslot).thr k).stat = .exited := fun k => by
    refine exited_stat h ?_
    by_cases hk : k < (grp s x.core x.gslot).threads.length
    · exact last k hk
    · rw [Group.thr, nthD_of_length _ _ _ (by omega)]
      exact .inr rfl
  have occ' := congrArg Group.occ group
  have stopped' := congrArg Group.stopped group
  have back := congrArg Group.mxBack group
  have mxq := congrArg Core.mxq rest
  have mxRuns := congrArg Core.mxRuns rest
  have tmq := congrArg Core.tmq rest
  have tmRun := congrArg Core.tmRun rest
  dsimp only at occ' stopped' back mxq mxRuns tmq tmRun
  simp only [groupDone, (all_exited_iff _).mpr exits, mxPending_congr mxq mxRuns back, mx, tmPending_congr tmq tmRun, tmz, occ', occ,
    stopped', running, beq_self_eq_true, Bool.and_true, Bool.not_false]

end Exit

/-! ## YIELD (R37) -/

/-- YIELD marks its set and moves on; nothing else of its group changes. -/
theorem yield_marks {x : Issue} {s : State} {set act : List Nat} (h : Issues shNone true x s set act) (hne : act ≠ []) :
    ∃ t, exec (.yield x) s = .next t ∧ OnlyGroup x s t ∧ OnlyRegs x s t ∧ MovesOn x set s t ∧ VecKept x [] 255 0 s t ∧
      UniKept x s t ∧ PredKept x [] none s t ∧ ∀ k ∈ set, ((grp t x.core x.gslot).thr k).mark = true := by
  have next : exec (.yield x) s = .next (setGrp (advance s x set act) x.core x.gslot
      ((grp (advance s x set act) x.core x.gslot).mapThr set (fun _ y => { y with mark := true }))) := by
    have e := issue_next h true rfl fun s set act =>
      if act.isEmpty then s else
      setGrp s x.core x.gslot (set.foldl (fun g t => g.setThr t { g.thr t with mark := true }) (grp s x.core x.gslot))
    rwa [if_neg (by simpa using hne)] at e
  have thr := fun k => thr_mapThr (fun _ y => { y with mark := true }) set (grp (advance s x set act) x.core x.gslot) k h.set_nodup
    (fun a ha => h.advance_listed ha)
  have keeps : ∀ (α : Type) (p : Thread → α), (∀ y, p { y with mark := true } = p y) → ∀ k,
      p (((grp (advance s x set act) x.core x.gslot).mapThr set (fun _ y => { y with mark := true })).thr k) =
        p ((grp (advance s x set act) x.core x.gslot).thr k) := fun α p hp k => by
    rw [thr]; split
    · exact hp _
    · rfl
  refine ⟨_, next, setGrp_onlyGroup (advance_onlyGroup s x set act) _, ?_, fun k hk => ?_, fun k j _ _ _ => ?_, ?_,
    fun k j hk _ _ => ?_, fun k hk => ?_⟩
  · simp only [OnlyRegs, grp_setGrp_same]
    rw [mapThr_only, advance_group]
  · obtain ⟨pc, stat, -⟩ := h.advance_thr hk
    rw [grp_setGrp_same]
    exact ⟨(keeps _ Thread.pc (fun _ => rfl) k).trans pc, (keeps _ Thread.stat (fun _ => rfl) k).trans stat⟩
  · rw [grp_setGrp_same, mapThr_v, advance_v]
  · rw [UniKept, grp_setGrp_same, mapThr_ureg, advance_ureg]
  · rw [grp_setGrp_same, ← h.advance_p hk]
    exact keeps _ (fun y => y.preds.getLsbD j) (fun _ => rfl) k
  · rw [grp_setGrp_same, thr, if_pos hk]

/-- Settles O16: the five transfers share `branchLane`; YIELD and EXIT change threads alone, and the last exit leaves the group done. -/
theorem controlResults : Obligations.ControlResults := by
  intro x s set act g near far
  have near_eq : braTarget x = near := braTarget_eq x
  refine ⟨fun e he => ?_, fun h hne => ⟨yield_marks h hne, fun busy => ?_, fun stores accs reqs => ?_⟩⟩
  · simp only [List.mem_cons, List.not_mem_nil, or_false] at he
    rcases he with rfl | rfl | rfl | rfl | rfl <;> intro h
    · rw [← near_eq]
      exact ⟨branch_taken h (by simp), branch_misaligned h⟩
    · exact ⟨branch_taken h (by simp), branch_misaligned h⟩
    · rw [← near_eq]
      exact ⟨branch_taken h (fun _ => rfl), branch_misaligned h⟩
    · exact ⟨branch_taken h (fun _ => rfl), branch_misaligned h⟩
    · exact ⟨branch_taken h (by simp), branch_misaligned h⟩
  · change execExit x s = .next s
    rw [execExit, busy]
    exact issue_notReady h _
  · refine ⟨_, exit_next h hne (lanesDone_of h.actingOf_eq stores accs reqs), ?_, fun k hk => ?_, fun last mx tmz => ?_⟩
    · exact ((exited_touches x s set act).mono (by simp)).trans ((release_touches _ _ _).mono (by simp))
    · cases done : groupDone (exited x s set act) x.core x.gslot
      · rw [release_waits done]; exact exited_stat h (.inl hk)
      · rw [(release_done done).2]; rfl
    · rw [(release_done (exited_done h last mx tmz)).2]; rfl

end Sys2Proof.Machine
end

section
/-! SUPPORT. Binary32 and binary64 arithmetic (R138, R139): each form writes one rounded result per lane. -/

namespace Sys2Proof.Machine

/-- Word `i` of a value of `w` bits is what a write to register DST + `i` keeps of it. -/
theorem extractLsb'_ofNat_word (w v i : Nat) (hi : 32 * i + 32 ≤ w) :
    (BitVec.ofNat w v).extractLsb' (32 * i) 32 = BitVec.ofNat 32 (v / 2 ^ (32 * i)) := by
  refine BitVec.eq_of_getLsbD_eq fun j hj => ?_
  have inside : 32 * i + j < w := by omega
  rw [BitVec.getLsbD_extractLsb', BitVec.getLsbD_ofNat, BitVec.getLsbD_ofNat, Nat.testBit_div_two_pow, Nat.add_comm j]
  simp [inside, hj]

/-- What a floating-point form answers: each acting lane's DST takes the `n` words of its value, and the set moves on. -/
def WritesWords (n : Nat) (val : Group → Nat → Nat) (x : Issue) (s : State) (set act : List Nat) (r : Res) : Prop :=
  ∃ t, r = .next t ∧ WritesVec x set act x.f.dst.toNat n s t ∧
    ∀ k ∈ act, ∀ i < n, x.f.dst.toNat ≠ 255 → (grp t x.core x.gslot).v k (x.f.dst.toNat + i) =
      (BitVec.ofNat (32 * n) (val (grp s x.core x.gslot) k)).extractLsb' (32 * i) 32

section Forms

variable {x : Issue} {s : State} {set act : List Nat} {n : Nat}

theorem issueLanes_writesWords {sh : Shape} (h : Issues sh true x s set act) (hn : n = 1 ∨ n = 2) (hd : sh.d = .v n)
    {val : Group → Nat → Nat} (own : ∀ g g' k, g.SameLane k g' → val g' k = val g k) :
    WritesWords n val x s set act (issueLanes sh true x s (fun g k => setDst x.f g k n (val g k))) := by
  obtain ⟨t, next, writes, vals⟩ := issueLanes_vec h n val hn hd own
  refine ⟨t, next, writes, fun k hk i hi hne => ?_⟩
  rw [vals k hk i hi hne, extractLsb'_ofNat_word _ _ _ (by omega)]

theorem fltBin_writesWords {lop : Lop} (h : Issues { shBin n 3 with lop := lop } true x s set act) (hn : n = 1 ∨ n = 2)
    (fn : Nat → Nat → Nat) :
    WritesWords n (fun g k => fn (srcA { shBin n 3 with lop := lop } x.f g k n) (srcB { shBin n 3 with lop := lop } x.f g k n))
      x s set act (fltBin n lop fn x s) :=
  issueLanes_writesWords h hn rfl fun _ _ _ e => by rw [srcA_congr e, srcB_congr e]

theorem fltUn_writesWords {mods : Nat} {lop : Lop} (h : Issues { shUn n mods with lop := lop } true x s set act) (hn : n = 1 ∨ n = 2)
    (fn : Nat → Nat) :
    WritesWords n (fun g k => fn (srcA { shUn n mods with lop := lop } x.f g k n)) x s set act (fltUn n mods lop fn x s) :=
  issueLanes_writesWords h hn rfl fun _ _ _ e => by rw [srcA_congr e]

theorem fltFma_writesWords (h : Issues (shTer n 3) true x s set act) (hn : n = 1 ∨ n = 2) (f : Fmt) :
    WritesWords n (fun g k => f.fma (rmode x.f) (f.dec (srcA (shTer n 3) x.f g k n)) (f.dec (srcB (shTer n 3) x.f g k n))
      (f.dec (srcC x.f g k n))) x s set act (fltFma n f x s) :=
  issueLanes_writesWords h hn rfl fun _ _ _ e => by rw [srcA_congr e, srcB_congr e, srcC_congr e]

end Forms

/-! ## NaN operands and invalid operations (R139) -/

theorem add_nan_left (f : Fmt) (m : RMode) (a : FV) : f.add m .nan a = f.nan := by cases a <;> rfl
theorem add_nan_right (f : Fmt) (m : RMode) (a : FV) : f.add m a .nan = f.nan := by cases a <;> rfl
theorem mul_nan_left (a : FV) : FV.nan.mul a = .nan := by cases a <;> rfl
theorem mul_nan_right (a : FV) : a.mul .nan = .nan := by cases a <;> rfl
theorem div_nan_left (f : Fmt) (m : RMode) (a : FV) : f.div m .nan a = f.nan := by cases a <;> rfl
theorem div_nan_right (f : Fmt) (m : RMode) (a : FV) : f.div m a .nan = f.nan := by cases a <;> rfl

theorem sqrt_negative (f : Fmt) (m : RMode) {n : Nat} (e : Int) (h : 0 < n) : f.sqrt m (.fin true n e) = f.nan := by
  rw [Fmt.sqrt, if_neg (by omega), if_pos rfl]

theorem mul_inf_zero (b c : Bool) (e : Int) : (FV.inf b).mul (.fin c 0 e) = .nan := rfl
theorem div_zero_zero (f : Fmt) (m : RMode) (b c : Bool) (d e : Int) : f.div m (.fin b 0 d) (.fin c 0 e) = f.nan := rfl

/-- Settles O3: each form writes the words of its rounded result; the NaN rules read off the operations' first cases. -/
theorem floatResults : Obligations.FloatResults := by
  refine ⟨?forms, fun f m a => ?nans⟩
  case forms =>
    intro x s set act m e he
    simp only [List.mem_cons, List.not_mem_nil, or_false] at he
    rcases he with rfl | rfl | rfl | rfl | rfl | rfl | rfl | rfl | rfl | rfl <;> intro h
    · exact fltBin_writesWords h (.inl rfl) (fun a b => binary32.add m (binary32.dec a) (binary32.dec b))
    · exact fltBin_writesWords h (.inl rfl) (fun a b => binary32.mul m (binary32.dec a) (binary32.dec b))
    · exact fltFma_writesWords h (.inl rfl) binary32
    · exact fltBin_writesWords h (.inl rfl) (fun a b => binary32.div m (binary32.dec a) (binary32.dec b))
    · exact fltUn_writesWords h (.inl rfl) (fun a => binary32.sqrt m (binary32.dec a))
    · exact fltBin_writesWords h (.inr rfl) (fun a b => binary64.add m (binary64.dec a) (binary64.dec b))
    · exact fltBin_writesWords h (.inr rfl) (fun a b => binary64.mul m (binary64.dec a) (binary64.dec b))
    · exact fltFma_writesWords h (.inr rfl) binary64
    · exact fltBin_writesWords h (.inr rfl) (fun a b => binary64.div m (binary64.dec a) (binary64.dec b))
    · exact fltUn_writesWords h (.inr rfl) (fun a => binary64.sqrt m (binary64.dec a))
  case nans =>
    refine ⟨add_nan_left f m a, add_nan_right f m a, ?_, ?_, div_nan_left f m a, div_nan_right f m a, rfl,
      fun n e => sqrt_negative f m e, rfl, fun b c e => ⟨?_, div_zero_zero f m b c e e, rfl⟩⟩
    · rw [mul_nan_left]; rfl
    · rw [mul_nan_right]; rfl
    · rw [mul_inf_zero]; rfl

end Sys2Proof.Machine
end

section
/-! SUPPORT. Order of floating-point values (R126, R140): values compare as their encodings do, taken as sign and magnitude. -/

namespace Sys2Proof.Machine

/-! ## Sign, magnitude and value of an encoding -/

/-- The encoding without its sign. -/
def Fmt.mag (f : Fmt) (x : Nat) : Nat := x % 2 ^ (f.eb + f.mb)

/-- The sign of an encoding. -/
def Fmt.neg (f : Fmt) (x : Nat) : Bool := bit x (f.eb + f.mb)

/-- The value of a finite magnitude, counted in the format's least subnormal. -/
def Fmt.units (f : Fmt) (n : Nat) : Nat :=
  if n / 2 ^ f.mb = 0 then n % 2 ^ f.mb else (2 ^ f.mb + n % 2 ^ f.mb) * 2 ^ (n / 2 ^ f.mb - 1)

/-- Exponent of the format's least subnormal. -/
def Fmt.least (f : Fmt) : Int := 1 - (f.bias : Int) - f.mb

theorem units_zero (f : Fmt) : f.units 0 = 0 := by simp [Fmt.units]

theorem units_lt (f : Fmt) (n : Nat) : f.units n < 2 ^ f.mb * 2 ^ (n / 2 ^ f.mb) := by
  have hm := Nat.mod_lt n (Nat.two_pow_pos f.mb)
  unfold Fmt.units
  split
  · next h => simpa [h] using hm
  · next h =>
    obtain ⟨e, he⟩ := Nat.exists_eq_succ_of_ne_zero h
    have grow := Nat.mul_lt_mul_of_pos_right (show 2 ^ f.mb + n % 2 ^ f.mb < 2 ^ f.mb * 2 by omega) (Nat.two_pow_pos e)
    rwa [mul_assoc, ← pow_succ', ← Nat.succ_eq_add_one, ← he, show e = n / 2 ^ f.mb - 1 by omega] at grow

theorem le_units (f : Fmt) {n : Nat} (h : n / 2 ^ f.mb ≠ 0) : 2 ^ f.mb * 2 ^ (n / 2 ^ f.mb - 1) ≤ f.units n := by
  rw [Fmt.units, if_neg h]
  exact Nat.mul_le_mul_right _ (Nat.le_add_right ..)

/-- A larger magnitude has a larger value: by the significand at one exponent, by the exponent otherwise. -/
theorem units_strictMono (f : Fmt) : StrictMono f.units := by
  intro a b hab
  rcases (Nat.div_le_div_right (c := 2 ^ f.mb) hab.le).eq_or_lt with same | less
  · have hm : a % 2 ^ f.mb < b % 2 ^ f.mb := by
      have ha := Nat.div_add_mod a (2 ^ f.mb)
      have hb := Nat.div_add_mod b (2 ^ f.mb)
      rw [same] at ha
      omega
    unfold Fmt.units
    rw [same]
    split
    · exact hm
    · exact Nat.mul_lt_mul_of_pos_right (by omega) (Nat.two_pow_pos _)
  · calc f.units a < 2 ^ f.mb * 2 ^ (a / 2 ^ f.mb) := units_lt f a
      _ ≤ 2 ^ f.mb * 2 ^ (b / 2 ^ f.mb - 1) := Nat.mul_le_mul_left _ (Nat.pow_le_pow_right (by decide) (by omega))
      _ ≤ f.units b := le_units f (Nat.ne_zero_of_lt less)

/-! ## Decoding (R126) -/

/-- What an encoding of magnitude `n` and sign `s` decodes to, in a format with infinities. -/
inductive Decodes (f : Fmt) (s : Bool) (n : Nat) : FV → Prop
  | nan (h : f.infBits < n) : Decodes f s n .nan
  | inf (h : n = f.infBits) : Decodes f s n (.inf s)
  | fin (h : n < f.infBits) (m : Nat) (e : Int) (low : f.least ≤ e) (value : m * 2 ^ (e - f.least).toNat = f.units n) :
      Decodes f s n (.fin s m e)

theorem dec_decodes {f : Fmt} (ieee : f.spec = 0) (x : Nat) : Decodes f (f.neg x) (f.mag x) (f.dec x) := by
  have sig : x % 2 ^ f.mb = f.mag x % 2 ^ f.mb := by
    rw [Fmt.mag, Nat.mod_mod_of_dvd _ (pow_dvd_pow 2 (Nat.le_add_left ..))]
  have exp : x / 2 ^ f.mb % 2 ^ f.eb = f.mag x / 2 ^ f.mb := by
    rw [Fmt.mag, Nat.add_comm, pow_add, Nat.mod_mul_right_div_self]
  have hexp : f.mag x / 2 ^ f.mb < 2 ^ f.eb := exp ▸ Nat.mod_lt _ (Nat.two_pow_pos _)
  have hsig := Nat.mod_lt (f.mag x) (Nat.two_pow_pos f.mb)
  have parts : f.mag x / 2 ^ f.mb * 2 ^ f.mb + f.mag x % 2 ^ f.mb = f.mag x := Nat.div_add_mod' ..
  unfold Fmt.dec
  dsimp only
  rw [sig, exp, show bit x (f.eb + f.mb) = f.neg x from rfl]
  by_cases top : f.mag x / 2 ^ f.mb = 2 ^ f.eb - 1
  · have hmag : f.mag x = f.infBits + f.mag x % 2 ^ f.mb := by rw [Fmt.infBits, ← top, parts]
    rw [if_pos ⟨ieee, top⟩]
    split
    · exact .inf (by omega)
    · exact .nan (by omega)
  · have finite : f.mag x < f.infBits := by
      rw [Fmt.infBits, ← Nat.div_lt_iff_lt_mul (Nat.two_pow_pos _)]
      omega
    rw [if_neg (fun h => top h.2), if_neg (fun h => top h.2.1)]
    split
    · next zero => exact .fin finite _ _ le_rfl (by simp [Fmt.least, Fmt.units, zero])
    · next normal =>
      refine .fin finite _ _ (by unfold Fmt.least; omega) ?_
      rw [Fmt.units, if_neg normal, Fmt.least]
      congr 2
      omega

theorem Decodes.nan_iff {f : Fmt} {s : Bool} {n : Nat} {v : FV} (h : Decodes f s n v) : v = .nan ↔ f.infBits < n := by
  cases h with
  | nan h => simp [h]
  | inf h => simp [h]
  | fin h => simpa using h.le

/-! ## Compare -/

theorem sgn_strictMono {g : Nat → Nat} (mono : StrictMono g) (zero : g 0 = 0) (s t : Bool) (m n : Nat) :
    sgn s (g m) < sgn t (g n) ↔ sgn s m < sgn t n := by
  have hm := mono.lt_iff_lt (a := 0) (b := m)
  have hn := mono.lt_iff_lt (a := 0) (b := n)
  have hmn := mono.lt_iff_lt (a := m) (b := n)
  have hnm := mono.lt_iff_lt (a := n) (b := m)
  rw [zero] at hm hn
  cases s <;> cases t <;> simp only [sgn, if_true, Bool.false_eq_true, if_false] <;> omega

theorem sgn_mul (s : Bool) (m k : Nat) : sgn s m * (k : Int) = sgn s (m * k) := by
  cases s <;> simp [sgn]

/-- `cmp` of finite values, in units of 2^`c` for any `c` at or below both exponents. -/
theorem cmp_fin_scaled (s t : Bool) (m n : Nat) {d e c : Int} (hd : c ≤ d) (he : c ≤ e) :
    (FV.fin s m d).cmp (.fin t n e) * 2 ^ (min d e - c).toNat = sgn s (m * 2 ^ (d - c).toNat) - sgn t (n * 2 ^ (e - c).toNat) := by
  have shift : ∀ y, min d e ≤ y → (2 : Int) ^ (y - min d e).toNat * 2 ^ (min d e - c).toNat = 2 ^ (y - c).toNat := fun y hy => by
    rw [← pow_add]
    congr 1
    omega
  simp only [FV.cmp, ne_eq, not_true_eq_false, if_false]
  rw [sub_mul, mul_assoc, mul_assoc, shift d (by omega), shift e (by omega), ← sgn_mul, ← sgn_mul]
  push_cast
  rfl

/-- `c` has the sign of the comparison of `a` with `b`. -/
structure Compares (c a b : Int) : Prop where
  lt : c < 0 ↔ a < b
  gt : 0 < c ↔ b < a

theorem Compares.eq {c a b : Int} (h : Compares c a b) : c = 0 ↔ a = b := by
  have := h.lt
  have := h.gt
  omega
theorem Compares.le {c a b : Int} (h : Compares c a b) : c ≤ 0 ↔ a ≤ b := by simpa using h.gt.not
theorem Compares.ge {c a b : Int} (h : Compares c a b) : 0 ≤ c ↔ b ≤ a := by simpa using h.lt.not

theorem Compares.swap {c a b : Int} (h : Compares c a b) : Compares (-c) b a :=
  ⟨neg_lt_zero.trans h.gt, neg_pos.trans h.lt⟩

theorem Compares.of_scaled {c u a b : Int} (unit : 0 < u) (key : c * u = a - b) : Compares c a b := by
  constructor
  · rw [← sub_neg (a := a), ← key, mul_neg_iff]
    simp [unit, unit.not_gt]
  · rw [← sub_pos (a := a), ← key, mul_pos_iff_of_pos_right unit]

/-- The larger magnitude decides by its sign. -/
theorem sgn_compares_of_lt (s t : Bool) {m n : Nat} (h : n < m) : Compares (sgn s 1) (sgn s m) (sgn t n) := by
  have bound : -(n : Int) ≤ sgn t n ∧ sgn t n ≤ n := by cases t <;> simp [sgn]
  cases s
  · exact ⟨by simp [sgn]; omega, by simp [sgn]; omega⟩
  · exact ⟨by simp [sgn]; omega, by simp [sgn]; omega⟩

theorem cmp_inf_inf (s t : Bool) : (FV.inf s).cmp (.inf t) = sgn s 1 - sgn t 1 := by cases s <;> cases t <;> rfl
theorem cmp_inf_fin (s t : Bool) (n : Nat) (e : Int) : (FV.inf s).cmp (.fin t n e) = sgn s 1 := by cases s <;> rfl
theorem cmp_fin_inf (s t : Bool) (m : Nat) (d : Int) : (FV.fin s m d).cmp (.inf t) = -sgn t 1 := by cases t <;> rfl

/-- Values compare as their encodings do, as sign and magnitude. -/
theorem Decodes.cmp {f : Fmt} {s t : Bool} {a b : Nat} {v w : FV} (hv : Decodes f s a v) (hw : Decodes f t b w) (pos : 0 < f.infBits)
    (ha : a ≤ f.infBits) (hb : b ≤ f.infBits) : Compares (v.cmp w) (sgn s a) (sgn t b) := by
  cases hv with
  | nan h => omega
  | inf h =>
    cases hw with
    | nan h' => omega
    | inf h' =>
      rw [h, h', cmp_inf_inf]
      refine .of_scaled (Int.natCast_pos.mpr pos) ?_
      rw [sub_mul, sgn_mul, sgn_mul, Nat.one_mul]
    | fin h' n e =>
      rw [cmp_inf_fin]
      exact sgn_compares_of_lt s t (h ▸ h')
  | fin h m d hd value =>
    cases hw with
    | nan h' => omega
    | inf h' =>
      rw [cmp_fin_inf]
      exact (sgn_compares_of_lt t s (h' ▸ h)).swap
    | fin h' n e he value' =>
      have key := cmp_fin_scaled s t m n hd he
      rw [value, value'] at key
      obtain ⟨lt, gt⟩ := Compares.of_scaled (by positivity) key
      have mono := sgn_strictMono (units_strictMono f) (units_zero f)
      exact ⟨lt.trans (mono ..), gt.trans (mono ..)⟩

/-! ## NaN, order and tests on encodings (R140) -/

/-- The encoding is of a NaN. -/
def Fmt.isNan (f : Fmt) (x : Nat) : Bool := decide (f.infBits < x % 2 ^ (f.eb + f.mb))

/-- Place of an encoding among the values; the two zeros share one. -/
def Fmt.valueRank (f : Fmt) (x : Nat) : Int :=
  if bit x (f.eb + f.mb) then -(x % 2 ^ (f.eb + f.mb) : Int) else (x % 2 ^ (f.eb + f.mb) : Int)

/-- Place of an encoding in the order that puts -0 below +0. -/
def Fmt.signedRank (f : Fmt) (x : Nat) : Int :=
  if bit x (f.eb + f.mb) then -(x % 2 ^ (f.eb + f.mb) : Int) - 1 else (x % 2 ^ (f.eb + f.mb) : Int)

/-- The choice of R140 between two encodings. -/
def Fmt.pick (f : Fmt) (up : Bool) (x y : Nat) : Nat :=
  if f.isNan x ∧ f.isNan y then f.nan else if f.isNan x then y else if f.isNan y then x
  else if decide (f.signedRank x ≤ f.signedRank y) != up then x else y

/-- The test of R140 on two encodings. -/
def Fmt.holds (f : Fmt) (op x y : Nat) : Bool :=
  if f.isNan x ∨ f.isNan y then decide (op = 1)
  else match op with
    | 0 => decide (f.valueRank x = f.valueRank y)
    | 1 => decide (f.valueRank x ≠ f.valueRank y)
    | 2 => decide (f.valueRank x < f.valueRank y)
    | 3 => decide (f.valueRank x ≤ f.valueRank y)
    | 4 => decide (f.valueRank y < f.valueRank x)
    | _ => decide (f.valueRank y ≤ f.valueRank x)

theorem valueRank_eq (f : Fmt) (x : Nat) : f.valueRank x = sgn (f.neg x) (f.mag x) := by
  simp [Fmt.valueRank, sgn, Fmt.neg, Fmt.mag]

theorem signedRank_eq (f : Fmt) (x : Nat) : f.signedRank x = if f.neg x then f.valueRank x - 1 else f.valueRank x := by
  unfold Fmt.signedRank Fmt.valueRank Fmt.neg
  split <;> rfl

/-- A format with infinities, and with NaN above them (R126). -/
structure Fmt.Ieee (f : Fmt) : Prop where
  spec : f.spec = 0
  inf  : 0 < f.infBits

theorem ieee_binary32 : binary32.Ieee := ⟨rfl, by decide⟩
theorem ieee_binary64 : binary64.Ieee := ⟨rfl, by decide⟩

theorem Fmt.Ieee.dec_nan_iff {f : Fmt} (ieee : f.Ieee) (x : Nat) : f.dec x = .nan ↔ f.isNan x :=
  (dec_decodes ieee.spec x).nan_iff.trans decide_eq_true_iff.symm

theorem Fmt.Ieee.cmp_dec {f : Fmt} (ieee : f.Ieee) {x y : Nat} (hx : ¬f.isNan x) (hy : ¬f.isNan y) :
    Compares ((f.dec x).cmp (f.dec y)) (f.valueRank x) (f.valueRank y) := by
  rw [valueRank_eq, valueRank_eq]
  simp only [Fmt.isNan, decide_eq_true_eq, not_lt] at hx hy
  exact (dec_decodes ieee.spec x).cmp (dec_decodes ieee.spec y) ieee.inf hx hy

/-! ## Tests -/

theorem FV.test_eq (op : Nat) (a b : FV) : a.test op b =
    if a = .nan ∨ b = .nan then decide (op = 1)
    else if op = 0 then decide (a.cmp b = 0) else if op = 1 then !decide (a.cmp b = 0) else if op = 2 then decide (a.cmp b < 0)
    else if op = 3 then decide (a.cmp b ≤ 0) else if op = 4 then decide (0 < a.cmp b) else decide (0 ≤ a.cmp b) := by
  cases a <;> cases b <;> rfl

theorem fsetpTest_eq {f : Fmt} (ieee : f.Ieee) (opmod x y : Nat) : fsetpTest f opmod x y = f.holds (opmod % 8) x y := by
  unfold fsetpTest Fmt.holds
  rw [FV.test_eq]
  simp only [ieee.dec_nan_iff]
  by_cases nan : f.isNan x ∨ f.isNan y
  · rw [if_pos nan, if_pos nan]
  · rw [if_neg nan, if_neg nan]
    rw [not_or] at nan
    have cmp := ieee.cmp_dec nan.1 nan.2
    simp only [cmp.eq, cmp.lt, cmp.gt, cmp.le, cmp.ge]
    match opmod % 8 with
    | 0 => rfl
    | 1 => exact (decide_not ..).symm
    | 2 => rfl
    | 3 => rfl
    | 4 => rfl
    | _ + 5 => rfl

/-! ## Minimum and maximum -/

theorem minMax_eq (f : Fmt) (up : Bool) (x y : Nat) : f.minMax up x y =
    if f.dec x = .nan ∧ f.dec y = .nan then f.nan else if f.dec x = .nan then y else if f.dec y = .nan then x
    else if (decide ((f.dec x).cmp (f.dec y) < 0) || (decide ((f.dec x).cmp (f.dec y) = 0) && f.neg x)) != up then x else y := by
  unfold Fmt.minMax
  cases f.dec x <;> cases f.dec y <;> rfl

/-- Sign and magnitude make up the word. -/
theorem ofNat_width_congr {f : Fmt} {x y : Nat} (sign : f.neg x = f.neg y) (mag : f.mag x = f.mag y) :
    BitVec.ofNat f.width x = BitVec.ofNat f.width y := by
  refine BitVec.eq_of_getLsbD_eq fun i hi => ?_
  rw [BitVec.getLsbD_ofNat, BitVec.getLsbD_ofNat]
  congr 1
  rcases (show i < f.eb + f.mb ∨ i = f.eb + f.mb by unfold Fmt.width at hi; omega) with low | rfl
  · simpa [Fmt.mag, Nat.testBit_mod_two_pow, low] using congrArg (fun n => n.testBit i) mag
  · exact sign

/-- FMIN's test for the smaller operand is the order of R140, but for two equal encodings. -/
theorem below_eq {f : Fmt} {c : Int} {x y : Nat} (cmp : Compares c (f.valueRank x) (f.valueRank y))
    (differ : ¬(f.neg x = f.neg y ∧ f.mag x = f.mag y)) :
    (decide (c < 0) || (decide (c = 0) && f.neg x)) = decide (f.signedRank x ≤ f.signedRank y) := by
  rw [Bool.eq_iff_iff]
  simp only [Bool.or_eq_true, Bool.and_eq_true, decide_eq_true_eq, cmp.lt, cmp.eq, signedRank_eq, valueRank_eq]
  cases hx : f.neg x <;> cases hy : f.neg y <;> simp [hx, hy, sgn] at differ ⊢ <;> omega

theorem minMax_word {f : Fmt} (ieee : f.Ieee) (up : Bool) (x y : Nat) :
    BitVec.ofNat f.width (f.minMax up x y) = BitVec.ofNat f.width (f.pick up x y) := by
  rw [minMax_eq, Fmt.pick]
  simp only [ieee.dec_nan_iff]
  split
  · rfl
  split
  · rfl
  split
  · rfl
  next hx hy =>
    by_cases same : f.neg x = f.neg y ∧ f.mag x = f.mag y
    · have word := ofNat_width_congr same.1 same.2
      rw [apply_ite (BitVec.ofNat f.width), apply_ite (BitVec.ofNat f.width), word, ite_self, ite_self]
    · rw [below_eq (ieee.cmp_dec hx hy) same]

/-! ## The forms -/

theorem fltBin_minMax {f : Fmt} (ieee : f.Ieee) {n : Nat} (hw : f.width = 32 * n) (hn : n = 1 ∨ n = 2) (up : Bool) {x : Issue} {s : State}
    {set act : List Nat} (h : Issues { shBin n 3 with lop := .b } true x s set act) :
    WritesWords n (fun g k => f.pick up (srcA { shBin n 3 with lop := .b } x.f g k n) (srcB { shBin n 3 with lop := .b } x.f g k n))
      x s set act (fltBin n .b (f.minMax up) x s) := by
  obtain ⟨t, next, writes, vals⟩ := fltBin_writesWords h hn (f.minMax up)
  refine ⟨t, next, writes, fun k hk i hi hne => ?_⟩
  rw [vals k hk i hi hne, ← hw, minMax_word ieee]

theorem cmpBin_fsetp {f : Fmt} (ieee : f.Ieee) {n : Nat} {x : Issue} {s : State} {set act : List Nat}
    (h : Issues (shCmp n) (x.f.opmod.toNat % 8 < 6) x s set act) :
    ∃ t, cmpBin n (fsetpTest f x.f.opmod.toNat) x s = .next t ∧ WritesPred x set act x.f.dst.toNat s t ∧
      ∀ k ∈ act, (grp t x.core x.gslot).p k x.f.dst.toNat =
        f.holds (x.f.opmod.toNat % 8) (srcA (shCmp n) x.f (grp s x.core x.gslot) k n) (srcB (shCmp n) x.f (grp s x.core x.gslot) k n) := by
  obtain ⟨t, next, writes, vals⟩ := issueLanes_pred h
    (fun g k => fsetpTest f x.f.opmod.toNat (srcA (shCmp n) x.f g k n) (srcB (shCmp n) x.f g k n)) rfl
    fun _ _ _ e => by rw [srcA_congr e, srcB_congr e]
  exact ⟨t, next, writes, fun k hk => (vals k hk).trans (fsetpTest_eq ieee ..)⟩

/-- Settles O4: a value's place among the values is that of its encoding as sign and magnitude (`Fmt.Ieee.cmp_dec`), and each form's
choice or test follows from the places. -/
theorem floatMinMaxCompare : Obligations.FloatMinMaxCompare := by
  intro x s set act nan mag ord valu pick op test
  refine ⟨fun e he => ?minMax, fun e he => ?setp⟩
  case minMax =>
    intro sh
    simp only [List.mem_cons, List.not_mem_nil, or_false] at he
    rcases he with rfl | rfl | rfl | rfl
    · exact fltBin_minMax ieee_binary32 (n := 1) rfl (.inl rfl) false
    · exact fltBin_minMax ieee_binary32 (n := 1) rfl (.inl rfl) true
    · exact fltBin_minMax ieee_binary64 (n := 2) rfl (.inr rfl) false
    · exact fltBin_minMax ieee_binary64 (n := 2) rfl (.inr rfl) true
  case setp =>
    simp only [List.mem_cons, List.not_mem_nil, or_false] at he
    rcases he with rfl | rfl
    · exact cmpBin_fsetp ieee_binary32
    · exact cmpBin_fsetp ieee_binary64

end Sys2Proof.Machine
end
